-- ==== Sys2Proof/Word.lean ====
section
/-! DEFINITION. The word types of the WV-7400 and their plainest arithmetic (R2, R3, R9). -/

namespace Sys2Proof

/-- A byte of memory (R2). -/
abbrev Byte := BitVec 8

/-- A doubleword: a strand register, a CSR, an address (R24, R314). -/
abbrev Dword := BitVec 64

/-- A strand word (R24). -/
abbrev Word := BitVec 32

/-- The contents of one 128 B line, byte j in bits [8j+7 : 8j] (R2, R72). -/
abbrev Line := BitVec 1024

/-- A byte mask over one line (R181). -/
abbrev LineMask := BitVec 128

end Sys2Proof
end

