-- ==== Sys2Proof/Config.lean ====
section
/-! DEFINITION. What the spec leaves to the implementation or leaves open, as constants without a body: no proof can
see a value of one, so a claim about them holds whatever they are. Each is applied to a plain counter of the state
(State.tick), or to what it depends on. -/

namespace Sys2Proof.Config

/-- FREE VALUE. The value the spec calls unpredictable or does not state, for the n-th time one is asked for (R6). -/
opaque freeWord : Nat → Dword

/-- FREE VALUE. A choice among alternatives the spec allows (a victim way, an arrival order), for the n-th time. -/
opaque pick : Nat → Nat

/-- FREE VALUE. An allowed yes or no (old or new contents, R185), for the n-th time. -/
opaque coin : Nat → Bool

/-- FREE VALUE. Whether a channel fails 16 transfers in a row at the n-th fill (R390). -/
opaque linkFails : Nat → Bool

/-- FREE VALUE. Whether the residue check of an MRE finds a mismatch at the n-th row firing (R391). -/
opaque residueFails : Nat → Bool

/-- FREE VALUE. Which agent that can step takes the n-th step when the schedule names none (R10, R20, R197). -/
opaque arbiter : Nat → Nat

/-- FREE VALUE. Nanoseconds of the time base that the n-th step takes (R21). -/
opaque elapsed : Nat → Nat

/-- FREE VALUE. Control cycles of a core that the n-th step takes (R21). -/
opaque cycles : Nat → Nat

/-- FREE VALUE. Slice cycles of a running handler's budget that the n-th step takes (R93). -/
opaque sliceCycles : Nat → Nat

/-- FREE VALUE. What member q of group g holds as element i of its k-th collective (R169): another package's data. -/
opaque peerElement : Nat → Nat → Nat → Nat → Dword

/-- FREE VALUE. Whether every member of group g agrees on its k-th collective (R415): another package's command. -/
opaque peerAgrees : Nat → Nat → Bool

/-- FREE VALUE. The SHA-256 digest of the firmware key in the ROM mask (R416). -/
opaque romKeyDigest : BitVec 256

/-- FREE VALUE. Modulus of the device key pair derived from the unclonable function (R417). -/
opaque deviceModulus : Nat

/-- FREE VALUE. Public exponent of the device key pair (R417). -/
opaque deviceExponent : Nat

/-- FREE VALUE. Private exponent of the device key pair (R417). -/
opaque devicePrivate : Nat

/-- FREE VALUE. The 16-byte record of the host ring for a released entry: domain, sequence id, position, token (R302). -/
opaque holdRecord : Nat → Nat → Nat → Nat → BitVec 128

/-- FREE VALUE. The board straps (R416, R417). -/
opaque straps : Dword

end Sys2Proof.Config
end

