-- ==== Sys2Proof/Machine/Table.lean ====
section
/-! DEFINITION. Tables: plain data keyed by numbers, keys rising. Each table stands for a total map from a key to an
optional value, in one canonical form: equal maps are equal tables. -/

namespace Sys2Proof.Machine

/-- A table from numbers to values. -/
abbrev Tbl (α : Type) := List (Nat × α)

/-- The value at a key. -/
def Tbl.get? {α : Type} : Tbl α → Nat → Option α
  | [], _ => none
  | (k, v) :: t, n => if k = n then some v else Tbl.get? t n

/-- The value at a key, or a default where the table lists none. -/
def Tbl.getD {α : Type} (t : Tbl α) (n : Nat) (d : α) : α := (t.get? n).getD d

/-- The table without a key. -/
def Tbl.erase {α : Type} : Tbl α → Nat → Tbl α
  | [], _ => []
  | (k, v) :: t, n => if k = n then Tbl.erase t n else (k, v) :: Tbl.erase t n

/-- The table with a key set. -/
def Tbl.set {α : Type} : Tbl α → Nat → α → Tbl α
  | [], n, v => [(n, v)]
  | (k, w) :: t, n, v =>
    if n < k then (n, v) :: (k, w) :: t else if n = k then (n, v) :: t else (k, w) :: Tbl.set t n v

/-- The table with a key's value changed, where it is listed. -/
def Tbl.modify {α : Type} (t : Tbl α) (n : Nat) (f : α → α) : Tbl α :=
  match t.get? n with
  | some v => t.set n (f v)
  | none => t

/-- Whether a key is listed. -/
def Tbl.has {α : Type} (t : Tbl α) (n : Nat) : Bool := (t.get? n).isSome

/-- The keys that are listed. -/
def Tbl.keys {α : Type} (t : Tbl α) : List Nat := t.map (·.1)

/-- The values that are listed. -/
def Tbl.vals {α : Type} (t : Tbl α) : List α := t.map (·.2)

end Sys2Proof.Machine
end

