-- ==== Sys2Proof/Syntax.lean ====
section
/-! DEFINITION. The syntax of the WV-7400's steps: one constructor of Instr per row of spec/opcode_table.json.
Strand words carry their fields (R24 to R37), element words the fields of R38, stream commands the fields of R42;
the part's and the host's own steps, which have no encoding, carry the unit they act on and what the host writes. -/

namespace Sys2Proof

/-- The fields of an element word beside its op, with the constant word that follows it when K = 1 (R38, R39). -/
structure EWord where
  fmt : BitVec 4
  k : Bool
  sat : Bool
  rnd : BitVec 2
  a : BitVec 8
  b : BitVec 8
  c : BitVec 8
  o0 : BitVec 8
  o1 : BitVec 8
  aux : BitVec 8
  konst : BitVec 64
  deriving DecidableEq, Repr

/-- The fields of a stream command beside its opcode (R42). -/
structure Cmd where
  dest : BitVec 16
  s : Bool
  cks : Bool
  flags : BitVec 6
  operand : BitVec 32
  addr : BitVec 64
  deriving DecidableEq, Repr

/-- The ready queues of R366. -/
inductive QueueId where
  | strand (core : Nat)
  | fabric (core : Nat)
  | copy (die : Nat)
  | episode (die : Nat)
  | grammar (die : Nat)
  deriving DecidableEq, Repr

/-- The host-written records and registers of the control map that have no behaviour of their own (R412). -/
inductive HostReg where
  /-- page-table root PA of a context (R383) -/
  | ctxRoot (ctx : Nat)
  /-- doubleword 0 or 1 of the spill area record (R323) -/
  | ctxSpill (ctx : Nat) (dw : Nat)
  /-- doubleword 0 to 9 of the strata window record (R200) -/
  | ctxStrata (ctx : Nat) (dw : Nat)
  /-- event ring: 0 VA, 1 log2 of its records, 2 counter VA, 3 vector plus 1 or 0 for none (R374) -/
  | ctxEventRing (ctx : Nat) (dw : Nat)
  /-- report ring, coded as the event ring (R97) -/
  | ctxReportRing (ctx : Nat) (dw : Nat)
  /-- scrub ring, coded as the event ring (R312) -/
  | ctxScrubRing (ctx : Nat) (dw : Nat)
  /-- scrub list: 0 VA, 1 entries (R312) -/
  | ctxScrubList (ctx : Nat) (dw : Nat)
  /-- [0] CP, [1] FK (R376), [2] scout privilege (R327) -/
  | ctxPolicy (ctx : Nat)
  | ctxSeed (ctx : Nat)
  | ctxLockQuota (ctx : Nat)
  | ctxPinQuota (ctx : Nat)
  | ctxFreezeArea (ctx : Nat)
  /-- state-slot count S of a core (R190) -/
  | coreStateSlots (core : Nat)
  /-- bypass bound of a core's arbiter (R371) -/
  | coreBypass (core : Nat)
  /-- freeze threshold of a core in us (R380) -/
  | coreFreeze (core : Nat)
  /-- ageing interval of a ready queue in us (R366) -/
  | ageing (q : QueueId)
  /-- hold domain: 0 producer, 1 checker, 2 configured, 3 to 6 its host ring coded as the event ring (R302) -/
  | holdDomain (domain : Nat) (dw : Nat)
  /-- collective group: 0 members N, 1 this package's rank r, 2 the ring's ports as a bit mask (R415) -/
  | group (group : Nat) (dw : Nat)
  /-- doubleword 0 to 3 of a Rime handler table entry (R89) -/
  | handler (slice : Nat) (entry : Nat) (dw : Nat)
  | bar4Base
  | fwAddr
  /-- whether the host has enabled AtomicOps requests (R412) -/
  | atomicOps
  | powerCap
  deriving DecidableEq, Repr

/-- A Yelou Link flit (R414). -/
structure Flit where
  seq : BitVec 16
  ack : BitVec 16
  vc : BitVec 4
  kind : BitVec 4
  payload : BitVec 1952
  crc : BitVec 32
  deriving DecidableEq, Repr

/-- What a power or thermal step reports (R419). -/
inductive ThermalCause where
  | junction95
  | powerCap
  | junction110
  | coolantLoss
  deriving DecidableEq, Repr

/-- The agents whose line requests STREAM_REPLY answers (R143, R149). -/
inductive StreamAgent where
  /-- the command, by its number, that a port stream unit or a copy engine executes -/
  | command (uid : Nat)
  /-- the AG, reducer or other element of a cell of a region -/
  | cell (region : Nat) (cell : Nat)
  /-- the tokens a unit beside the fabric feeds to an input port: a grammar mask, a start token, a kernel's row (R239) -/
  | feed (port : Nat)
  deriving DecidableEq, Repr

/-- A kick-slot record as the host writes it (R361). -/
structure KickRecord where
  tgo : BitVec 64
  ctx : Nat
  vector : Option Nat
  enable : Bool
  deriving DecidableEq, Repr

/-- The steps of the part: strand words, element words, stream commands, and the part's and the host's own steps.
One constructor per row of spec/opcode_table.json, in its order. -/
inductive Instr where
  /-- ADD (R335). -/
  | add (d : BitVec 5) (a : BitVec 5) (b : BitVec 5)
  /-- SUB (R335). -/
  | sub (d : BitVec 5) (a : BitVec 5) (b : BitVec 5)
  /-- AND (R335). -/
  | and (d : BitVec 5) (a : BitVec 5) (b : BitVec 5)
  /-- OR (R335). -/
  | or (d : BitVec 5) (a : BitVec 5) (b : BitVec 5)
  /-- XOR (R335). -/
  | xor (d : BitVec 5) (a : BitVec 5) (b : BitVec 5)
  /-- SHL (R335). -/
  | shl (d : BitVec 5) (a : BitVec 5) (b : BitVec 5)
  /-- SHR (R335). -/
  | shr (d : BitVec 5) (a : BitVec 5) (b : BitVec 5)
  /-- SRA (R335). -/
  | sra (d : BitVec 5) (a : BitVec 5) (b : BitVec 5)
  /-- MUL (R335). -/
  | mul (d : BitVec 5) (a : BitVec 5) (b : BitVec 5)
  /-- MULH (R335). -/
  | mulh (d : BitVec 5) (a : BitVec 5) (b : BitVec 5)
  /-- MULHU (R335). -/
  | mulhu (d : BitVec 5) (a : BitVec 5) (b : BitVec 5)
  /-- DIV (R336). -/
  | div (d : BitVec 5) (a : BitVec 5) (b : BitVec 5)
  /-- DIVU (R336). -/
  | divu (d : BitVec 5) (a : BitVec 5) (b : BitVec 5)
  /-- REM (R336). -/
  | rem (d : BitVec 5) (a : BitVec 5) (b : BitVec 5)
  /-- REMU (R336). -/
  | remu (d : BitVec 5) (a : BitVec 5) (b : BitVec 5)
  /-- MIN (R335). -/
  | min (d : BitVec 5) (a : BitVec 5) (b : BitVec 5)
  /-- MAX (R335). -/
  | max (d : BitVec 5) (a : BitVec 5) (b : BitVec 5)
  /-- MINU (R335). -/
  | minu (d : BitVec 5) (a : BitVec 5) (b : BitVec 5)
  /-- MAXU (R335). -/
  | maxu (d : BitVec 5) (a : BitVec 5) (b : BitVec 5)
  /-- SLT (R335). -/
  | slt (d : BitVec 5) (a : BitVec 5) (b : BitVec 5)
  /-- SLTU (R335). -/
  | sltu (d : BitVec 5) (a : BitVec 5) (b : BitVec 5)
  /-- CLZ (R335). -/
  | clz (d : BitVec 5) (a : BitVec 5)
  /-- POPC (R335). -/
  | popc (d : BitVec 5) (a : BitVec 5)
  /-- ADD_W (R337). -/
  | addW (d : BitVec 5) (a : BitVec 5) (b : BitVec 5)
  /-- SUB_W (R337). -/
  | subW (d : BitVec 5) (a : BitVec 5) (b : BitVec 5)
  /-- AND_W (R337). -/
  | andW (d : BitVec 5) (a : BitVec 5) (b : BitVec 5)
  /-- OR_W (R337). -/
  | orW (d : BitVec 5) (a : BitVec 5) (b : BitVec 5)
  /-- XOR_W (R337). -/
  | xorW (d : BitVec 5) (a : BitVec 5) (b : BitVec 5)
  /-- SHL_W (R337). -/
  | shlW (d : BitVec 5) (a : BitVec 5) (b : BitVec 5)
  /-- SHR_W (R337). -/
  | shrW (d : BitVec 5) (a : BitVec 5) (b : BitVec 5)
  /-- SRA_W (R337). -/
  | sraW (d : BitVec 5) (a : BitVec 5) (b : BitVec 5)
  /-- MUL_W (R337). -/
  | mulW (d : BitVec 5) (a : BitVec 5) (b : BitVec 5)
  /-- ADDI (R338). -/
  | addi (d : BitVec 5) (a : BitVec 5) (imm : BitVec 16)
  /-- ANDI (R338). -/
  | andi (d : BitVec 5) (a : BitVec 5) (imm : BitVec 16)
  /-- ORI (R338). -/
  | ori (d : BitVec 5) (a : BitVec 5) (imm : BitVec 16)
  /-- XORI (R338). -/
  | xori (d : BitVec 5) (a : BitVec 5) (imm : BitVec 16)
  /-- SHLI (R338). -/
  | shli (d : BitVec 5) (a : BitVec 5) (amount : BitVec 6)
  /-- SHRI (R338). -/
  | shri (d : BitVec 5) (a : BitVec 5) (amount : BitVec 6)
  /-- SRAI (R338). -/
  | srai (d : BitVec 5) (a : BitVec 5) (amount : BitVec 6)
  /-- SLTI (R338). -/
  | slti (d : BitVec 5) (a : BitVec 5) (imm : BitVec 16)
  /-- SLTIU (R338). -/
  | sltiu (d : BitVec 5) (a : BitVec 5) (imm : BitVec 16)
  /-- LIH (R338). -/
  | lih (d : BitVec 5) (a : BitVec 5) (imm : BitVec 16)
  /-- ADDPC (R338). -/
  | addpc (d : BitVec 5) (imm : BitVec 16)
  /-- JAL (R340). -/
  | jal (d : BitVec 5) (off : BitVec 21)
  /-- JALR (R340). -/
  | jalr (d : BitVec 5) (a : BitVec 5) (imm : BitVec 16)
  /-- BEQ (R339). -/
  | beq (a : BitVec 5) (b : BitVec 5) (off : BitVec 16)
  /-- BNE (R339). -/
  | bne (a : BitVec 5) (b : BitVec 5) (off : BitVec 16)
  /-- BLT (R339). -/
  | blt (a : BitVec 5) (b : BitVec 5) (off : BitVec 16)
  /-- BGE (R339). -/
  | bge (a : BitVec 5) (b : BitVec 5) (off : BitVec 16)
  /-- BLTU (R339). -/
  | bltu (a : BitVec 5) (b : BitVec 5) (off : BitVec 16)
  /-- BGEU (R339). -/
  | bgeu (a : BitVec 5) (b : BitVec 5) (off : BitVec 16)
  /-- LOOP (R341). -/
  | loop (a : BitVec 5) (len : BitVec 12)
  /-- REP (R343). -/
  | rep (a : BitVec 5)
  /-- REP_IMM (R343). -/
  | repImm (count : BitVec 12)
  /-- LDB (R193). -/
  | ldb (d : BitVec 5) (a : BitVec 5) (imm : BitVec 16)
  /-- LDBU (R193). -/
  | ldbu (d : BitVec 5) (a : BitVec 5) (imm : BitVec 16)
  /-- LDH (R193). -/
  | ldh (d : BitVec 5) (a : BitVec 5) (imm : BitVec 16)
  /-- LDHU (R193). -/
  | ldhu (d : BitVec 5) (a : BitVec 5) (imm : BitVec 16)
  /-- LDW (R193). -/
  | ldw (d : BitVec 5) (a : BitVec 5) (imm : BitVec 16)
  /-- LDWU (R193). -/
  | ldwu (d : BitVec 5) (a : BitVec 5) (imm : BitVec 16)
  /-- LDD (R193). -/
  | ldd (d : BitVec 5) (a : BitVec 5) (imm : BitVec 16)
  /-- STB (R193). -/
  | stb (d : BitVec 5) (a : BitVec 5) (imm : BitVec 16)
  /-- STH (R193). -/
  | sth (d : BitVec 5) (a : BitVec 5) (imm : BitVec 16)
  /-- STW (R193). -/
  | stw (d : BitVec 5) (a : BitVec 5) (imm : BitVec 16)
  /-- STD (R193). -/
  | std (d : BitVec 5) (a : BitVec 5) (imm : BitVec 16)
  /-- PF (R195). -/
  | pf (a : BitVec 5)
  /-- FLSH (R195). -/
  | flsh (a : BitVec 5)
  /-- INVL (R195). -/
  | invl (a : BitVec 5)
  /-- PIN (R186). -/
  | pin (d : BitVec 5) (a : BitVec 5)
  /-- UNPIN (R188). -/
  | unpin (d : BitVec 5) (a : BitVec 5)
  /-- LOCK (R81). -/
  | lock (d : BitVec 5) (a : BitVec 5)
  /-- UNLOCK (R83). -/
  | unlock (d : BitVec 5) (a : BitVec 5)
  /-- ATOM_ADD (R196). -/
  | atomAdd (d : BitVec 5) (a : BitVec 5) (b : BitVec 5) (scope : BitVec 2) (size : BitVec 1)
  /-- ATOM_AND (R196). -/
  | atomAnd (d : BitVec 5) (a : BitVec 5) (b : BitVec 5) (scope : BitVec 2) (size : BitVec 1)
  /-- ATOM_OR (R196). -/
  | atomOr (d : BitVec 5) (a : BitVec 5) (b : BitVec 5) (scope : BitVec 2) (size : BitVec 1)
  /-- ATOM_XOR (R196). -/
  | atomXor (d : BitVec 5) (a : BitVec 5) (b : BitVec 5) (scope : BitVec 2) (size : BitVec 1)
  /-- ATOM_MIN (R196). -/
  | atomMin (d : BitVec 5) (a : BitVec 5) (b : BitVec 5) (scope : BitVec 2) (size : BitVec 1)
  /-- ATOM_MAX (R196). -/
  | atomMax (d : BitVec 5) (a : BitVec 5) (b : BitVec 5) (scope : BitVec 2) (size : BitVec 1)
  /-- ATOM_MINU (R196). -/
  | atomMinu (d : BitVec 5) (a : BitVec 5) (b : BitVec 5) (scope : BitVec 2) (size : BitVec 1)
  /-- ATOM_MAXU (R196). -/
  | atomMaxu (d : BitVec 5) (a : BitVec 5) (b : BitVec 5) (scope : BitVec 2) (size : BitVec 1)
  /-- ATOM_SWP (R196). -/
  | atomSwp (d : BitVec 5) (a : BitVec 5) (b : BitVec 5) (scope : BitVec 2) (size : BitVec 1)
  /-- ATOM_CAS (R196). -/
  | atomCas (d : BitVec 5) (a : BitVec 5) (b : BitVec 5) (scope : BitVec 2) (size : BitVec 1)
  /-- FENCE_LD (R207). -/
  | fenceLd (scope : BitVec 2)
  /-- FENCE_ST (R207). -/
  | fenceSt (scope : BitVec 2)
  /-- FENCE_ALL (R207). -/
  | fenceAll (scope : BitVec 2)
  /-- FENCE_ENG (R207). -/
  | fenceEng (scope : BitVec 2)
  /-- LDV_EQ (R205). -/
  | ldvEq (d : BitVec 5) (a : BitVec 5) (b : BitVec 5)
  /-- LDV_GE (R205). -/
  | ldvGe (d : BitVec 5) (a : BitVec 5) (b : BitVec 5)
  /-- STV (R204). -/
  | stv (d : BitVec 5) (a : BitVec 5) (imm : BitVec 16)
  /-- RCLM (R206). -/
  | rclm (a : BitVec 5) (b : BitVec 5)
  /-- FORK (R330). -/
  | fork (d : BitVec 5) (a : BitVec 5) (b : BitVec 5)
  /-- JOIN (R331). -/
  | join
  /-- END (R332). -/
  | endStrand
  /-- YIELD (R333). -/
  | yield
  /-- SCMD (R157). -/
  | scmd (d : BitVec 5) (a : BitVec 5) (b : BitVec 5)
  /-- SCML (R158). -/
  | scml (d : BitVec 5) (a : BitVec 5) (b : BitVec 5)
  /-- RESP (R159). -/
  | resp (d : BitVec 5) (a : BitVec 5)
  /-- PWR (R241). -/
  | pwr (a : BitVec 5) (port : BitVec 4)
  /-- PWR_S (R241). -/
  | pwrS (a : BitVec 5) (port : BitVec 4)
  /-- PWR_SL (R241). -/
  | pwrSl (a : BitVec 5) (port : BitVec 4)
  /-- PRD (R242). -/
  | prd (d : BitVec 5) (port : BitVec 4)
  /-- ACLR (R241). -/
  | aclr (port : BitVec 4)
  /-- EREG (R131). -/
  | ereg (d : BitVec 5) (a : BitVec 5)
  /-- ENEW (R132). -/
  | enew (d : BitVec 5) (a : BitVec 5)
  /-- EAPP (R133). -/
  | eapp (d : BitVec 5) (a : BitVec 5) (b : BitVec 5)
  /-- ECUR (R134). -/
  | ecur (d : BitVec 5) (a : BitVec 5) (b : BitVec 5)
  /-- ESEEK (R135). -/
  | eseek (d : BitVec 5) (a : BitVec 5) (b : BitVec 5)
  /-- ECFG (R136). -/
  | ecfg (d : BitVec 5) (a : BitVec 5) (b : BitVec 5)
  /-- EPLAY (R137). -/
  | eplay (d : BitVec 5) (a : BitVec 5) (b : BitVec 5)
  /-- EBRANCH (R138). -/
  | ebranch (d : BitVec 5) (a : BitVec 5)
  /-- ECOPY (R139). -/
  | ecopy (d : BitVec 5) (a : BitVec 5)
  /-- ESPLICE (R140). -/
  | esplice (d : BitVec 5) (a : BitVec 5) (b : BitVec 5)
  /-- ECALVE (R140). -/
  | ecalve (d : BitVec 5) (a : BitVec 5) (b : BitVec 5)
  /-- EPOS (R141). -/
  | epos (d : BitVec 5) (a : BitVec 5) (b : BitVec 5)
  /-- EFREE (R142). -/
  | efree (d : BitVec 5) (a : BitVec 5) (b : BitVec 5)
  /-- GINIT (R311). -/
  | ginit (d : BitVec 5) (a : BitVec 5)
  /-- GSTEP (R307). -/
  | gstep (d : BitVec 5) (a : BitVec 5) (b : BitVec 5)
  /-- GMASK (R311). -/
  | gmask (d : BitVec 5) (a : BitVec 5) (b : BitVec 5)
  /-- GFORK (R311). -/
  | gfork (d : BitVec 5) (a : BitVec 5)
  /-- GSNAP (R309). -/
  | gsnap (d : BitVec 5) (a : BitVec 5)
  /-- GROLL (R311). -/
  | groll (d : BitVec 5) (a : BitVec 5) (b : BitVec 5)
  /-- GFREE (R311). -/
  | gfree (d : BitVec 5) (a : BitVec 5) (b : BitVec 5)
  /-- ITER (R305). -/
  | iter (d : BitVec 5) (a : BitVec 5)
  /-- HREL (R305). -/
  | hrel (d : BitVec 5) (a : BitVec 5) (b : BitVec 5)
  /-- HDROP (R305). -/
  | hdrop (d : BitVec 5) (a : BitVec 5) (b : BitVec 5)
  /-- HPEEK (R305). -/
  | hpeek (d : BitVec 5) (a : BitVec 5) (b : BitVec 5)
  /-- FADD (R346). -/
  | fadd (d : BitVec 5) (a : BitVec 5) (b : BitVec 5) (rm : BitVec 3) (fmt : BitVec 1)
  /-- FSUB (R346). -/
  | fsub (d : BitVec 5) (a : BitVec 5) (b : BitVec 5) (rm : BitVec 3) (fmt : BitVec 1)
  /-- FMUL (R346). -/
  | fmul (d : BitVec 5) (a : BitVec 5) (b : BitVec 5) (rm : BitVec 3) (fmt : BitVec 1)
  /-- FDIV (R346). -/
  | fdiv (d : BitVec 5) (a : BitVec 5) (b : BitVec 5) (rm : BitVec 3) (fmt : BitVec 1)
  /-- FSQRT (R346). -/
  | fsqrt (d : BitVec 5) (a : BitVec 5) (rm : BitVec 3) (fmt : BitVec 1)
  /-- FMIN (R347). -/
  | fmin (d : BitVec 5) (a : BitVec 5) (b : BitVec 5) (fmt : BitVec 1)
  /-- FMAX (R347). -/
  | fmax (d : BitVec 5) (a : BitVec 5) (b : BitVec 5) (fmt : BitVec 1)
  /-- FFMA (R346). -/
  | ffma (d : BitVec 5) (a : BitVec 5) (b : BitVec 5) (rm : BitVec 3) (fmt : BitVec 1)
  /-- FEQ (R347). -/
  | feq (d : BitVec 5) (a : BitVec 5) (b : BitVec 5) (fmt : BitVec 1)
  /-- FLT (R347). -/
  | flt (d : BitVec 5) (a : BitVec 5) (b : BitVec 5) (fmt : BitVec 1)
  /-- FLE (R347). -/
  | fle (d : BitVec 5) (a : BitVec 5) (b : BitVec 5) (fmt : BitVec 1)
  /-- FCLASS (R347). -/
  | fclass (d : BitVec 5) (a : BitVec 5) (fmt : BitVec 1)
  /-- FCVT_FLOAT (R348). -/
  | fcvtFloat (d : BitVec 5) (a : BitVec 5) (rm : BitVec 3) (fmt : BitVec 1)
  /-- FCVT_FROM_L (R348). -/
  | fcvtFromL (d : BitVec 5) (a : BitVec 5) (rm : BitVec 3) (fmt : BitVec 1)
  /-- FCVT_FROM_LU (R348). -/
  | fcvtFromLu (d : BitVec 5) (a : BitVec 5) (rm : BitVec 3) (fmt : BitVec 1)
  /-- FCVT_TO_L (R348). -/
  | fcvtToL (d : BitVec 5) (a : BitVec 5) (rm : BitVec 3) (fmt : BitVec 1)
  /-- FCVT_TO_LU (R348). -/
  | fcvtToLu (d : BitVec 5) (a : BitVec 5) (rm : BitVec 3) (fmt : BitVec 1)
  /-- FCVT_TO_W (R348). -/
  | fcvtToW (d : BitVec 5) (a : BitVec 5) (rm : BitVec 3) (fmt : BitVec 1)
  /-- FCVT_TO_WU (R348). -/
  | fcvtToWu (d : BitVec 5) (a : BitVec 5) (rm : BitVec 3) (fmt : BitVec 1)
  /-- CSRR (R351). -/
  | csrr (d : BitVec 5) (csr : BitVec 12)
  /-- CSRW (R351). -/
  | csrw (d : BitVec 5) (a : BitVec 5) (csr : BitVec 12)
  /-- CSRS (R351). -/
  | csrs (d : BitVec 5) (a : BitVec 5) (csr : BitVec 12)
  /-- CSRC (R351). -/
  | csrc (d : BitVec 5) (a : BitVec 5) (csr : BitVec 12)
  /-- TRAP (R353). -/
  | trap (code : BitVec 12)
  /-- ERET (R354). -/
  | eret
  /-- BRK (R353). -/
  | brk
  /-- NOP (R355). -/
  | nop
  /-- VADD (R248). -/
  | vadd (e : EWord)
  /-- VSUB (R248). -/
  | vsub (e : EWord)
  /-- VMUL (R248). -/
  | vmul (e : EWord)
  /-- VMULH (R248). -/
  | vmulh (e : EWord)
  /-- VMAD (R248). -/
  | vmad (e : EWord)
  /-- VMIN (R248). -/
  | vmin (e : EWord)
  /-- VMAX (R248). -/
  | vmax (e : EWord)
  /-- VABS (R248). -/
  | vabs (e : EWord)
  /-- VNEG (R248). -/
  | vneg (e : EWord)
  /-- VAND (R248). -/
  | vand (e : EWord)
  /-- VOR (R248). -/
  | vor (e : EWord)
  /-- VXOR (R248). -/
  | vxor (e : EWord)
  /-- VNOT (R248). -/
  | vnot (e : EWord)
  /-- VSHL (R249). -/
  | vshl (e : EWord)
  /-- VSHR (R249). -/
  | vshr (e : EWord)
  /-- VSRA (R249). -/
  | vsra (e : EWord)
  /-- VCLIP (R250). -/
  | vclip (e : EWord)
  /-- VADDS (R248). -/
  | vadds (e : EWord)
  /-- VSUBS (R248). -/
  | vsubs (e : EWord)
  /-- VCMP (R251). -/
  | vcmp (e : EWord)
  /-- VSEL (R252). -/
  | vsel (e : EWord)
  /-- VVAL (R253). -/
  | vval (e : EWord)
  /-- VSCAN (R254). -/
  | vscan (e : EWord)
  /-- FVADD (R255). -/
  | fvadd (e : EWord)
  /-- FVSUB (R255). -/
  | fvsub (e : EWord)
  /-- FVMUL (R255). -/
  | fvmul (e : EWord)
  /-- FVFMA (R255). -/
  | fvfma (e : EWord)
  /-- FVMIN (R255). -/
  | fvmin (e : EWord)
  /-- FVMAX (R255). -/
  | fvmax (e : EWord)
  /-- FVEXP2 (R257). -/
  | fvexp2 (e : EWord)
  /-- FVLOG2 (R257). -/
  | fvlog2 (e : EWord)
  /-- FVRCP (R257). -/
  | fvrcp (e : EWord)
  /-- FVRSQ (R257). -/
  | fvrsq (e : EWord)
  /-- FVTANH (R257). -/
  | fvtanh (e : EWord)
  /-- FVSIGM (R257). -/
  | fvsigm (e : EWord)
  /-- FVCMP (R256). -/
  | fvcmp (e : EWord)
  /-- FVDOT (R258). -/
  | fvdot (e : EWord)
  /-- FVLREC (R259). -/
  | fvlrec (e : EWord)
  /-- VBCAST (R260). -/
  | vbcast (e : EWord)
  /-- VPERM (R261). -/
  | vperm (e : EWord)
  /-- VPACK (R262). -/
  | vpack (e : EWord)
  /-- VUNPK (R263). -/
  | vunpk (e : EWord)
  /-- VSLICE (R264). -/
  | vslice (e : EWord)
  /-- CTURN (R265). -/
  | cturn (e : EWord)
  /-- VRED (R266). -/
  | vred (e : EWord)
  /-- VCONST (R267). -/
  | vconst (e : EWord)
  /-- CVT (R268). -/
  | cvt (e : EWord)
  /-- SCALE (R270). -/
  | scale (e : EWord)
  /-- STEER (R232). -/
  | steer (e : EWord)
  /-- MERGE (R232). -/
  | merge (e : EWord)
  /-- AMERGE (R232). -/
  | amerge (e : EWord)
  /-- CARRY (R233). -/
  | carry (e : EWord)
  /-- INVAR (R233). -/
  | invar (e : EWord)
  /-- PERMIT (R236). -/
  | permit (e : EWord)
  /-- SINK (R234). -/
  | sink (e : EWord)
  /-- MROW (R276). -/
  | mrow (e : EWord)
  /-- MLDB (R275). -/
  | mldb (e : EWord)
  /-- MDRN (R277). -/
  | mdrn (e : EWord)
  /-- MCLR (R277). -/
  | mclr (e : EWord)
  /-- SMXI (R279). -/
  | smxi (e : EWord)
  /-- SMXU (R280). -/
  | smxu (e : EWord)
  /-- SMXF (R279). -/
  | smxf (e : EWord)
  /-- PRED (R282). -/
  | pred (e : EWord)
  /-- RED (R283). -/
  | red (e : EWord)
  /-- STLD (R285). -/
  | stld (e : EWord)
  /-- STST (R286). -/
  | stst (e : EWord)
  /-- AGLD (R154). -/
  | agld (e : EWord)
  /-- AGST (R154). -/
  | agst (e : EWord)
  /-- AGGA (R154). -/
  | agga (e : EWord)
  /-- AGUF (R154). -/
  | aguf (e : EWord)
  /-- AGEP (R155). -/
  | agep (e : EWord)
  /-- LDS (R163). -/
  | lds (c : Cmd)
  /-- STS (R163). -/
  | sts (c : Cmd)
  /-- GTH (R164). -/
  | gth (c : Cmd)
  /-- SCT (R164). -/
  | sct (c : Cmd)
  /-- UNF (R165). -/
  | unf (c : Cmd)
  /-- CPY (R166). -/
  | cpy (c : Cmd)
  /-- CPYL (R166). -/
  | cpyl (c : Cmd)
  /-- FIL (R168). -/
  | fil (c : Cmd)
  /-- COL_ALL_REDUCE (R169). -/
  | colAllReduce (c : Cmd)
  /-- COL_ALL_GATHER (R169). -/
  | colAllGather (c : Cmd)
  /-- COL_REDUCE_SCATTER (R169). -/
  | colReduceScatter (c : Cmd)
  /-- CFG (R170). -/
  | cfg (c : Cmd)
  /-- BARC (R171). -/
  | barc (c : Cmd)
  /-- HAND (R172). -/
  | hand (c : Cmd)
  /-- DRN (R174). -/
  | drn (c : Cmd)
  /-- PTCH (R173). -/
  | ptch (c : Cmd)
  /-- TSK (R175). -/
  | tsk (c : Cmd)
  /-- SWS_SWAP_OUT (R176). -/
  | swsSwapOut (c : Cmd)
  /-- SWS_SWAP_IN (R176). -/
  | swsSwapIn (c : Cmd)
  /-- KICK (R360). -/
  | kick (slot : Nat) (word : BitVec 64)
  /-- REPLAY_START (R364). -/
  | replayStart (slot : Nat)
  /-- NODE_FINISH (R364). -/
  | nodeFinish (task : Nat)
  /-- NODE_DISPATCH (R367). -/
  | nodeDispatch (q : QueueId)
  /-- READY_QUEUE_AGEING (R366). -/
  | readyQueueAgeing (q : QueueId) (level : Nat)
  /-- CONFIG_ADMIT (R369). -/
  | configAdmit (core : Nat)
  /-- PASS_COMPLETE (R224). -/
  | passComplete (core : Nat) (region : Nat)
  /-- SAMPLING_ROUND (R238). -/
  | samplingRound (core : Nat) (region : Nat)
  /-- STALL_TIMER_EXPIRY (R230). -/
  | stallTimerExpiry (core : Nat) (region : Nat) (link : Nat)
  /-- COMPLETION_ACCEPT (R321). -/
  | completionAccept (core : Nat) (sid : Nat)
  /-- RELAUNCH (R320). -/
  | relaunch (core : Nat)
  /-- ROTATION (R316). -/
  | rotation (core : Nat)
  /-- STRAND_PARK (R203). -/
  | strandPark (core : Nat) (sid : Nat)
  /-- SCOUT_YIELD (R328). -/
  | scoutYield (core : Nat) (sid : Nat)
  /-- SCOUT_BUDGET_EXPIRY (R327). -/
  | scoutBudgetExpiry (core : Nat) (sid : Nat)
  /-- L1_FILL (R179). -/
  | l1Fill (core : Nat) (line : Nat)
  /-- CB_DRAIN_ACCEPT (R182). -/
  | cbDrainAccept (core : Nat) (entry : Nat)
  /-- SLICE_FILL (R91). -/
  | sliceFill (line : Nat)
  /-- SLICE_CLEAN (R77). -/
  | sliceClean (line : Nat)
  /-- ATOMIC_AT_SLICE (R84). -/
  | atomicAtSlice (id : Nat)
  /-- STV_AT_SLICE (R204). -/
  | stvAtSlice (id : Nat)
  /-- LDV_AT_SLICE (R205). -/
  | ldvAtSlice (id : Nat)
  /-- RCLM_AT_SLICE (R206). -/
  | rclmAtSlice (id : Nat)
  /-- HANDLER_DISPATCH (R92). -/
  | handlerDispatch (slice : Nat)
  /-- HANDLER_BUDGET_EXPIRY (R93). -/
  | handlerBudgetExpiry (slice : Nat)
  /-- DONE_DEFAULT (R93). -/
  | doneDefault (slice : Nat)
  /-- DONE_INSTALL (R91). -/
  | doneInstall (slice : Nat)
  /-- PREFETCH (R95). -/
  | prefetch (slice : Nat) (va : BitVec 64)
  /-- PREFETCH_ISSUE (R95). -/
  | prefetchIssue (slice : Nat)
  /-- LN_READ (R95). -/
  | lnRead (slice : Nat)
  /-- LN_WRITE (R95). -/
  | lnWrite (slice : Nat)
  /-- FORWARD (R95). -/
  | forward (slice : Nat) (cmd : BitVec 64)
  /-- APPEND_AT_ENGINE (R107). -/
  | appendAtEngine (id : Nat)
  /-- CALVE_AT_ENGINE (R115). -/
  | calveAtEngine (id : Nat)
  /-- SPLICE_AT_ENGINE (R117). -/
  | spliceAtEngine (id : Nat)
  /-- BRANCH_AT_ENGINE (R114). -/
  | branchAtEngine (id : Nat)
  /-- PLAY_STEP (R111). -/
  | playStep (cursor : Nat)
  /-- LOGIT_ROW (R290). -/
  | logitRow (core : Nat)
  /-- SAMPLE_ROW (R293). -/
  | sampleRow (core : Nat) (slot : Nat)
  /-- KERNEL_ROW_RETURN (R295). -/
  | kernelRowReturn (core : Nat) (slot : Nat)
  /-- KERNEL_BUDGET_EXPIRY (R295). -/
  | kernelBudgetExpiry (core : Nat) (slot : Nat)
  /-- ACCEPTANCE (R297). -/
  | acceptance (core : Nat) (entry : Nat)
  /-- ROWS_END (R421). -/
  | rowsEnd (core : Nat)
  /-- COMMIT (R299). -/
  | commit (core : Nat)
  /-- HOLD_ENTRY_RELEASE (R303). -/
  | holdEntryRelease (domain : Nat) (seq : Nat)
  /-- SCRUB_ENTRY (R312). -/
  | scrubEntry (ctx : Nat) (index : Nat)
  /-- PREEMPT (R378). -/
  | preempt (core : Nat) (ctx : Nat) (notice : Bool) (window : Nat)
  /-- RESUME (R382). -/
  | resume (core : Nat) (ctx : Nat)
  /-- PREEMPT_DEADLINE (R380). -/
  | preemptDeadline (core : Nat)
  /-- FREEZE_THRESHOLD_EXPIRY (R381). -/
  | freezeThresholdExpiry (core : Nat)
  /-- CONTEXT_SWITCH (R382). -/
  | contextSwitch (core : Nat)
  /-- REGION_RESTORE (R420). -/
  | regionRestore (core : Nat) (region : Nat)
  /-- CONTEXT_DESTROY (R377). -/
  | contextDestroy (ctx : Nat)
  /-- AG_FAULT_RETRY (R376). -/
  | agFaultRetry (core : Nat) (region : Nat) (cell : Nat)
  /-- STRAND_STATE_ERROR (R388). -/
  | strandStateError (core : Nat) (sid : Nat)
  /-- SLICE_UNCORRECTABLE_ERROR (R80). -/
  | sliceUncorrectableError (line : Nat)
  /-- WALK_START (R385). -/
  | walkStart (die : Nat)
  /-- WALK_DONE (R386). -/
  | walkDone (walk : Nat)
  /-- TLB_SHOOTDOWN (R387). -/
  | tlbShootdown (range : BitVec 2) (va : BitVec 64) (ctx : Nat)
  /-- SHOOTDOWN_COMPLETE (R387). -/
  | shootdownComplete
  /-- MPART_WRITE (R74). -/
  | mpartWrite (value : BitVec 64)
  /-- REGISTER_WRITE (R412). -/
  | registerWrite (reg : HostReg) (value : BitVec 64)
  /-- HOST_MEMORY_WRITE (R413). -/
  | hostMemoryWrite (offset : Nat) (bytes : List (BitVec 8))
  /-- HOST_MEMORY_READ (R413). -/
  | hostMemoryRead (offset : Nat) (size : Nat)
  /-- FLIT_RECEIVE (R414). -/
  | flitReceive (port : Nat) (flit : Flit)
  /-- POWER_UP (R416). -/
  | powerUp
  /-- FIRMWARE_LOAD (R416). -/
  | firmwareLoad (length : BitVec 64)
  /-- FIRMWARE_VERIFY_DONE (R416). -/
  | firmwareVerifyDone
  /-- ATTESTATION_REQUEST (R417). -/
  | attestationRequest (nonce : BitVec 256)
  /-- ATTESTATION_REPORT (R417). -/
  | attestationReport
  /-- POWER_THROTTLE (R419). -/
  | powerThrottle (cause : ThermalCause)
  /-- THERMAL_TRIP (R419). -/
  | thermalTrip (cause : ThermalCause)
  /-- ILLEGAL_INSTRUCTION (R27). -/
  | illegalInstruction (word : BitVec 32)
  /-- RIME_HANDLER_INSTRUCTION (R96). -/
  | rimeHandlerInstruction (slice : Nat)
  /-- COALESCING_BUFFER_DRAIN (R182). -/
  | coalescingBufferDrain (core : Nat) (entry : Nat)
  /-- STREAM_REPLY (R149). -/
  | streamReply (core : Nat) (agent : StreamAgent)
  /-- KICK_SLOT_BIND (R361). -/
  | kickSlotBind (slot : Nat) (rec : KickRecord)
  /-- LINK_PORT_ENABLE (R414). -/
  | linkPortEnable (port : Nat)
  deriving DecidableEq, Repr

end Sys2Proof
end

