-- ==== Sys2Proof/WellFormed.lean ====
section
/-! DEFINITION. Well-formed instructions: the field values the spec's encodings admit. Strand words by R27, R31, R36
and R37; element words by R41 with each entry's own limits (R231, R243 to R270, R271, R282, R153); stream commands
by R43 to R45; the part's own steps by the ranges of their unit numbers. -/

namespace Sys2Proof

/-- CSR numbers of the CSR map (R349). -/
def csrPresent (n : BitVec 12) : Bool :=
  [0x000, 0x001, 0x002, 0x003, 0x004, 0x005, 0x006, 0x007, 0x008, 0x009, 0x00A, 0x00B, 0x00C, 0x00D,
   0x010, 0x011, 0x020, 0x021, 0x030, 0x031, 0x040].contains n.toNat

/-- CSRs that some mode writes (R349). -/
def csrWritable (n : BitVec 12) : Bool :=
  [0x004, 0x005, 0x006, 0x007, 0x008, 0x009, 0x00A, 0x00B, 0x00C, 0x00D, 0x030, 0x031].contains n.toNat

/-- CSRs a task-mode strand may write (R349). -/
def csrTaskWritable (n : BitVec 12) : Bool :=
  [0x007, 0x00C, 0x00D, 0x030, 0x031].contains n.toNat

/-- Rounding codes that are not always illegal (R36). -/
def roundingLegal (rm : BitVec 3) : Bool := rm ≠ 5 && rm ≠ 6

/-! ### Element words -/

/-- Whether an element word uses a field: a required link, one that may be 0xFF, or none. -/
inductive Use where
  | req
  | opt
  | no
  deriving DecidableEq, Repr

/-- What an operation's entry lets its element word hold. fmts has bit f set when lane format f is accepted. -/
structure ElemSpec where
  fmts : Nat
  a : Use := .no
  b : Use := .no
  c : Use := .no
  o0 : Use := .opt
  o1 : Use := .no
  k : Use := .no
  sat : Bool := false
  rnd : Bool := false
  /-- the entry's limits on aux and on the constant word -/
  extra : Bool := true
  deriving DecidableEq, Repr

/-- Lane-format sets (R49, R244, R271). -/
def fmtInt : Nat := 0x80FF
def fmtLaneFloat : Nat := 0x1C00
def fmtDot : Nat := 0x7F00
def fmtAll : Nat := 0xFFFF
def fmtMre : Nat := 0x2701
def fmtRed : Nat := 0x90FF

/-- Lane count of a lane format (R47, R49). -/
def laneCount (f : BitVec 4) : Nat :=
  match f.toNat with
  | 0 | 4 | 8 | 9 => 512
  | 1 | 5 | 10 | 11 => 256
  | 2 | 6 | 12 => 128
  | 3 | 7 => 64
  | 14 => 640
  | _ => 1024

/-- Formats that hold floats (R49). -/
def fmtIsFloat (f : BitVec 4) : Bool := 8 ≤ f.toNat && f.toNat ≤ 14

/-- Segment sizes of FVDOT and VRED coded in aux[3:0] (R258, R266): 0 is the whole token. -/
def segOk (f : BitVec 4) (code least : Nat) : Bool :=
  code = 0 || (least ≤ code && code ≤ 10 && laneCount f % 2 ^ code = 0)

/-- Number of set bits of x below bit n. -/
def bitsSet (x : Nat) : Nat → Nat
  | 0 => 0
  | n + 1 => bitsSet x n + (if x.testBit n then 1 else 0)

/-- The mask program's terms: at most 8 literals, none in a term that is not enabled (R282). -/
def predProgramOk (k : BitVec 64) : Bool :=
  [0, 1, 2, 3].all fun t =>
    let term := k.toNat / 2 ^ (12 * t) % 4096
    bitsSet term 12 ≤ 8 && (term = 0 || k.toNat.testBit (48 + t))

/-- VSLICE's constant (R264). -/
def sliceOk (f : BitVec 4) (k : BitVec 64) : Bool :=
  let s := k.toNat % 2048
  let c := k.toNat / 65536 % 2048
  k.toNat = s + 65536 * c && s < laneCount f && s + c ≤ laneCount f

/-- B is a link, or the constant stands for it when K = 1. -/
def useB (e : EWord) : Use := if e.k then .no else .req

/-- The entry of each element operation (chapters 9, 12, 13 and 14); none for what is no element word. -/
def elemSpec (i : Instr) : Option (EWord × ElemSpec) :=
  let two (e : EWord) (sat : Bool) : Option (EWord × ElemSpec) :=
    some (e, { fmts := fmtInt, a := .req, b := useB e, k := .opt, sat := sat, extra := e.aux == 0 })
  let one (e : EWord) (sat : Bool) : Option (EWord × ElemSpec) :=
    some (e, { fmts := fmtInt, a := .req, sat := sat, extra := e.aux == 0 })
  let ftwo (e : EWord) (r : Bool) : Option (EWord × ElemSpec) :=
    some (e, { fmts := fmtLaneFloat, a := .req, b := useB e, k := .opt, sat := r, rnd := r, extra := e.aux == 0 })
  let special (e : EWord) : Option (EWord × ElemSpec) :=
    some (e, { fmts := fmtLaneFloat, a := .req, sat := true, rnd := true, extra := e.aux == 0 })
  let route (e : EWord) (a b c o0 : Use) (x : Bool) : Option (EWord × ElemSpec) :=
    some (e, { fmts := 1, a := a, b := b, c := c, o0 := o0, extra := x })
  match i with
  | .vadd e | .vsub e | .vmulh e | .vmin e | .vmax e | .vand e | .vor e | .vxor e | .vshr e | .vsra e
  | .vadds e | .vsubs e => two e false
  | .vmul e | .vshl e => two e true
  | .vmad e =>
    some (e, { fmts := fmtInt, a := .req, b := useB e, c := .req, k := .opt, sat := true, extra := e.aux == 0 })
  | .vabs e | .vneg e => one e true
  | .vnot e => one e false
  | .vclip e =>
    some (e, { fmts := fmtInt, a := .req, b := useB e, c := useB e, k := .opt, extra := e.aux == 0 })
  | .vcmp e => some (e, { fmts := fmtInt, a := .req, b := useB e, k := .opt, extra := e.aux.toNat < 6 })
  | .vsel e => some (e, { fmts := fmtInt, a := .req, b := .req, c := .req, extra := e.aux == 0 })
  | .vval e =>
    if e.aux == 0 then some (e, { fmts := fmtInt, a := .req })
    else some (e, { fmts := fmtInt, a := .req, b := useB e, k := .opt, extra := e.aux.toNat < 3 })
  | .vscan e =>
    some (e, { fmts := fmtInt, a := .req, c := .opt, sat := e.aux.toNat % 4 == 0,
               extra := e.aux.toNat < 8 && e.aux.toNat % 4 != 3 })
  | .fvadd e | .fvsub e | .fvmul e => ftwo e true
  | .fvfma e =>
    some (e, { fmts := fmtLaneFloat, a := .req, b := useB e, c := .req, k := .opt, sat := true, rnd := true,
               extra := e.aux == 0 })
  | .fvmin e | .fvmax e => ftwo e false
  | .fvexp2 e | .fvlog2 e | .fvrcp e | .fvrsq e | .fvtanh e | .fvsigm e => special e
  | .fvcmp e =>
    some (e, { fmts := fmtLaneFloat, a := .req, b := useB e, k := .opt, extra := e.aux.toNat < 6 })
  | .fvdot e =>
    some (e, { fmts := fmtDot, a := .req, b := useB e, k := .opt, rnd := true,
               extra := e.aux.toNat < 16 && segOk e.fmt e.aux.toNat 3 })
  | .fvlrec e =>
    some (e, { fmts := fmtLaneFloat, a := .req, b := .req, c := .opt, sat := true, rnd := true, extra := e.aux == 0 })
  | .vbcast e =>
    some (e, { fmts := fmtAll, a := .req, b := .opt, extra := e.b == 0xFF || e.aux == 0 })
  | .vperm e => some (e, { fmts := fmtAll, a := .req, b := .req, extra := e.aux == 0 })
  | .vpack e => some (e, { fmts := fmtAll, a := .req, o1 := .opt, extra := e.aux == 0 })
  | .vunpk e => some (e, { fmts := fmtAll, a := .req, b := .req, extra := e.aux == 0 })
  | .vslice e => some (e, { fmts := fmtAll, a := .req, k := .req, extra := e.aux == 0 && sliceOk e.fmt e.konst })
  | .cturn e => some (e, { fmts := fmtAll, a := .req, extra := 2 ≤ e.aux.toNat && e.aux.toNat ≤ 64 })
  | .vred e =>
    let op := e.aux.toNat / 16
    let sumF := op == 0 && fmtIsFloat e.fmt
    some (e, { fmts := fmtAll, a := .req, sat := op == 0 && !fmtIsFloat e.fmt, rnd := sumF,
               extra := op < 3 && segOk e.fmt (e.aux.toNat % 16) (if sumF then 3 else 1) })
  | .vconst e =>
    some (e, { fmts := if e.aux == 1 then fmtInt else fmtAll, a := .req, k := .req, extra := e.aux.toNat < 2 })
  | .cvt e =>
    some (e, { fmts := fmtAll, a := .req, o1 := .opt, rnd := e.aux.toNat < 128,
               extra := e.aux.toNat / 2 % 64 == 0 })
  | .scale e =>
    some (e, { fmts := fmtAll, a := .req, b := useB e, o1 := .opt, k := .opt, rnd := e.aux.toNat < 128,
               extra := e.aux.toNat / 2 % 64 == 0 && (!e.k || e.konst.toNat < 2 ^ 32) })
  | .steer e =>
    route e .req (if e.aux == 0 then .req else .no) .no .opt (e.aux.toNat < 2 && (e.o0 != 0xFF || e.o1 != 0xFF))
      |>.map fun (e, s) => (e, { s with o1 := .opt })
  | .merge e => route e .req .req .req .req (e.aux == 0)
  | .amerge e => route e .no .req .req .req (e.aux.toNat < 2)
  | .carry e => route e .req .req .req .req (e.aux == 0)
  | .invar e => route e .req .req .no .req (e.aux == 0)
  | .permit e => route e .req .req .req .req (e.aux == 0)
  | .sink e => route e .req .no .no .no (e.aux == 0)
  | .mrow e =>
    let mode := e.aux.toNat / 4
    some (e, { fmts := fmtMre, a := .req, o0 := if mode == 1 then .no else .req,
               o1 := if mode == 0 then .no else .opt, extra := mode < 3 })
  | .mldb e => some (e, { fmts := fmtMre, a := .opt, b := .req, o0 := .no, extra := e.aux.toNat < 4 })
  | .mdrn e =>
    some (e, { fmts := 0x1004, a := .req, o0 := .req, extra := e.aux.toNat % 16 < 4 && e.aux.toNat < 32 })
  | .mclr e => some (e, { fmts := 0x1004, a := .req, extra := e.aux.toNat < 4 })
  | .smxi e => some (e, { fmts := 0x1000, a := .req, o0 := .req, o1 := .opt, extra := e.aux.toNat ≤ 64 })
  | .smxu e =>
    some (e, { fmts := 0x1000, a := .req, b := .req, o0 := .req, o1 := .opt, extra := e.aux == 0 })
  | .smxf e => some (e, { fmts := 0x1000, a := .req, b := .req, o0 := .req, extra := e.aux == 0 })
  | .pred e =>
    some (e, { fmts := 0x0010, a := .req, c := .req, o0 := .req, k := .req,
               extra := e.aux == 0 && predProgramOk e.konst })
  | .red e =>
    let sum := e.aux.toNat % 4 == 0
    some (e, { fmts := fmtRed, a := .req, o0 := .req, sat := sum && !fmtIsFloat e.fmt,
               rnd := sum && fmtIsFloat e.fmt, extra := e.aux.toNat % 4 != 3 && e.aux.toNat < 128 })
  | .stld e => some (e, { fmts := fmtAll, a := .req, o0 := .req, extra := e.aux == 0 || e.aux == 2 })
  | .stst e => some (e, { fmts := fmtAll, a := .req, b := .req, extra := e.aux.toNat < 2 })
  | .agld e =>
    some (e, { fmts := fmtAll, a := .opt, c := .opt, o0 := .req, o1 := .opt, extra := e.aux.toNat < 16 })
  | .agst e =>
    some (e, { fmts := fmtAll, a := .req, b := .opt, c := .opt, extra := e.aux.toNat < 16 })
  | .agga e =>
    if e.aux.toNat < 16 then
      some (e, { fmts := fmtAll, a := .req, c := .opt, o0 := .req, o1 := .opt })
    else
      some (e, { fmts := fmtAll, a := .req, b := .req, c := .opt, extra := e.aux.toNat < 32 })
  | .aguf e =>
    some (e, { fmts := fmtAll, a := .opt, c := .opt, o0 := .req, o1 := .opt, extra := e.aux.toNat < 32 })
  | .agep e => some (e, { fmts := fmtAll, a := .req, c := .opt, k := .req, extra := e.aux.toNat < 16 })
  | _ => none

/-- A link field against its use: 0x00 to 0x3F name links, 0xFF is not connected (R38). -/
def linkFieldOk (u : Use) (v : BitVec 8) : Bool :=
  match u with
  | .req => v.toNat < 64
  | .opt => v.toNat < 64 || v == 0xFF
  | .no => v == 0xFF

/-- The checks of R41 that need the element word alone. The constant word is absent, and held as 0, when K = 0. -/
def elemOk (e : EWord) (s : ElemSpec) : Bool :=
  s.fmts.testBit e.fmt.toNat
    && linkFieldOk s.a e.a && linkFieldOk s.b e.b && linkFieldOk s.c e.c
    && linkFieldOk s.o0 e.o0 && linkFieldOk s.o1 e.o1
    && (match s.k with
        | .req => e.k
        | .opt => true
        | .no => !e.k)
    && (e.k || e.konst == 0) && (!e.sat || s.sat) && (e.rnd == 0 || s.rnd) && s.extra

/-! ### Stream commands -/

/-- Destination kinds of R43. -/
def destPort (c : Cmd) : Bool := c.dest.toNat < 16
def destNone (c : Cmd) : Bool := c.dest == 0
def destGroup (c : Cmd) : Bool := 0x200 ≤ c.dest.toNat && c.dest.toNat ≤ 0x5FF
def destRegion (c : Cmd) : Bool := 0x600 ≤ c.dest.toNat && c.dest.toNat ≤ 0x63F

/-- The fields a command may set, by R42 to R45 and by its entry (R160, R163 to R176). -/
def cmdOk (i : Instr) : Bool :=
  let plain (c : Cmd) : Bool := !c.s && !c.cks
  match i with
  | .lds c => destPort c && !c.cks && c.flags.toNat < 4 && (!c.s || c.operand.toNat < 16)
  | .sts c => destPort c && !c.cks && (c.flags == 0 || c.flags == 2) && (!c.s || c.operand.toNat < 16)
  | .gth c => destPort c && plain c && c.flags.toNat < 4
  | .sct c => destPort c && plain c && (c.flags == 0 || c.flags == 2)
  | .unf c => destPort c && plain c && c.flags.toNat < 4 && c.operand.toNat < 16
  | .cpy c => destNone c && !c.s && c.flags == 0 && c.operand == 0
  | .cpyl c => destNone c && !c.s && c.flags == 0
  | .fil c => destNone c && plain c && c.flags == 0
  | .colAllReduce c => destGroup c && plain c && (c.flags == 0 || c.flags == 4)
  | .colAllGather c => destGroup c && plain c && (c.flags == 1 || c.flags == 5)
  | .colReduceScatter c => destGroup c && plain c && (c.flags == 2 || c.flags == 6)
  | .cfg c => destNone c && plain c && c.flags == 0 && c.operand == 0
  | .barc c => destNone c && plain c && c.flags == 0
  | .hand c => destRegion c && plain c && c.flags == 0 && c.addr == 0
  | .drn c => destRegion c && plain c && c.flags == 0 && c.operand == 0 && c.addr == 0
  | .ptch c => destPort c && plain c && c.flags == 0 && c.operand.toNat < 256
  | .tsk c => destNone c && plain c && c.flags == 0
  | .swsSwapIn c => destNone c && plain c && c.flags == 0
  | .swsSwapOut c => destNone c && plain c && c.flags == 1
  | _ => false

/-! ### Every instruction -/

/-- What the spec's encodings admit (R27, R31, R36, R37, R41, R45), and the ranges of the part's unit numbers (R14). -/
def WellFormed (i : Instr) : Bool :=
  match i with
  | .loop _ len => len != 0
  | .rep a => a != 0
  | .fadd _ _ _ rm _ | .fsub _ _ _ rm _ | .fmul _ _ _ rm _ | .fdiv _ _ _ rm _ | .ffma _ _ _ rm _ => roundingLegal rm
  | .fsqrt _ _ rm _ | .fcvtFloat _ _ rm _ | .fcvtFromL _ _ rm _ | .fcvtFromLu _ _ rm _ | .fcvtToL _ _ rm _
  | .fcvtToLu _ _ rm _ | .fcvtToW _ _ rm _ | .fcvtToWu _ _ rm _ => roundingLegal rm
  | .csrr _ n | .csrw _ _ n | .csrs _ _ n | .csrc _ _ n => csrPresent n
  | .kick slot _ | .replayStart slot | .kickSlotBind slot _ => slot < 131072
  | .linkPortEnable p => p < 16
  | .flitReceive p _ => p < 16
  | .relaunch c | .rotation c | .commit c | .rowsEnd c | .logitRow c => c < 96
  | .completionAccept c sid | .strandPark c sid | .scoutYield c sid | .scoutBudgetExpiry c sid
  | .strandStateError c sid => c < 96 && sid < 65536
  | i =>
    match elemSpec i with
    | some (e, s) => elemOk e s
    | none =>
      match i with
      | .lds _ | .sts _ | .gth _ | .sct _ | .unf _ | .cpy _ | .cpyl _ | .fil _ | .colAllReduce _ | .colAllGather _
      | .colReduceScatter _ | .cfg _ | .barc _ | .hand _ | .drn _ | .ptch _ | .tsk _ | .swsSwapOut _
      | .swsSwapIn _ => cmdOk i
      | _ => true

end Sys2Proof
end

