-- ==== Sys2Proof/Decode.lean ====
section
/-! DEFINITION. The three decoders of the WV-7400, total on any bits and rejecting by name, and the encoder written from
the same tables: strand words (R24 to R37), element words (R38 to R41), stream commands (R42 to R45). -/

namespace Sys2Proof

/-- Why a word is rejected. Strand words reject with the illegal-instruction fault 0x01 (R27), element words with the
status bad element word (R41), commands with the status bad command (R45). -/
inductive DecodeError where
  | unassignedMajor
  | unassignedFunction
  | nonzeroField
  | illegalImmediate
  | illegalRounding
  | illegalCsr
  | unassignedElementOp
  | badElementWord
  | unassignedCommand
  | badCommand
  | truncated
  | noEncoding
  deriving DecidableEq, Repr

/-! ### Strand words -/

/-- The five fields every format shares the places of (R24). -/
structure Fields where
  major : BitVec 6
  d : BitVec 5
  a : BitVec 5
  b : BitVec 5
  fn : BitVec 11
  deriving DecidableEq, Repr

/-- The fields of a word (R24). -/
def fieldsOf (w : Word) : Fields :=
  { major := w.extractLsb' 26 6, d := w.extractLsb' 21 5, a := w.extractLsb' 16 5, b := w.extractLsb' 11 5,
    fn := w.extractLsb' 0 11 }

/-- The word of given fields (R24). -/
def Fields.pack (f : Fields) : Word := f.major ++ f.d ++ f.a ++ f.b ++ f.fn

/-- imm16, and offset16 of format B (R24). -/
def Fields.imm (f : Fields) : BitVec 16 := f.b ++ f.fn

/-- offset21 of format J (R24). -/
def Fields.off21 (f : Fields) : BitVec 21 := f.a ++ f.b ++ f.fn

/-- i, when the fields its form does not use are zero (R27). -/
def whenZero (ok : Bool) (i : Instr) : Except DecodeError Instr := if ok then .ok i else .error .nonzeroField

/-- i, when its immediate field is one its form admits (R31). -/
def whenImm (ok : Bool) (i : Instr) : Except DecodeError Instr := if ok then .ok i else .error .illegalImmediate

/-- The ALU group (R30). -/
def decodeAlu (f : Fields) : Except DecodeError Instr :=
  match f.fn.toNat with
  | 0x001 => .ok (.add f.d f.a f.b)
  | 0x002 => .ok (.sub f.d f.a f.b)
  | 0x003 => .ok (.and f.d f.a f.b)
  | 0x004 => .ok (.or f.d f.a f.b)
  | 0x005 => .ok (.xor f.d f.a f.b)
  | 0x006 => .ok (.shl f.d f.a f.b)
  | 0x007 => .ok (.shr f.d f.a f.b)
  | 0x008 => .ok (.sra f.d f.a f.b)
  | 0x009 => .ok (.mul f.d f.a f.b)
  | 0x00a => .ok (.mulh f.d f.a f.b)
  | 0x00b => .ok (.mulhu f.d f.a f.b)
  | 0x00c => .ok (.div f.d f.a f.b)
  | 0x00d => .ok (.divu f.d f.a f.b)
  | 0x00e => .ok (.rem f.d f.a f.b)
  | 0x00f => .ok (.remu f.d f.a f.b)
  | 0x010 => .ok (.min f.d f.a f.b)
  | 0x011 => .ok (.max f.d f.a f.b)
  | 0x012 => .ok (.minu f.d f.a f.b)
  | 0x013 => .ok (.maxu f.d f.a f.b)
  | 0x014 => .ok (.slt f.d f.a f.b)
  | 0x015 => .ok (.sltu f.d f.a f.b)
  | 0x016 => whenZero (f.b == 0) (.clz f.d f.a)
  | 0x017 => whenZero (f.b == 0) (.popc f.d f.a)
  | 0x401 => .ok (.addW f.d f.a f.b)
  | 0x402 => .ok (.subW f.d f.a f.b)
  | 0x403 => .ok (.andW f.d f.a f.b)
  | 0x404 => .ok (.orW f.d f.a f.b)
  | 0x405 => .ok (.xorW f.d f.a f.b)
  | 0x406 => .ok (.shlW f.d f.a f.b)
  | 0x407 => .ok (.shrW f.d f.a f.b)
  | 0x408 => .ok (.sraW f.d f.a f.b)
  | 0x409 => .ok (.mulW f.d f.a f.b)
  | _ => .error .unassignedFunction

/-- The SHI group (R31). -/
def decodeShi (f : Fields) : Except DecodeError Instr :=
  let amount := f.imm.extractLsb' 0 6
  if f.imm.extractLsb' 8 8 != 0 then .error .illegalImmediate
  else
    match (f.imm.extractLsb' 6 2).toNat with
    | 0 => .ok (.shli f.d f.a amount)
    | 1 => .ok (.shri f.d f.a amount)
    | 2 => .ok (.srai f.d f.a amount)
    | _ => .error .illegalImmediate

/-- LOOP and REP (R31). -/
def decodeLoop (f : Fields) : Except DecodeError Instr :=
  let len := f.imm.extractLsb' 0 12
  if f.d != 0 then .error .nonzeroField
  else whenImm (f.imm.extractLsb' 12 4 == 0 && len != 0) (.loop f.a len)

def decodeRep (f : Fields) : Except DecodeError Instr :=
  if f.d != 0 then .error .nonzeroField
  else if f.a == 0 then whenImm (f.imm.extractLsb' 12 4 == 0) (.repImm (f.imm.extractLsb' 0 12))
  else whenImm (f.imm == 0) (.rep f.a)

/-- The MEMX group (R32). -/
def decodeMemx (f : Fields) : Except DecodeError Instr :=
  match f.fn.toNat with
  | 0x001 => whenZero (f.d == 0 && f.b == 0) (.pf f.a)
  | 0x002 => whenZero (f.d == 0 && f.b == 0) (.flsh f.a)
  | 0x003 => whenZero (f.d == 0 && f.b == 0) (.invl f.a)
  | 0x004 => whenZero (f.b == 0) (.pin f.d f.a)
  | 0x005 => whenZero (f.b == 0) (.unpin f.d f.a)
  | 0x006 => whenZero (f.b == 0) (.lock f.d f.a)
  | 0x007 => whenZero (f.b == 0) (.unlock f.d f.a)
  | _ => .error .unassignedFunction

/-- The ATOM group (R33). -/
def decodeAtom (f : Fields) : Except DecodeError Instr :=
  let scope := f.fn.extractLsb' 5 2
  let size := f.fn.extractLsb' 4 1
  if f.fn.extractLsb' 7 4 != 0 then .error .nonzeroField
  else
    match (f.fn.extractLsb' 0 4).toNat with
    | 0x0 => .ok (.atomAdd f.d f.a f.b scope size)
    | 0x1 => .ok (.atomAnd f.d f.a f.b scope size)
    | 0x2 => .ok (.atomOr f.d f.a f.b scope size)
    | 0x3 => .ok (.atomXor f.d f.a f.b scope size)
    | 0x4 => .ok (.atomMin f.d f.a f.b scope size)
    | 0x5 => .ok (.atomMax f.d f.a f.b scope size)
    | 0x6 => .ok (.atomMinu f.d f.a f.b scope size)
    | 0x7 => .ok (.atomMaxu f.d f.a f.b scope size)
    | 0x8 => .ok (.atomSwp f.d f.a f.b scope size)
    | 0x9 => .ok (.atomCas f.d f.a f.b scope size)
    | _ => .error .unassignedFunction

/-- FENCE (R34). -/
def decodeFence (f : Fields) : Except DecodeError Instr :=
  let scope := f.fn.extractLsb' 0 2
  if f.d != 0 || f.a != 0 || f.b != 0 || f.fn.extractLsb' 4 7 != 0 then .error .nonzeroField
  else
    match (f.fn.extractLsb' 2 2).toNat with
    | 0 => .ok (.fenceLd scope)
    | 1 => .ok (.fenceSt scope)
    | 2 => .ok (.fenceAll scope)
    | _ => .ok (.fenceEng scope)

/-- LDV (R34). -/
def decodeLdv (f : Fields) : Except DecodeError Instr :=
  if f.fn.extractLsb' 1 10 != 0 then .error .nonzeroField
  else if f.fn.extractLsb' 0 1 == 0 then .ok (.ldvEq f.d f.a f.b)
  else .ok (.ldvGe f.d f.a f.b)

/-- The STRAND group (R35). -/
def decodeStrandCtl (f : Fields) : Except DecodeError Instr :=
  let none := f.d == 0 && f.a == 0 && f.b == 0
  match f.fn.toNat with
  | 0x001 => .ok (.fork f.d f.a f.b)
  | 0x002 => whenZero none .join
  | 0x003 => whenZero none .endStrand
  | 0x004 => whenZero none .yield
  | _ => .error .unassignedFunction

/-- The PORT group (R35, R240). -/
def decodePort (f : Fields) : Except DecodeError Instr :=
  let port := f.b.extractLsb' 0 4
  if f.b.extractLsb' 4 1 != 0 then .error .nonzeroField
  else
    match f.fn.toNat with
    | 0x001 =>
      match f.d.toNat with
      | 0 => .ok (.pwr f.a port)
      | 1 => .ok (.pwrS f.a port)
      | 3 => .ok (.pwrSl f.a port)
      | _ => .error .nonzeroField
    | 0x002 => whenZero (f.a == 0) (.prd f.d port)
    | 0x003 => whenZero (f.d == 0 && f.a == 0) (.aclr port)
    | _ => .error .unassignedFunction

/-- The EPI group (R35 and the entries of R131 to R142). -/
def decodeEpi (f : Fields) : Except DecodeError Instr :=
  match f.fn.toNat with
  | 0x001 => whenZero (f.b == 0) (.ereg f.d f.a)
  | 0x002 => whenZero (f.b == 0) (.enew f.d f.a)
  | 0x003 => .ok (.eapp f.d f.a f.b)
  | 0x004 => .ok (.ecur f.d f.a f.b)
  | 0x005 => .ok (.eseek f.d f.a f.b)
  | 0x006 => .ok (.ecfg f.d f.a f.b)
  | 0x007 => .ok (.eplay f.d f.a f.b)
  | 0x008 => whenZero (f.b == 0) (.ebranch f.d f.a)
  | 0x009 => whenZero (f.b == 0) (.ecopy f.d f.a)
  | 0x00a => .ok (.esplice f.d f.a f.b)
  | 0x00b => .ok (.ecalve f.d f.a f.b)
  | 0x00c => .ok (.epos f.d f.a f.b)
  | 0x00d => .ok (.efree f.d f.a f.b)
  | _ => .error .unassignedFunction

/-- The GRAM group (R35 and the entries of R307 to R311). -/
def decodeGram (f : Fields) : Except DecodeError Instr :=
  match f.fn.toNat with
  | 0x001 => whenZero (f.b == 0) (.ginit f.d f.a)
  | 0x002 => .ok (.gstep f.d f.a f.b)
  | 0x003 => .ok (.gmask f.d f.a f.b)
  | 0x004 => whenZero (f.b == 0) (.gfork f.d f.a)
  | 0x005 => whenZero (f.b == 0) (.gsnap f.d f.a)
  | 0x006 => .ok (.groll f.d f.a f.b)
  | 0x007 => .ok (.gfree f.d f.a f.b)
  | _ => .error .unassignedFunction

/-- The GEN group (R35, R305). -/
def decodeGen (f : Fields) : Except DecodeError Instr :=
  match f.fn.toNat with
  | 0x001 => whenZero (f.b == 0) (.iter f.d f.a)
  | 0x002 => .ok (.hrel f.d f.a f.b)
  | 0x003 => .ok (.hdrop f.d f.a f.b)
  | 0x004 => .ok (.hpeek f.d f.a f.b)
  | _ => .error .unassignedFunction

/-- FCVT (R36): the conversion code is in the b field. -/
def decodeFcvt (f : Fields) : Except DecodeError Instr :=
  let rm := f.fn.extractLsb' 6 3
  let fmt := f.fn.extractLsb' 5 1
  match f.b.toNat with
  | 0x00 => .ok (.fcvtFloat f.d f.a rm fmt)
  | 0x01 => .ok (.fcvtFromL f.d f.a rm fmt)
  | 0x02 => .ok (.fcvtFromLu f.d f.a rm fmt)
  | 0x03 => .ok (.fcvtToL f.d f.a rm fmt)
  | 0x04 => .ok (.fcvtToLu f.d f.a rm fmt)
  | 0x05 => .ok (.fcvtToW f.d f.a rm fmt)
  | 0x06 => .ok (.fcvtToWu f.d f.a rm fmt)
  | _ => .error .unassignedFunction

/-- The FP group (R36). -/
def decodeFp (f : Fields) : Except DecodeError Instr :=
  let rm := f.fn.extractLsb' 6 3
  let fmt := f.fn.extractLsb' 5 1
  let rounds (r : Except DecodeError Instr) : Except DecodeError Instr :=
    if roundingLegal rm then r else .error .illegalRounding
  if f.fn.extractLsb' 9 2 != 0 then .error .nonzeroField
  else
    match (f.fn.extractLsb' 0 5).toNat with
    | 0x01 => rounds (.ok (.fadd f.d f.a f.b rm fmt))
    | 0x02 => rounds (.ok (.fsub f.d f.a f.b rm fmt))
    | 0x03 => rounds (.ok (.fmul f.d f.a f.b rm fmt))
    | 0x04 => rounds (.ok (.fdiv f.d f.a f.b rm fmt))
    | 0x05 => rounds (whenZero (f.b == 0) (.fsqrt f.d f.a rm fmt))
    | 0x06 => whenZero (rm == 0) (.fmin f.d f.a f.b fmt)
    | 0x07 => whenZero (rm == 0) (.fmax f.d f.a f.b fmt)
    | 0x08 => rounds (.ok (.ffma f.d f.a f.b rm fmt))
    | 0x09 => whenZero (rm == 0) (.feq f.d f.a f.b fmt)
    | 0x0A => whenZero (rm == 0) (.flt f.d f.a f.b fmt)
    | 0x0B => whenZero (rm == 0) (.fle f.d f.a f.b fmt)
    | 0x0C => rounds (decodeFcvt f)
    | 0x0D => whenZero (rm == 0 && f.b == 0) (.fclass f.d f.a fmt)
    | _ => .error .unassignedFunction

/-- The SYS group (R37). -/
def decodeSys (f : Fields) : Except DecodeError Instr :=
  let n := f.imm.extractLsb' 0 12
  let csr (ok : Bool) (i : Instr) : Except DecodeError Instr := if ok then .ok i else .error .illegalCsr
  match (f.imm.extractLsb' 12 4).toNat with
  | 0x1 => if f.a != 0 then .error .nonzeroField else csr (csrPresent n) (.csrr f.d n)
  | 0x2 => csr (csrPresent n) (.csrw f.d f.a n)
  | 0x3 => csr (csrPresent n) (.csrs f.d f.a n)
  | 0x4 => csr (csrPresent n) (.csrc f.d f.a n)
  | 0x5 => whenZero (f.d == 0 && f.a == 0) (.trap n)
  | 0x6 => whenZero (f.d == 0 && f.a == 0 && n == 0) .eret
  | 0x7 => whenZero (f.d == 0 && f.a == 0 && n == 0) .brk
  | 0x8 => whenZero (f.d == 0 && f.a == 0 && n == 0) .nop
  | _ => .error .unassignedFunction

/-- The major opcode map (R26). In format B the register fields of the word stand in the places of d and a. -/
def decodeFields (f : Fields) : Except DecodeError Instr :=
  match f.major.toNat with
  | 0x00 => decodeAlu f
  | 0x01 => .ok (.addi f.d f.a f.imm)
  | 0x02 => .ok (.andi f.d f.a f.imm)
  | 0x03 => .ok (.ori f.d f.a f.imm)
  | 0x04 => .ok (.xori f.d f.a f.imm)
  | 0x05 => decodeShi f
  | 0x06 => .ok (.slti f.d f.a f.imm)
  | 0x07 => .ok (.sltiu f.d f.a f.imm)
  | 0x08 => .ok (.lih f.d f.a f.imm)
  | 0x09 => whenZero (f.a == 0) (.addpc f.d f.imm)
  | 0x0A => .ok (.jal f.d f.off21)
  | 0x0B => .ok (.jalr f.d f.a f.imm)
  | 0x0C => .ok (.beq f.d f.a f.imm)
  | 0x0D => .ok (.bne f.d f.a f.imm)
  | 0x0E => .ok (.blt f.d f.a f.imm)
  | 0x0F => .ok (.bge f.d f.a f.imm)
  | 0x10 => .ok (.bltu f.d f.a f.imm)
  | 0x11 => .ok (.bgeu f.d f.a f.imm)
  | 0x12 => decodeLoop f
  | 0x13 => decodeRep f
  | 0x14 => .ok (.ldb f.d f.a f.imm)
  | 0x15 => .ok (.ldbu f.d f.a f.imm)
  | 0x16 => .ok (.ldh f.d f.a f.imm)
  | 0x17 => .ok (.ldhu f.d f.a f.imm)
  | 0x18 => .ok (.ldw f.d f.a f.imm)
  | 0x19 => .ok (.ldwu f.d f.a f.imm)
  | 0x1A => .ok (.ldd f.d f.a f.imm)
  | 0x1B => .ok (.stb f.d f.a f.imm)
  | 0x1C => .ok (.sth f.d f.a f.imm)
  | 0x1D => .ok (.stw f.d f.a f.imm)
  | 0x1E => .ok (.std f.d f.a f.imm)
  | 0x1F => decodeMemx f
  | 0x20 => decodeAtom f
  | 0x21 => decodeFence f
  | 0x22 => decodeLdv f
  | 0x23 => .ok (.stv f.d f.a f.imm)
  | 0x24 => whenZero (f.d == 0 && f.fn == 0) (.rclm f.a f.b)
  | 0x25 => decodeStrandCtl f
  | 0x26 => whenZero (f.fn == 0) (.scmd f.d f.a f.b)
  | 0x27 => whenZero (f.fn == 0) (.scml f.d f.a f.b)
  | 0x28 => whenZero (f.b == 0 && f.fn == 0) (.resp f.d f.a)
  | 0x29 => decodePort f
  | 0x2A => decodeEpi f
  | 0x2B => decodeGram f
  | 0x2C => decodeGen f
  | 0x2D => decodeFp f
  | 0x3E => decodeSys f
  | _ => .error .unassignedMajor

/-- The strand decoder: an instruction, or why the word is illegal (R27). -/
def decodeStrand (w : Word) : Except DecodeError Instr := decodeFields (fieldsOf w)

/-- The fields of a strand instruction's word (R24 to R37); none for a step that is no strand word. -/
def encodeFields (i : Instr) : Option Fields :=
  let mk (major : BitVec 6) (d a b : BitVec 5) (fn : BitVec 11) : Option Fields := some ⟨major, d, a, b, fn⟩
  let immI (major : BitVec 6) (d a : BitVec 5) (imm : BitVec 16) : Option Fields :=
    some ⟨major, d, a, imm.extractLsb' 11 5, imm.extractLsb' 0 11⟩
  let off (major : BitVec 6) (d : BitVec 5) (o : BitVec 21) : Option Fields :=
    some ⟨major, d, o.extractLsb' 16 5, o.extractLsb' 11 5, o.extractLsb' 0 11⟩
  let atom (d a b : BitVec 5) (scope : BitVec 2) (size : BitVec 1) (op : BitVec 4) : Option Fields :=
    some ⟨0x20, d, a, b, 0#4 ++ scope ++ size ++ op⟩
  let fence (kind scope : BitVec 2) : Option Fields := some ⟨0x21, 0, 0, 0, 0#7 ++ kind ++ scope⟩
  let fp (d a b : BitVec 5) (rm : BitVec 3) (fmt : BitVec 1) (op : BitVec 5) : Option Fields :=
    some ⟨0x2D, d, a, b, 0#2 ++ rm ++ fmt ++ op⟩
  let port (d a : BitVec 5) (p : BitVec 4) (fn : BitVec 11) : Option Fields := some ⟨0x29, d, a, 0#1 ++ p, fn⟩
  let sys (d a : BitVec 5) (sub : BitVec 4) (n : BitVec 12) : Option Fields := immI 0x3E d a (sub ++ n)
  match i with
  | .add d a b => mk 0x00 d a b 0x001
  | .sub d a b => mk 0x00 d a b 0x002
  | .and d a b => mk 0x00 d a b 0x003
  | .or d a b => mk 0x00 d a b 0x004
  | .xor d a b => mk 0x00 d a b 0x005
  | .shl d a b => mk 0x00 d a b 0x006
  | .shr d a b => mk 0x00 d a b 0x007
  | .sra d a b => mk 0x00 d a b 0x008
  | .mul d a b => mk 0x00 d a b 0x009
  | .mulh d a b => mk 0x00 d a b 0x00a
  | .mulhu d a b => mk 0x00 d a b 0x00b
  | .div d a b => mk 0x00 d a b 0x00c
  | .divu d a b => mk 0x00 d a b 0x00d
  | .rem d a b => mk 0x00 d a b 0x00e
  | .remu d a b => mk 0x00 d a b 0x00f
  | .min d a b => mk 0x00 d a b 0x010
  | .max d a b => mk 0x00 d a b 0x011
  | .minu d a b => mk 0x00 d a b 0x012
  | .maxu d a b => mk 0x00 d a b 0x013
  | .slt d a b => mk 0x00 d a b 0x014
  | .sltu d a b => mk 0x00 d a b 0x015
  | .clz d a => mk 0x00 d a 0 0x016
  | .popc d a => mk 0x00 d a 0 0x017
  | .addW d a b => mk 0x00 d a b 0x401
  | .subW d a b => mk 0x00 d a b 0x402
  | .andW d a b => mk 0x00 d a b 0x403
  | .orW d a b => mk 0x00 d a b 0x404
  | .xorW d a b => mk 0x00 d a b 0x405
  | .shlW d a b => mk 0x00 d a b 0x406
  | .shrW d a b => mk 0x00 d a b 0x407
  | .sraW d a b => mk 0x00 d a b 0x408
  | .mulW d a b => mk 0x00 d a b 0x409
  | .addi d a imm => immI 0x01 d a imm
  | .andi d a imm => immI 0x02 d a imm
  | .ori d a imm => immI 0x03 d a imm
  | .xori d a imm => immI 0x04 d a imm
  | .shli d a amount => immI 0x05 d a (0#8 ++ 0#2 ++ amount)
  | .shri d a amount => immI 0x05 d a (0#8 ++ 1#2 ++ amount)
  | .srai d a amount => immI 0x05 d a (0#8 ++ 2#2 ++ amount)
  | .slti d a imm => immI 0x06 d a imm
  | .sltiu d a imm => immI 0x07 d a imm
  | .lih d a imm => immI 0x08 d a imm
  | .addpc d imm => immI 0x09 d 0 imm
  | .jal d o => off 0x0A d o
  | .jalr d a imm => immI 0x0B d a imm
  | .beq a b o => immI 0x0C a b o
  | .bne a b o => immI 0x0D a b o
  | .blt a b o => immI 0x0E a b o
  | .bge a b o => immI 0x0F a b o
  | .bltu a b o => immI 0x10 a b o
  | .bgeu a b o => immI 0x11 a b o
  | .loop a len => immI 0x12 0 a (0#4 ++ len)
  | .rep a => immI 0x13 0 a 0
  | .repImm count => immI 0x13 0 0 (0#4 ++ count)
  | .ldb d a imm => immI 0x14 d a imm
  | .ldbu d a imm => immI 0x15 d a imm
  | .ldh d a imm => immI 0x16 d a imm
  | .ldhu d a imm => immI 0x17 d a imm
  | .ldw d a imm => immI 0x18 d a imm
  | .ldwu d a imm => immI 0x19 d a imm
  | .ldd d a imm => immI 0x1A d a imm
  | .stb d a imm => immI 0x1B d a imm
  | .sth d a imm => immI 0x1C d a imm
  | .stw d a imm => immI 0x1D d a imm
  | .std d a imm => immI 0x1E d a imm
  | .pf a => mk 0x1F 0 a 0 0x001
  | .flsh a => mk 0x1F 0 a 0 0x002
  | .invl a => mk 0x1F 0 a 0 0x003
  | .pin d a => mk 0x1F d a 0 0x004
  | .unpin d a => mk 0x1F d a 0 0x005
  | .lock d a => mk 0x1F d a 0 0x006
  | .unlock d a => mk 0x1F d a 0 0x007
  | .atomAdd d a b scope size => atom d a b scope size 0x0
  | .atomAnd d a b scope size => atom d a b scope size 0x1
  | .atomOr d a b scope size => atom d a b scope size 0x2
  | .atomXor d a b scope size => atom d a b scope size 0x3
  | .atomMin d a b scope size => atom d a b scope size 0x4
  | .atomMax d a b scope size => atom d a b scope size 0x5
  | .atomMinu d a b scope size => atom d a b scope size 0x6
  | .atomMaxu d a b scope size => atom d a b scope size 0x7
  | .atomSwp d a b scope size => atom d a b scope size 0x8
  | .atomCas d a b scope size => atom d a b scope size 0x9
  | .fenceLd scope => fence 0 scope
  | .fenceSt scope => fence 1 scope
  | .fenceAll scope => fence 2 scope
  | .fenceEng scope => fence 3 scope
  | .ldvEq d a b => mk 0x22 d a b 0x000
  | .ldvGe d a b => mk 0x22 d a b 0x001
  | .stv d a imm => immI 0x23 d a imm
  | .rclm a b => mk 0x24 0 a b 0x000
  | .fork d a b => mk 0x25 d a b 0x001
  | .join => mk 0x25 0 0 0 0x002
  | .endStrand => mk 0x25 0 0 0 0x003
  | .yield => mk 0x25 0 0 0 0x004
  | .scmd d a b => mk 0x26 d a b 0x000
  | .scml d a b => mk 0x27 d a b 0x000
  | .resp d a => mk 0x28 d a 0 0x000
  | .pwr a p => port 0 a p 1
  | .pwrS a p => port 1 a p 1
  | .pwrSl a p => port 3 a p 1
  | .prd d p => port d 0 p 2
  | .aclr p => port 0 0 p 3
  | .ereg d a => mk 0x2A d a 0 0x001
  | .enew d a => mk 0x2A d a 0 0x002
  | .eapp d a b => mk 0x2A d a b 0x003
  | .ecur d a b => mk 0x2A d a b 0x004
  | .eseek d a b => mk 0x2A d a b 0x005
  | .ecfg d a b => mk 0x2A d a b 0x006
  | .eplay d a b => mk 0x2A d a b 0x007
  | .ebranch d a => mk 0x2A d a 0 0x008
  | .ecopy d a => mk 0x2A d a 0 0x009
  | .esplice d a b => mk 0x2A d a b 0x00a
  | .ecalve d a b => mk 0x2A d a b 0x00b
  | .epos d a b => mk 0x2A d a b 0x00c
  | .efree d a b => mk 0x2A d a b 0x00d
  | .ginit d a => mk 0x2B d a 0 0x001
  | .gstep d a b => mk 0x2B d a b 0x002
  | .gmask d a b => mk 0x2B d a b 0x003
  | .gfork d a => mk 0x2B d a 0 0x004
  | .gsnap d a => mk 0x2B d a 0 0x005
  | .groll d a b => mk 0x2B d a b 0x006
  | .gfree d a b => mk 0x2B d a b 0x007
  | .iter d a => mk 0x2C d a 0 0x001
  | .hrel d a b => mk 0x2C d a b 0x002
  | .hdrop d a b => mk 0x2C d a b 0x003
  | .hpeek d a b => mk 0x2C d a b 0x004
  | .fadd d a b rm fmt => fp d a b rm fmt 0x01
  | .fsub d a b rm fmt => fp d a b rm fmt 0x02
  | .fmul d a b rm fmt => fp d a b rm fmt 0x03
  | .fdiv d a b rm fmt => fp d a b rm fmt 0x04
  | .fsqrt d a rm fmt => fp d a 0 rm fmt 0x05
  | .fmin d a b fmt => fp d a b 0 fmt 0x06
  | .fmax d a b fmt => fp d a b 0 fmt 0x07
  | .ffma d a b rm fmt => fp d a b rm fmt 0x08
  | .feq d a b fmt => fp d a b 0 fmt 0x09
  | .flt d a b fmt => fp d a b 0 fmt 0x0a
  | .fle d a b fmt => fp d a b 0 fmt 0x0b
  | .fclass d a fmt => fp d a 0 0 fmt 0x0d
  | .fcvtFloat d a rm fmt => fp d a 0 rm fmt 0x0c
  | .fcvtFromL d a rm fmt => fp d a 1 rm fmt 0x0c
  | .fcvtFromLu d a rm fmt => fp d a 2 rm fmt 0x0c
  | .fcvtToL d a rm fmt => fp d a 3 rm fmt 0x0c
  | .fcvtToLu d a rm fmt => fp d a 4 rm fmt 0x0c
  | .fcvtToW d a rm fmt => fp d a 5 rm fmt 0x0c
  | .fcvtToWu d a rm fmt => fp d a 6 rm fmt 0x0c
  | .csrr d csr => sys d 0 0x1 csr
  | .csrw d a csr => sys d a 0x2 csr
  | .csrs d a csr => sys d a 0x3 csr
  | .csrc d a csr => sys d a 0x4 csr
  | .trap code => sys 0 0 0x5 code
  | .eret => sys 0 0 0x6 0
  | .brk => sys 0 0 0x7 0
  | .nop => sys 0 0 0x8 0
  | .vadd _ | .vsub _ | .vmul _ | .vmulh _ | .vmad _ | .vmin _ | .vmax _ | .vabs _ | .vneg _ | .vand _ | .vor _
  | .vxor _ | .vnot _ | .vshl _ | .vshr _ | .vsra _ | .vclip _ | .vadds _ | .vsubs _ | .vcmp _ | .vsel _
  | .vval _ | .vscan _ | .fvadd _ | .fvsub _ | .fvmul _ | .fvfma _ | .fvmin _ | .fvmax _ | .fvexp2 _ | .fvlog2 _
  | .fvrcp _ | .fvrsq _ | .fvtanh _ | .fvsigm _ | .fvcmp _ | .fvdot _ | .fvlrec _ | .vbcast _ | .vperm _
  | .vpack _ | .vunpk _ | .vslice _ | .cturn _ | .vred _ | .vconst _ | .cvt _ | .scale _ | .steer _ | .merge _
  | .amerge _ | .carry _ | .invar _ | .permit _ | .sink _ | .mrow _ | .mldb _ | .mdrn _ | .mclr _ | .smxi _
  | .smxu _ | .smxf _ | .pred _ | .red _ | .stld _ | .stst _ | .agld _ | .agst _ | .agga _ | .aguf _ | .agep _
  | .lds _ | .sts _ | .gth _ | .sct _ | .unf _ | .cpy _ | .cpyl _ | .fil _ | .colAllReduce _ | .colAllGather _
  | .colReduceScatter _ | .cfg _ | .barc _ | .hand _ | .drn _ | .ptch _ | .tsk _ | .swsSwapOut _ | .swsSwapIn _
  | .kick _ _ | .replayStart _ | .nodeFinish _ | .nodeDispatch _ | .readyQueueAgeing _ _ | .configAdmit _
  | .passComplete _ _ | .samplingRound _ _ | .stallTimerExpiry _ _ _ | .completionAccept _ _ | .relaunch _
  | .rotation _ | .strandPark _ _ | .scoutYield _ _ | .scoutBudgetExpiry _ _ | .l1Fill _ _ | .cbDrainAccept _ _
  | .sliceFill _ | .sliceClean _ | .atomicAtSlice _ | .stvAtSlice _ | .ldvAtSlice _ | .rclmAtSlice _
  | .handlerDispatch _ | .handlerBudgetExpiry _ | .doneDefault _ | .doneInstall _ | .prefetch _ _
  | .prefetchIssue _ | .lnRead _ | .lnWrite _ | .forward _ _ | .appendAtEngine _ | .calveAtEngine _
  | .spliceAtEngine _ | .branchAtEngine _ | .playStep _ | .logitRow _ | .sampleRow _ _ | .kernelRowReturn _ _
  | .kernelBudgetExpiry _ _ | .acceptance _ _ | .rowsEnd _ | .commit _ | .holdEntryRelease _ _ | .scrubEntry _ _
  | .preempt _ _ _ _ | .resume _ _ | .preemptDeadline _ | .freezeThresholdExpiry _ | .contextSwitch _
  | .regionRestore _ _ | .contextDestroy _ | .agFaultRetry _ _ _ | .strandStateError _ _
  | .sliceUncorrectableError _ | .walkStart _ | .walkDone _ | .tlbShootdown _ _ _ | .shootdownComplete
  | .mpartWrite _ | .registerWrite _ _ | .hostMemoryWrite _ _ | .hostMemoryRead _ _ | .flitReceive _ _ | .powerUp
  | .firmwareLoad _ | .firmwareVerifyDone | .attestationRequest _ | .attestationReport | .powerThrottle _
  | .thermalTrip _ | .illegalInstruction _ | .rimeHandlerInstruction _ | .coalescingBufferDrain _ _
  | .streamReply _ _ | .kickSlotBind _ _ | .linkPortEnable _ => none

/-- The strand word of an instruction (R24). -/
def encodeStrand (i : Instr) : Option Word := (encodeFields i).map Fields.pack

/-! ### Element words -/

/-- The element instruction of an op code (R40). -/
def mkElem (op : Nat) (e : EWord) : Option Instr :=
  match op with
  | 0x01 => some (.vadd e)
  | 0x02 => some (.vsub e)
  | 0x03 => some (.vmul e)
  | 0x04 => some (.vmulh e)
  | 0x05 => some (.vmad e)
  | 0x06 => some (.vmin e)
  | 0x07 => some (.vmax e)
  | 0x08 => some (.vabs e)
  | 0x09 => some (.vneg e)
  | 0x0A => some (.vand e)
  | 0x0B => some (.vor e)
  | 0x0C => some (.vxor e)
  | 0x0D => some (.vnot e)
  | 0x0E => some (.vshl e)
  | 0x0F => some (.vshr e)
  | 0x10 => some (.vsra e)
  | 0x11 => some (.vclip e)
  | 0x12 => some (.vadds e)
  | 0x13 => some (.vsubs e)
  | 0x14 => some (.vcmp e)
  | 0x15 => some (.vsel e)
  | 0x16 => some (.vval e)
  | 0x17 => some (.vscan e)
  | 0x20 => some (.fvadd e)
  | 0x21 => some (.fvsub e)
  | 0x22 => some (.fvmul e)
  | 0x23 => some (.fvfma e)
  | 0x24 => some (.fvmin e)
  | 0x25 => some (.fvmax e)
  | 0x26 => some (.fvexp2 e)
  | 0x27 => some (.fvlog2 e)
  | 0x28 => some (.fvrcp e)
  | 0x29 => some (.fvrsq e)
  | 0x2A => some (.fvtanh e)
  | 0x2B => some (.fvsigm e)
  | 0x2C => some (.fvcmp e)
  | 0x2D => some (.fvdot e)
  | 0x2E => some (.fvlrec e)
  | 0x40 => some (.vbcast e)
  | 0x41 => some (.vperm e)
  | 0x42 => some (.vpack e)
  | 0x43 => some (.vunpk e)
  | 0x44 => some (.vslice e)
  | 0x45 => some (.cturn e)
  | 0x46 => some (.vred e)
  | 0x47 => some (.vconst e)
  | 0x60 => some (.cvt e)
  | 0x61 => some (.scale e)
  | 0x70 => some (.steer e)
  | 0x71 => some (.merge e)
  | 0x72 => some (.amerge e)
  | 0x73 => some (.carry e)
  | 0x74 => some (.invar e)
  | 0x75 => some (.permit e)
  | 0x76 => some (.sink e)
  | 0x80 => some (.mrow e)
  | 0x81 => some (.mldb e)
  | 0x82 => some (.mdrn e)
  | 0x83 => some (.mclr e)
  | 0x90 => some (.smxi e)
  | 0x91 => some (.smxu e)
  | 0x92 => some (.smxf e)
  | 0x93 => some (.pred e)
  | 0xA0 => some (.red e)
  | 0xA1 => some (.stld e)
  | 0xA2 => some (.stst e)
  | 0xB0 => some (.agld e)
  | 0xB1 => some (.agst e)
  | 0xB2 => some (.agga e)
  | 0xB3 => some (.aguf e)
  | 0xB4 => some (.agep e)
  | _ => none

/-- The op code of an element instruction (R40). -/
def elemOp (i : Instr) : Option (BitVec 8 × EWord) :=
  match i with
  | .vadd e => some (0x01, e)
  | .vsub e => some (0x02, e)
  | .vmul e => some (0x03, e)
  | .vmulh e => some (0x04, e)
  | .vmad e => some (0x05, e)
  | .vmin e => some (0x06, e)
  | .vmax e => some (0x07, e)
  | .vabs e => some (0x08, e)
  | .vneg e => some (0x09, e)
  | .vand e => some (0x0A, e)
  | .vor e => some (0x0B, e)
  | .vxor e => some (0x0C, e)
  | .vnot e => some (0x0D, e)
  | .vshl e => some (0x0E, e)
  | .vshr e => some (0x0F, e)
  | .vsra e => some (0x10, e)
  | .vclip e => some (0x11, e)
  | .vadds e => some (0x12, e)
  | .vsubs e => some (0x13, e)
  | .vcmp e => some (0x14, e)
  | .vsel e => some (0x15, e)
  | .vval e => some (0x16, e)
  | .vscan e => some (0x17, e)
  | .fvadd e => some (0x20, e)
  | .fvsub e => some (0x21, e)
  | .fvmul e => some (0x22, e)
  | .fvfma e => some (0x23, e)
  | .fvmin e => some (0x24, e)
  | .fvmax e => some (0x25, e)
  | .fvexp2 e => some (0x26, e)
  | .fvlog2 e => some (0x27, e)
  | .fvrcp e => some (0x28, e)
  | .fvrsq e => some (0x29, e)
  | .fvtanh e => some (0x2A, e)
  | .fvsigm e => some (0x2B, e)
  | .fvcmp e => some (0x2C, e)
  | .fvdot e => some (0x2D, e)
  | .fvlrec e => some (0x2E, e)
  | .vbcast e => some (0x40, e)
  | .vperm e => some (0x41, e)
  | .vpack e => some (0x42, e)
  | .vunpk e => some (0x43, e)
  | .vslice e => some (0x44, e)
  | .cturn e => some (0x45, e)
  | .vred e => some (0x46, e)
  | .vconst e => some (0x47, e)
  | .cvt e => some (0x60, e)
  | .scale e => some (0x61, e)
  | .steer e => some (0x70, e)
  | .merge e => some (0x71, e)
  | .amerge e => some (0x72, e)
  | .carry e => some (0x73, e)
  | .invar e => some (0x74, e)
  | .permit e => some (0x75, e)
  | .sink e => some (0x76, e)
  | .mrow e => some (0x80, e)
  | .mldb e => some (0x81, e)
  | .mdrn e => some (0x82, e)
  | .mclr e => some (0x83, e)
  | .smxi e => some (0x90, e)
  | .smxu e => some (0x91, e)
  | .smxf e => some (0x92, e)
  | .pred e => some (0x93, e)
  | .red e => some (0xA0, e)
  | .stld e => some (0xA1, e)
  | .stst e => some (0xA2, e)
  | .agld e => some (0xB0, e)
  | .agst e => some (0xB1, e)
  | .agga e => some (0xB2, e)
  | .aguf e => some (0xB3, e)
  | .agep e => some (0xB4, e)
  | _ => none

/-- The fields of an element word and the constant word behind it (R38, R39). -/
def ewordOf (w konst : BitVec 64) : EWord :=
  { fmt := w.extractLsb' 52 4, k := w.getLsbD 51, sat := w.getLsbD 50, rnd := w.extractLsb' 48 2,
    a := w.extractLsb' 40 8, b := w.extractLsb' 32 8, c := w.extractLsb' 24 8, o0 := w.extractLsb' 16 8,
    o1 := w.extractLsb' 8 8, aux := w.extractLsb' 0 8, konst := if w.getLsbD 51 then konst else 0 }

/-- The element decoder, with the constant word that follows when K = 1: an instruction, or why R41 rejects it. -/
def decodeElement (w konst : BitVec 64) : Except DecodeError Instr :=
  match mkElem (w.extractLsb' 56 8).toNat (ewordOf w konst) with
  | none => .error .unassignedElementOp
  | some i => if WellFormed i then .ok i else .error .badElementWord

/-- The element word of an instruction, and its constant word when K = 1 (R38, R39). -/
def encodeElement (i : Instr) : Option (BitVec 64 × Option (BitVec 64)) :=
  (elemOp i).map fun (op, e) =>
    (op ++ e.fmt ++ BitVec.ofBool e.k ++ BitVec.ofBool e.sat ++ e.rnd ++ e.a ++ e.b ++ e.c ++ e.o0 ++ e.o1 ++ e.aux,
     if e.k then some e.konst else none)

/-! ### Stream commands -/

/-- The command of an opcode and its flags (R44). -/
def mkCmd (op : Nat) (c : Cmd) : Option Instr :=
  match op with
  | 0x01 => some (.lds c)
  | 0x02 => some (.sts c)
  | 0x03 => some (.gth c)
  | 0x04 => some (.sct c)
  | 0x05 => some (.unf c)
  | 0x06 => some (.cpy c)
  | 0x07 => some (.cpyl c)
  | 0x08 => some (.fil c)
  | 0x09 =>
    match (c.flags.extractLsb' 0 2).toNat with
    | 0 => some (.colAllReduce c)
    | 1 => some (.colAllGather c)
    | _ => some (.colReduceScatter c)
  | 0x10 => some (.cfg c)
  | 0x11 => some (.barc c)
  | 0x12 => some (.hand c)
  | 0x13 => some (.drn c)
  | 0x14 => some (.ptch c)
  | 0x15 => some (.tsk c)
  | 0x16 => if c.flags.getLsbD 0 then some (.swsSwapOut c) else some (.swsSwapIn c)
  | _ => none

/-- The opcode of a command (R44). -/
def cmdOp (i : Instr) : Option (BitVec 8 × Cmd) :=
  match i with
  | .lds c => some (0x01, c)
  | .sts c => some (0x02, c)
  | .gth c => some (0x03, c)
  | .sct c => some (0x04, c)
  | .unf c => some (0x05, c)
  | .cpy c => some (0x06, c)
  | .cpyl c => some (0x07, c)
  | .fil c => some (0x08, c)
  | .colAllReduce c | .colAllGather c | .colReduceScatter c => some (0x09, c)
  | .cfg c => some (0x10, c)
  | .barc c => some (0x11, c)
  | .hand c => some (0x12, c)
  | .drn c => some (0x13, c)
  | .ptch c => some (0x14, c)
  | .tsk c => some (0x15, c)
  | .swsSwapOut c | .swsSwapIn c => some (0x16, c)
  | _ => none

/-- The fields of a command (R42). -/
def cmdOf (w : BitVec 128) : Cmd :=
  { dest := w.extractLsb' 104 16, s := w.getLsbD 103, cks := w.getLsbD 102, flags := w.extractLsb' 96 6,
    operand := w.extractLsb' 64 32, addr := w.extractLsb' 0 64 }

/-- The command decoder: an instruction, or why R45 calls it a bad command. -/
def decodeCommand (w : BitVec 128) : Except DecodeError Instr :=
  match mkCmd (w.extractLsb' 120 8).toNat (cmdOf w) with
  | none => .error .unassignedCommand
  | some i => if WellFormed i then .ok i else .error .badCommand

/-- The 128 bits of a command (R42). -/
def encodeCommand (i : Instr) : Option (BitVec 128) :=
  (cmdOp i).map fun (op, c) =>
    op ++ c.dest ++ BitVec.ofBool c.s ++ BitVec.ofBool c.cks ++ c.flags ++ c.operand ++ c.addr

/-! ### Bytes -/

/-- The three kinds of program word (R5). -/
inductive Layer where
  | strand
  | element
  | command
  deriving DecidableEq, Repr

/-- A little-endian value of bytes (R2). -/
def leNat : List Byte → Nat
  | [] => 0
  | b :: bs => b.toNat + 256 * leNat bs

/-- The n little-endian bytes of a value (R2). -/
def leBytes : Nat → Nat → List Byte
  | 0, _ => []
  | n + 1, v => BitVec.ofNat 8 v :: leBytes n (v / 256)

/-- Decoding bytes of one kind of program word: the instruction and the bytes behind it. -/
def decodeBytes (l : Layer) (bs : List Byte) : Except DecodeError (Instr × List Byte) :=
  match l with
  | .strand =>
    if bs.length < 4 then .error .truncated
    else (decodeStrand (BitVec.ofNat 32 (leNat (bs.take 4)))).map fun i => (i, bs.drop 4)
  | .element =>
    let w := BitVec.ofNat 64 (leNat (bs.take 8))
    let n := if w.getLsbD 51 then 16 else 8
    if bs.length < n then .error .truncated
    else (decodeElement w (BitVec.ofNat 64 (leNat ((bs.drop 8).take 8)))).map fun i => (i, bs.drop n)
  | .command =>
    if bs.length < 16 then .error .truncated
    else (decodeCommand (BitVec.ofNat 128 (leNat (bs.take 16)))).map fun i => (i, bs.drop 16)

/-- The kind of program word an instruction is, and its bytes as memory holds them (R2, R24, R38, R42). A part's or
the host's own step has no encoding. -/
def encode (i : Instr) : Except DecodeError (Layer × List Byte) :=
  match encodeStrand i with
  | some w => .ok (.strand, leBytes 4 w.toNat)
  | none =>
    match encodeElement i with
    | some (w, none) => .ok (.element, leBytes 8 w.toNat)
    | some (w, some k) => .ok (.element, leBytes 8 w.toNat ++ leBytes 8 k.toNat)
    | none =>
      match encodeCommand i with
      | some w => .ok (.command, leBytes 16 w.toNat)
      | none => .error .noEncoding

/-- The layer of a table row of nbits bits: 32 a strand word, 64 an element word, else a stream command. -/
def layerOfBits (nbits : Nat) : Layer :=
  if nbits ≤ 32 then .strand else if nbits ≤ 64 then .element else .command

/-- What the decoder reads from an opcode-table row's bits, laid out as memory holds them. -/
def decodeTableWord (nbits w : Nat) : Option Instr :=
  match decodeBytes (layerOfBits nbits) (leBytes 16 w) with
  | .ok (i, _) => some i
  | .error _ => none

end Sys2Proof
end

