-- ==== Sys2Proof/Machine/Bits.lean ====
section
/-! DEFINITION. Bits and bytes: field access, extension (R9), counting, CRC-32C (R167, R317), SHA-256 and modular powers
(R416, R417). -/

namespace Sys2Proof.Machine

/-- Bits [hi:lo] of a number (R1). -/
def field (v hi lo : Nat) : Nat := v / 2 ^ lo % 2 ^ (hi + 1 - lo)

/-- Bit n as a number. -/
def bitN (v n : Nat) : Nat := v / 2 ^ n % 2

/-- v with bits [hi:lo] replaced by x. -/
def setField (v hi lo x : Nat) : Nat :=
  v - field v hi lo * 2 ^ lo + (x % 2 ^ (hi + 1 - lo)) * 2 ^ lo

/-- A boolean as 0 or 1. -/
def b2n (b : Bool) : Nat := if b then 1 else 0

/-- A doubleword from a number, modulo 2^64. -/
def dw (n : Nat) : Dword := BitVec.ofNat 64 n

/-- All ones (R9). -/
def allOnes : Dword := 0xFFFF_FFFF_FFFF_FFFF

/-- The signed reading of the low w bits (R3). -/
def signedOf (w v : Nat) : Int :=
  let x := v % 2 ^ w
  if 2 ^ (w - 1) ≤ x then (x : Int) - (2 ^ w : Nat) else x

/-- The low w bits of an integer (R3). -/
def lowBits (w : Nat) (x : Int) : Nat := (x % (2 ^ w : Nat)).toNat

/-- SignExt to 64 bits of an n-bit value (R9). -/
def signExt (n : Nat) (v : Nat) : Dword := dw (lowBits 64 (signedOf n v))

/-- Number of leading zeros of a 64-bit value. -/
def clz64 (v : Dword) : Nat := if v.toNat = 0 then 64 else 63 - Nat.log2 v.toNat

/-- Number of set bits below bit n. -/
def popBelow (v n : Nat) : Nat := bitsSet v n

/-- Number of bits needed for v: 0 for 0. -/
def bitLen (v : Nat) : Nat := if v = 0 then 0 else Nat.log2 v + 1

/-- Ceiling division. -/
def ceilDiv (a b : Nat) : Nat := (a + b - 1) / b

/-- Rounding up to a multiple. -/
def alignUp (a b : Nat) : Nat := ceilDiv a b * b

/-- The little-endian value of n bytes of a line starting at byte off. -/
def lineGet (l : Line) (off n : Nat) : Nat := field l.toNat (8 * (off + n) - 1) (8 * off)

/-- A line with n bytes from byte off replaced. -/
def linePut (l : Line) (off n v : Nat) : Line := BitVec.ofNat 1024 (setField l.toNat (8 * (off + n) - 1) (8 * off) v)

/-- The mask of n bytes from byte off (R181). -/
def byteMask (off n : Nat) : LineMask := BitVec.ofNat 128 ((2 ^ n - 1) * 2 ^ off)

/-- The bytes of a whose mask bit is set come from b. -/
def lineMerge (a b : Line) (mask : LineMask) : Line :=
  (List.range 128).foldl (fun l j => if mask.getLsbD j then linePut l j 1 (lineGet b j 1) else l) a

/-! ### CRC-32C (R167) -/

/-- One bit of the reflected CRC-32C register. -/
def crcBit (r : BitVec 32) : BitVec 32 := if r.getLsbD 0 then (r >>> 1) ^^^ 0x82F63B78 else r >>> 1

/-- One byte of the reflected CRC-32C register. -/
def crcByte (r : BitVec 32) (b : Byte) : BitVec 32 :=
  crcBit (crcBit (crcBit (crcBit (crcBit (crcBit (crcBit (crcBit (r ^^^ b.zeroExtend 32))))))))

/-- The CRC-32C register after bytes. -/
def crcUpdate (r : BitVec 32) (bs : List Byte) : BitVec 32 := bs.foldl crcByte r

/-- The CRC-32C of bytes: initial value and final XOR all ones. -/
def crc32c (bs : List Byte) : BitVec 32 := crcUpdate 0xFFFFFFFF bs ^^^ 0xFFFFFFFF

/-! ### SHA-256 (R416) -/

/-- The round constants: the first 32 bits of the fractional parts of the cube roots of the first 64 primes. -/
def shaK : List (BitVec 32) :=
  [0x428a2f98, 0x71374491, 0xb5c0fbcf, 0xe9b5dba5, 0x3956c25b, 0x59f111f1, 0x923f82a4, 0xab1c5ed5,
   0xd807aa98, 0x12835b01, 0x243185be, 0x550c7dc3, 0x72be5d74, 0x80deb1fe, 0x9bdc06a7, 0xc19bf174,
   0xe49b69c1, 0xefbe4786, 0x0fc19dc6, 0x240ca1cc, 0x2de92c6f, 0x4a7484aa, 0x5cb0a9dc, 0x76f988da,
   0x983e5152, 0xa831c66d, 0xb00327c8, 0xbf597fc7, 0xc6e00bf3, 0xd5a79147, 0x06ca6351, 0x14292967]
  ++ [0x27b70a85, 0x2e1b2138, 0x4d2c6dfc, 0x53380d13, 0x650a7354, 0x766a0abb, 0x81c2c92e, 0x92722c85,
   0xa2bfe8a1, 0xa81a664b, 0xc24b8b70, 0xc76c51a3, 0xd192e819, 0xd6990624, 0xf40e3585, 0x106aa070,
   0x19a4c116, 0x1e376c08, 0x2748774c, 0x34b0bcb5, 0x391c0cb3, 0x4ed8aa4a, 0x5b9cca4f, 0x682e6ff3,
   0x748f82ee, 0x78a5636f, 0x84c87814, 0x8cc70208, 0x90befffa, 0xa4506ceb, 0xbef9a3f7, 0xc67178f2]

/-- The eight working words. -/
structure ShaState where
  a : BitVec 32
  b : BitVec 32
  c : BitVec 32
  d : BitVec 32
  e : BitVec 32
  f : BitVec 32
  g : BitVec 32
  h : BitVec 32
  deriving DecidableEq, Repr

def shaInit : ShaState :=
  ⟨0x6a09e667, 0xbb67ae85, 0x3c6ef372, 0xa54ff53a, 0x510e527f, 0x9b05688c, 0x1f83d9ab, 0x5be0cd19⟩

/-- The message schedule, newest word first: n more words behind the 16 of the block. -/
def shaSchedule : Nat → List (BitVec 32) → List (BitVec 32)
  | 0, ws => ws
  | n + 1, ws =>
    let w2 := ws.getD 1 0
    let w7 := ws.getD 6 0
    let w15 := ws.getD 14 0
    let w16 := ws.getD 15 0
    let s0 := w15.rotateRight 7 ^^^ w15.rotateRight 18 ^^^ (w15 >>> 3)
    let s1 := w2.rotateRight 17 ^^^ w2.rotateRight 19 ^^^ (w2 >>> 10)
    shaSchedule n ((w16 + s0 + w7 + s1) :: ws)

/-- One round. -/
def shaRound (s : ShaState) (kw : BitVec 32 × BitVec 32) : ShaState :=
  let s1 := s.e.rotateRight 6 ^^^ s.e.rotateRight 11 ^^^ s.e.rotateRight 25
  let ch := (s.e &&& s.f) ^^^ (~~~s.e &&& s.g)
  let t1 := s.h + s1 + ch + kw.1 + kw.2
  let s0 := s.a.rotateRight 2 ^^^ s.a.rotateRight 13 ^^^ s.a.rotateRight 22
  let mj := (s.a &&& s.b) ^^^ (s.a &&& s.c) ^^^ (s.b &&& s.c)
  ⟨t1 + (s0 + mj), s.a, s.b, s.c, s.d + t1, s.e, s.f, s.g⟩

/-- The 16 big-endian words of a 64-byte block. -/
def shaWords : Nat → List Byte → List (BitVec 32)
  | 0, _ => []
  | n + 1, bs => (bs.getD 0 0 ++ bs.getD 1 0 ++ bs.getD 2 0 ++ bs.getD 3 0 : BitVec 32) :: shaWords n (bs.drop 4)

/-- One block. -/
def shaBlock (s : ShaState) (blk : List Byte) : ShaState :=
  let ws := (shaSchedule 48 (shaWords 16 blk).reverse).reverse
  let t := (shaK.zip ws).foldl shaRound s
  ⟨s.a + t.a, s.b + t.b, s.c + t.c, s.d + t.d, s.e + t.e, s.f + t.f, s.g + t.g, s.h + t.h⟩

def shaBlocks : Nat → ShaState → List Byte → ShaState
  | 0, s, _ => s
  | n + 1, s, bs => shaBlocks n (shaBlock s (bs.take 64)) (bs.drop 64)

/-- SHA-256 of bytes, as a big-endian number of 256 bits. -/
def sha256 (bs : List Byte) : BitVec 256 :=
  let n := bs.length
  let pad := (119 - n % 64) % 64
  let msg := bs ++ (0x80 : Byte) :: List.replicate pad 0 ++ (leBytes 8 (8 * n)).reverse
  let s := shaBlocks (msg.length / 64) shaInit msg
  s.a ++ s.b ++ s.c ++ s.d ++ s.e ++ s.f ++ s.g ++ s.h

/-- b^e mod m, over the low n bits of e from the top. -/
def modPow (b e m : Nat) : Nat → Nat
  | 0 => 1 % m
  | n + 1 =>
    let r := modPow b (e / 2) m n
    let r2 := r * r % m
    if e % 2 = 1 then r2 * b % m else r2

end Sys2Proof.Machine
end

