-- ==== Sys2Proof/Machine/Float.lean ====
section
/-! DEFINITION. Floating point by exact values (R50 to R61, R65 to R71): a value is an integer times a power of two, an
infinity or a NaN; every operation computes exactly and rounds once. -/

namespace Sys2Proof.Machine

/-- How a format uses its all-ones exponent (R52). -/
inductive TopExp where
  /-- infinity and NaNs -/
  | special
  /-- normal but for the one NaN pattern -/
  | oneNan
  /-- normal throughout -/
  | normal
  deriving DecidableEq, Repr

/-- A float format (R49, R50). -/
structure FFmt where
  ew : Nat
  mw : Nat
  bias : Nat
  top : TopExp
  deriving DecidableEq, Repr

def f64 : FFmt := ⟨11, 52, 1023, .special⟩
def f32 : FFmt := ⟨8, 23, 127, .special⟩
def f16 : FFmt := ⟨5, 10, 15, .special⟩
def bf16 : FFmt := ⟨8, 7, 127, .special⟩
def f8e5 : FFmt := ⟨5, 2, 15, .special⟩
def f8e4 : FFmt := ⟨4, 3, 7, .oneNan⟩
def f6e3 : FFmt := ⟨3, 2, 3, .normal⟩
def f4e2 : FFmt := ⟨2, 1, 1, .normal⟩

/-- The float format of a lane-format code (R49); F32 stands for the integer codes, which no caller asks for. -/
def laneFFmt (f : BitVec 4) : FFmt :=
  match f.toNat with
  | 0x8 => f8e4
  | 0x9 => f8e5
  | 0xA => bf16
  | 0xB => f16
  | 0xD => f4e2
  | 0xE => f6e3
  | _ => f32

def FFmt.width (f : FFmt) : Nat := 1 + f.ew + f.mw

/-- Whether the format has infinities. -/
def FFmt.hasInf (f : FFmt) : Bool := f.top == .special

/-- The code of the largest finite magnitude (R52). -/
def FFmt.maxFinite (f : FFmt) : Nat :=
  match f.top with
  | .special => (2 ^ f.ew - 1) * 2 ^ f.mw - 1
  | .oneNan => 2 ^ (f.ew + f.mw) - 2
  | .normal => 2 ^ (f.ew + f.mw) - 1

/-- The canonical NaN (R52, R54); 0 for the formats without one, whose lane becomes invalid (R55). -/
def FFmt.nan (f : FFmt) : Nat :=
  match f.top with
  | .special => (2 ^ f.ew - 1) * 2 ^ f.mw + 2 ^ (f.mw - 1)
  | .oneNan => 2 ^ (f.ew + f.mw) - 1
  | .normal => 0

/-- The code of an infinity. -/
def FFmt.inf (f : FFmt) (neg : Bool) : Nat := (2 ^ f.ew - 1) * 2 ^ f.mw + b2n neg * 2 ^ (f.ew + f.mw)

/-- A float value: a finite one is (-1)^neg × m × 2^e, a zero when m = 0. -/
inductive FVal where
  | nan (signalling : Bool)
  | inf (neg : Bool)
  | fin (neg : Bool) (m : Nat) (e : Int)
  deriving DecidableEq, Repr

/-- The value of a bit pattern (R52). -/
def unpack (f : FFmt) (bits : Nat) : FVal :=
  let neg := bitN bits (f.ew + f.mw) = 1
  let e := field bits (f.ew + f.mw - 1) f.mw
  let m := bits % 2 ^ f.mw
  if f.top == .special && e = 2 ^ f.ew - 1 then
    if m = 0 then .inf neg else .nan (m < 2 ^ (f.mw - 1))
  else if f.top == .oneNan && bits % 2 ^ (f.ew + f.mw) = 2 ^ (f.ew + f.mw) - 1 then .nan false
  else if e = 0 then .fin neg m (1 - (f.bias : Int) - f.mw)
  else .fin neg (m + 2 ^ f.mw) ((e : Int) - f.bias - f.mw)

/-- Rounding modes (R56). -/
inductive Rm where
  | rne
  | rtz
  | rup
  | rdn
  | rna
  deriving DecidableEq, Repr

/-- The mode of a strand's rounding code (R36, R56). -/
def rmOf (c : Nat) : Rm :=
  match c with
  | 0 => .rne
  | 1 => .rtz
  | 2 => .rup
  | 3 => .rdn
  | _ => .rna

/-- What a result that overflows becomes: by mode (R57), the largest finite value (R61's CVT column), or the largest
finite value unless an input was infinite (SAT of R57). -/
inductive Ovf where
  | byMode
  | largest
  deriving DecidableEq, Repr

/-- A rounded result: its code, whether its lane stays valid (R55), and the exceptions of R59. -/
structure FRes where
  bits : Nat
  ok : Bool := true
  nv : Bool := false
  dz : Bool := false
  of : Bool := false
  uf : Bool := false
  nx : Bool := false
  deriving DecidableEq, Repr

/-- Division by 2^s rounded to an integer in a mode, and whether it was inexact. -/
def roundShift (mode : Rm) (neg : Bool) (m s : Nat) : Nat × Bool :=
  let q := m / 2 ^ s
  let r := m % 2 ^ s
  let up :=
    match mode with
    | .rne => 2 * r > 2 ^ s || (2 * r = 2 ^ s && q % 2 = 1)
    | .rtz => false
    | .rup => !neg && r != 0
    | .rdn => neg && r != 0
    | .rna => r != 0 && 2 * r ≥ 2 ^ s
  (if up then q + 1 else q, r != 0)

/-- m × 2^e rounded to a multiple of 2^q, as a count of 2^q, and whether it was inexact. -/
def roundTo (mode : Rm) (neg : Bool) (m : Nat) (e q : Int) : Nat × Bool :=
  if q ≤ e then (m * 2 ^ (e - q).toNat, false) else roundShift mode neg m (q - e).toNat

/-- A NaN result (R54, R55). -/
def nanRes (f : FFmt) (nv : Bool) : FRes := { bits := f.nan, ok := f.top != .normal, nv := nv }

/-- The largest finite value of a sign. -/
def FFmt.largest (f : FFmt) (neg : Bool) : Nat := f.maxFinite + b2n neg * 2 ^ (f.ew + f.mw)

/-- An overflowing finite result (R57, R55). -/
def overflowBits (f : FFmt) (mode : Rm) (pol : Ovf) (neg : Bool) : Nat :=
  if pol == .largest || !f.hasInf then f.largest neg
  else
    match mode with
    | .rne | .rna => f.inf neg
    | .rtz => f.largest neg
    | .rup => if neg then f.largest neg else f.inf neg
    | .rdn => if neg then f.inf neg else f.largest neg

/-- Round of a finite value to a format, once (R53, R56, R57, R58). -/
def roundFin (f : FFmt) (mode : Rm) (pol : Ovf) (neg : Bool) (m : Nat) (e : Int) : FRes :=
  let sign := b2n neg * 2 ^ (f.ew + f.mw)
  if m = 0 then { bits := sign }
  else
    let top : Int := e + bitLen m - 1
    let emin : Int := 1 - (f.bias : Int)
    let q := max top emin - f.mw
    let (r, nx) := roundTo mode neg m e q
    let mag := if emin ≤ top then (top + f.bias).toNat * 2 ^ f.mw + r - 2 ^ f.mw else r
    if mag > f.maxFinite then { bits := overflowBits f mode pol neg, of := true, nx := true }
    else
      -- tininess after rounding with an unbounded exponent
      let tiny :=
        if emin ≤ top then false
        else if top < emin - 1 then true
        else (roundTo mode neg m e (top - f.mw)).1 < 2 ^ (f.mw + 1)
      { bits := sign + mag, uf := tiny && nx, nx := nx }

/-- Round of a value to a format. An infinite value that the format cannot hold becomes its largest finite (R55). -/
def roundVal (f : FFmt) (mode : Rm) (pol : Ovf) (v : FVal) : FRes :=
  match v with
  | .nan _ => nanRes f false
  | .inf neg => if f.hasInf then { bits := f.inf neg } else { bits := f.largest neg }
  | .fin neg m e => roundFin f mode pol neg m e

/-! ### Exact operations -/

def FVal.isNan : FVal → Bool
  | .nan _ => true
  | _ => false

def FVal.isSignalling : FVal → Bool
  | .nan s => s
  | _ => false

def FVal.isInf : FVal → Bool
  | .inf _ => true
  | _ => false

def FVal.isZero : FVal → Bool
  | .fin _ 0 _ => true
  | _ => false

def FVal.negative : FVal → Bool
  | .nan _ => false
  | .inf n => n
  | .fin n _ _ => n

/-- The negated value; a NaN stays one. -/
def FVal.negate : FVal → FVal
  | .nan s => .nan s
  | .inf n => .inf (!n)
  | .fin n m e => .fin (!n) m e

/-- The exact product; 0 × ∞ is a NaN (R65). -/
def FVal.mul (x y : FVal) : FVal :=
  match x, y with
  | .nan _, _ | _, .nan _ => .nan false
  | .inf n, .inf k => .inf (n != k)
  | .inf n, .fin k m _ => if m = 0 then .nan false else .inf (n != k)
  | .fin n m _, .inf k => if m = 0 then .nan false else .inf (n != k)
  | .fin n m e, .fin k l d => .fin (n != k) (m * l) (e + d)

/-- A finite value as an integer count of 2^q, for q at most its exponent. -/
def scaledTo (q : Int) (neg : Bool) (m : Nat) (e : Int) : Int :=
  let x : Int := (m * 2 ^ (e - q).toNat : Nat)
  if neg then -x else x

/-- The exact sum of terms formed in one step, with the zero signs of R58 and the cases of R65. -/
def fsum (mode : Rm) (ts : List FVal) : FVal :=
  if ts.any FVal.isNan then .nan false
  else if ts.any FVal.isInf then
    let pos := ts.any fun t => t.isInf && !t.negative
    let neg := ts.any fun t => t.isInf && t.negative
    if pos && neg then .nan false else .inf neg
  else
    let q := ts.foldl (fun q t => match t with | .fin _ _ e => min q e | _ => q) (0 : Int)
    let s := ts.foldl (fun s t => match t with | .fin n m e => s + scaledTo q n m e | _ => s) (0 : Int)
    if s = 0 then .fin (ts.all (fun t => t.isZero && t.negative) || mode == .rdn) 0 0
    else .fin (s < 0) s.natAbs q

/-- The exact quotient with a sticky bit, precise enough for any format's rounding. -/
def FVal.div (x y : FVal) : FVal :=
  match x, y with
  | .nan _, _ | _, .nan _ => .nan false
  | .inf _, .inf _ => .nan false
  | .inf n, .fin k _ _ => .inf (n != k)
  | .fin n _ _, .inf k => .fin (n != k) 0 0
  | .fin n m e, .fin k l d =>
    if l = 0 then (if m = 0 then .nan false else .inf (n != k))
    else
      let num := m * 2 ^ (128 + bitLen l)
      .fin (n != k) (2 * (num / l) + (if num % l = 0 then 0 else 1)) (e - d - 129 - bitLen l)

/-- The integer square root of n, from bit k downward. -/
def isqrtBits (n : Nat) : Nat → Nat → Nat
  | 0, r => r
  | k + 1, r => isqrtBits n k (if (r + 2 ^ k) * (r + 2 ^ k) ≤ n then r + 2 ^ k else r)

/-- The integer square root. -/
def isqrt (n : Nat) : Nat := isqrtBits n (bitLen n / 2 + 1) 0

/-- The square root with a sticky bit; of a negative nonzero value, a NaN. -/
def FVal.sqrt (x : FVal) : FVal :=
  match x with
  | .nan _ => .nan false
  | .inf n => if n then .nan false else .inf false
  | .fin n m e =>
    if m = 0 then .fin n 0 0
    else if n then .nan false
    else
      let odd := (e % 2).toNat
      let big := m * 2 ^ (256 + odd)
      let r := isqrt big
      .fin false (2 * r + (if r * r = big then 0 else 1)) ((e - odd) / 2 - 129)

/-- 1 / √x with a sticky bit, for positive finite x = m × 2^e. -/
def rsqrtFin (m : Nat) (e : Int) : FVal :=
  let odd := (e % 2).toNat
  -- x = (m 2^odd) 2^(e - odd); 1/√x = √(2^(2k) / (m 2^odd)) 2^(-k - (e - odd)/2)
  let k := 128 + bitLen m
  let big := 2 ^ (2 * k)
  let d := m * 2 ^ odd
  let r := isqrt (big / d)
  .fin false (2 * r + (if r * r * d = big then 0 else 1)) (-(k : Int) - 1 - (e - odd) / 2)

/-- Whether x < y for values that are no NaN; -0 and +0 compare equal. -/
def FVal.lt (x y : FVal) : Bool :=
  match x, y with
  | .nan _, _ | _, .nan _ => false
  | .inf n, .inf k => n && !k
  | .inf n, .fin .. => n
  | .fin .., .inf k => !k
  | .fin n m e, .fin k l d => let q := min e d; scaledTo q n m e < scaledTo q k l d

/-- Whether x = y; false with a NaN (R54). -/
def FVal.eq (x y : FVal) : Bool :=
  match x, y with
  | .nan _, _ | _, .nan _ => false
  | .inf n, .inf k => n == k
  | .inf _, .fin .. | .fin .., .inf _ => false
  | .fin n m e, .fin k l d => let q := min e d; scaledTo q n m e == scaledTo q k l d

/-- Whether minimum takes x of x and y, neither a NaN: -0 is less than +0 (R54). -/
def FVal.below (x y : FVal) : Bool := x.lt y || (x.eq y && x.negative)

/-- Minimum of two bit patterns (R54). -/
def fminBits (f : FFmt) (a b : Nat) : Nat :=
  let x := unpack f a
  let y := unpack f b
  if x.isNan then (if y.isNan then f.nan else b)
  else if y.isNan then a
  else if x.below y then a else b

/-- Maximum of two bit patterns (R54). -/
def fmaxBits (f : FFmt) (a b : Nat) : Nat :=
  let x := unpack f a
  let y := unpack f b
  if x.isNan then (if y.isNan then f.nan else b)
  else if y.isNan then a
  else if x.below y then b else a

/-- SAT on a float result (R57): overflow, and an infinite result that no infinite input caused, become the largest
finite value. -/
def satRes (f : FFmt) (inputInf : Bool) (v : FVal) (mode : Rm) : FRes :=
  match v with
  | .inf neg => if inputInf then roundVal f mode .byMode v else { bits := f.largest neg }
  | v => roundVal f mode .largest v

/-- Round, with SAT or without. -/
def roundSat (f : FFmt) (mode : Rm) (sat inputInf : Bool) (v : FVal) : FRes :=
  if sat then satRes f inputInf v mode else roundVal f mode .byMode v

/-! ### Sums of R67 -/

/-- A sum of F32 terms, rounded once to F32, as a value again. -/
def sumRound (mode : Rm) (ts : List FVal) : FVal := unpack f32 (roundVal f32 mode .byMode (fsum mode ts)).bits

/-- The group sums of R67: groups of eight terms. -/
def treeGroups (mode : Rm) : Nat → List FVal → List FVal
  | 0, _ => []
  | n + 1, ts => if ts.isEmpty then [] else sumRound mode (ts.take 8) :: treeGroups mode n (ts.drop 8)

/-- One level of pairwise sums. -/
def treePairs (mode : Rm) : List FVal → List FVal
  | x :: y :: r => sumRound mode [x, y] :: treePairs mode r
  | r => r

/-- Pairwise levels until one value is left. -/
def treeLevels (mode : Rm) : Nat → List FVal → FVal
  | 0, vs => vs.headD (.fin false 0 0)
  | n + 1, vs => if vs.length ≤ 1 then vs.headD (.fin false 0 0) else treeLevels mode n (treePairs mode vs)

/-- The fixed tree of R67 over the terms of a segment, as an F32 code. -/
def treeSum (mode : Rm) (ts : List FVal) : Nat :=
  let v := treeLevels mode 18 (treeGroups mode ts.length ts)
  (roundVal f32 mode .byMode v).bits

/-! ### Lane values -/

/-- Width of a lane format (R49). -/
def laneWidth (f : BitVec 4) : Nat :=
  match f.toNat with
  | 0 | 4 | 8 | 9 => 8
  | 1 | 5 | 10 | 11 => 16
  | 2 | 6 | 12 => 32
  | 3 | 7 => 64
  | 14 => 6
  | _ => 4

/-- Whether an integer format is signed (R49). -/
def fmtSigned (f : BitVec 4) : Bool := f.toNat < 4 || f == 15

/-- The integer of a lane (R51). -/
def laneInt (f : BitVec 4) (v : Nat) : Int :=
  if fmtSigned f then signedOf (laneWidth f) v else ((v % 2 ^ laneWidth f : Nat) : Int)

def fmtMin (f : BitVec 4) : Int := if fmtSigned f then -((2 ^ (laneWidth f - 1) : Nat) : Int) else 0
def fmtMax (f : BitVec 4) : Int :=
  if fmtSigned f then ((2 ^ (laneWidth f - 1) : Nat) : Int) - 1 else ((2 ^ laneWidth f : Nat) : Int) - 1

/-- An integer wrapped to a lane (R51). -/
def wrapLane (f : BitVec 4) (x : Int) : Nat := lowBits (laneWidth f) x

/-- An integer clamped to a lane (Sat, R51). -/
def clampLane (f : BitVec 4) (x : Int) : Nat := wrapLane f (max (fmtMin f) (min (fmtMax f) x))

/-- The exact value of a lane, integer or float. -/
def laneVal (f : BitVec 4) (v : Nat) : FVal :=
  if fmtIsFloat f then unpack (laneFFmt f) v
  else
    let x := laneInt f v
    .fin (x < 0) x.natAbs 0

/-- A finite value rounded to an integer in a mode. -/
def roundInt (mode : Rm) (neg : Bool) (m : Nat) (e : Int) : Int × Bool :=
  let (r, nx) := roundTo mode neg m e 0
  (if neg then -(r : Int) else r, nx)

/-- A converted lane: its code, whether it stays valid, and whether it overflowed (R269). -/
structure LaneRes where
  bits : Nat
  ok : Bool := true
  ov : Bool := false
  deriving DecidableEq, Repr

/-- Conversion of an exact value to a lane format by the CVT column of R61. -/
def convVal (dst : BitVec 4) (mode : Rm) (v : FVal) : LaneRes :=
  if fmtIsFloat dst then
    let f := laneFFmt dst
    match v with
    | .nan _ => { bits := f.nan, ok := f.top != .normal }
    | .inf neg => if f.hasInf then { bits := f.inf neg } else { bits := f.largest neg, ov := true }
    | .fin neg m e =>
      let r := roundFin f mode .largest neg m e
      { bits := r.bits, ov := r.of }
  else
    match v with
    | .nan _ => { bits := 0 }
    | .inf neg => { bits := wrapLane dst (if neg then fmtMin dst else fmtMax dst), ov := true }
    | .fin neg m e =>
      let x := (roundInt mode neg m e).1
      { bits := clampLane dst x, ov := x < fmtMin dst || fmtMax dst < x }

/-- v × 2^k (R270). -/
def FVal.scale (v : FVal) (k : Int) : FVal :=
  match v with
  | .fin n m e => .fin n m (e + k)
  | v => v

/-- Conversion of a lane between formats, scaled by 2^k first (R61, R268, R270). When k = 0, a lane of the same format is
copied, and an integer is extended to a wider integer by the source's signedness. -/
def convLane (src dst : BitVec 4) (mode : Rm) (k : Int) (v : Nat) : LaneRes :=
  if src == dst && k == 0 then { bits := v % 2 ^ laneWidth dst }
  else if !fmtIsFloat src && !fmtIsFloat dst && laneWidth src < laneWidth dst && k == 0 then
    { bits := wrapLane dst (laneInt src v) }
  else convVal dst mode ((laneVal src v).scale k)

end Sys2Proof.Machine
end

