-- ==== Sys2Proof/Machine/Special.lean ====
section
/-! DEFINITION. The special functions of R257: each is enclosed between two fixed-point bounds whose precision doubles until
both bounds round to the same code, which is then the exact value rounded once. -/

namespace Sys2Proof.Machine

/-- A positive enclosure: lo × 2^e to hi × 2^e. -/
structure Encl where
  lo : Nat
  hi : Nat
  e : Int
  deriving DecidableEq, Repr

/-- ln 2 in units of 2^-p from below; the error is below p + 2 units. -/
def ln2Fix (p : Nat) : Nat := (List.range p).foldl (fun s k => s + 2 ^ p / ((k + 1) * 2 ^ (k + 1))) 0

/-- The terms y^k / k! in units of 2^-p, summed from term t on. -/
def expTerms (p y : Nat) : Nat → Nat → Nat → Nat
  | 0, _, _ => 0
  | n + 1, k, t => t + expTerms p y n (k + 1) (t * y / (2 ^ p * (k + 1)))

/-- e^y for y below 1 in units of 2^-p, from below; the error is below 2p + 4 units. -/
def expFix (p y : Nat) : Nat := expTerms p y (p + 2) 0 (2 ^ p)

/-- Enclosure of 2^f for 0 ≤ f < 1, f in units of 2^-p from below with error up to err units. -/
def exp2Frac (p f err : Nat) : Encl :=
  let y := f * ln2Fix p / 2 ^ p
  let r := expFix p y
  ⟨r, r + 4 * (err + p + 4) + 2 * p + 8, -(p : Int)⟩

/-- Integer floor and the fraction in units of 2^-p (with error below one unit) of m × 2^e. -/
def splitFix (p : Nat) (neg : Bool) (m : Nat) (e : Int) : Int × Nat :=
  let x : Int := (if neg then -(m : Int) else m)
  let s := e + p
  let fx : Int := if 0 ≤ s then x * (2 ^ s.toNat : Nat) else x / (2 ^ (-s).toNat : Nat)
  (fx / (2 ^ p : Nat), (fx % (2 ^ p : Nat)).toNat)

/-- Enclosure of 2^x for finite x at precision p. -/
def exp2Encl (p : Nat) (neg : Bool) (m : Nat) (e : Int) : Encl :=
  let (n, f) := splitFix p neg m e
  let r := exp2Frac p f 1
  { r with e := r.e + n }

/-- Enclosure of e^-y for finite y = m × 2^e ≥ 0 at precision p. -/
def expNegEncl (p : Nat) (m : Nat) (e : Int) : Encl :=
  -- y = n ln 2 + r, found from a division by ln 2 in fixed point
  let y := (splitFix p false m e).1.toNat * 2 ^ p + (splitFix p false m e).2
  let l := ln2Fix p
  let n := y / l + 1
  -- r = n ln 2 - y lies in (0, ln 2] up to the error of n times ln 2
  let r := n * l - y
  let v := expFix p r
  ⟨v - 4 * (n * (p + 2) + 2), v + 4 * (n * (p + 2) + 2) + 2 * p + 8, -(p : Int) - n⟩

/-- atanh z / z-series: z + z^3/3 + …, from below, z in units of 2^-p, zp the running odd power. -/
def atanhTerms (p z2 : Nat) : Nat → Nat → Nat → Nat
  | 0, _, _ => 0
  | n + 1, k, zp => zp / (2 * k + 1) + atanhTerms p z2 n (k + 1) (zp * z2 / 2 ^ p)

/-- log2 of the fraction c / 2^b with 2^b ≤ c < 2^(b+1), in units of 2^-p, as a lower and an upper bound. -/
def log2Frac (p c b : Nat) : Nat × Nat :=
  let z := (c - 2 ^ b) * 2 ^ p / (c + 2 ^ b)
  let a := 2 * atanhTerms p (z * z / 2 ^ p) p 0 z
  let l := ln2Fix p
  (a * 2 ^ p / (l + p + 2), (a + 8 * p + 16) * 2 ^ p / l + 1)

/-- The code that both bounds round to, if they agree. -/
def agree (f : FFmt) (mode : Rm) (sat neg : Bool) (c : Encl) : Option FRes :=
  let lo := roundSat f mode sat false (.fin neg c.lo c.e)
  let hi := roundSat f mode sat false (.fin neg c.hi c.e)
  if c.lo ≠ 0 && lo.bits = hi.bits then some lo else none

/-- The precisions tried in turn. -/
def precisions : List Nat := [64, 128, 256, 512, 1024, 2048, 4096]

/-- The first precision at which an enclosure decides; the last one's lower bound stands when none does. -/
def decideBy (f : FFmt) (mode : Rm) (sat neg : Bool) (encl : Nat → Encl) : List Nat → FRes
  | [] => let c := encl 4096; roundSat f mode sat false (.fin neg c.lo c.e)
  | p :: ps =>
    match agree f mode sat neg (encl p) with
    | some r => r
    | none => decideBy f mode sat neg encl ps

/-- Whether m × 2^e is an integer, and which. -/
def asInt (neg : Bool) (m : Nat) (e : Int) : Option Int :=
  let s : Int := if neg then -1 else 1
  if 0 ≤ e then some (s * (m * 2 ^ e.toNat : Nat))
  else if m % 2 ^ (-e).toNat = 0 then some (s * (m / 2 ^ (-e).toNat : Nat)) else none

/-- 2^x, rounded once (R257, R280). -/
def fexp2 (f : FFmt) (mode : Rm) (sat : Bool) (v : FVal) : FRes :=
  match v with
  | .nan _ => nanRes f false
  | .inf n => if n then { bits := 0 } else { bits := f.inf false }
  | .fin neg m e =>
    if m = 0 then roundFin f mode .byMode false 1 0
    else if (bitLen m : Int) + e > 14 then
      -- |x| ≥ 2^13: far beyond every format
      if neg then roundSat f mode sat false (.fin false 1 (-8192)) else roundSat f mode sat false (.fin false 1 8192)
    else
      match asInt neg m e with
      | some n => roundSat f mode sat false (.fin false 1 n)
      | none => decideBy f mode sat false (fun p => exp2Encl p neg m e) precisions

/-- Enclosure of |log2 (m × 2^e)| at precision p, for a value that is no power of two; the sign is that of log2. -/
def log2Encl (p : Nat) (m : Nat) (e : Int) : Encl :=
  let b := bitLen m - 1
  let n : Int := e + b
  let (lo, hi) := log2Frac p m b
  if 0 ≤ n then ⟨n.toNat * 2 ^ p + lo, n.toNat * 2 ^ p + hi, -(p : Int)⟩
  else ⟨n.natAbs * 2 ^ p - hi, n.natAbs * 2 ^ p - lo, -(p : Int)⟩

/-- log2 x, rounded once (R257). -/
def flog2 (f : FFmt) (mode : Rm) (sat : Bool) (v : FVal) : FRes :=
  match v with
  | .nan _ => nanRes f false
  | .inf n => if n then nanRes f true else { bits := f.inf false }
  | .fin neg m e =>
    if m = 0 then roundSat f mode sat false (.inf true)
    else if neg then nanRes f true
    else
      let b := bitLen m - 1
      let n : Int := e + b
      if m = 2 ^ b then roundSat f mode sat false (.fin (n < 0) n.natAbs 0)
      else decideBy f mode sat (n < 0) (fun p => log2Encl p m e) precisions

/-- 1 / x, rounded once (R257). -/
def frcp (f : FFmt) (mode : Rm) (sat : Bool) (v : FVal) : FRes :=
  match v with
  | .nan _ => nanRes f false
  | v => roundSat f mode sat v.isInf ((FVal.fin false 1 0).div v)

/-- 1 / √x, rounded once (R257). -/
def frsq (f : FFmt) (mode : Rm) (sat : Bool) (v : FVal) : FRes :=
  match v with
  | .nan _ => nanRes f false
  | .inf n => if n then nanRes f true else { bits := 0 }
  | .fin neg m e =>
    if m = 0 then roundSat f mode sat false (.inf neg)
    else if neg then nanRes f true
    else roundSat f mode sat false (rsqrtFin m e)

/-- Enclosure of tanh of |x| = m × 2^e: (1 - t) / (1 + t) with t = e^-2|x|. -/
def tanhEncl (p : Nat) (m : Nat) (e : Int) : Encl :=
  if (bitLen m : Int) + e > 12 then ⟨2 ^ p - 1, 2 ^ p - 1, -(p : Int)⟩
  else
    let t := expNegEncl p m (e + 1)
    let s := (-t.e).toNat
    let one := 2 ^ s
    ⟨(one - t.hi) * 2 ^ p / (one + t.hi), (one - t.lo) * 2 ^ p / (one + t.lo) + 1, -(p : Int)⟩

/-- tanh x, rounded once (R257). A result that rounds to 1 is exact 1. -/
def ftanh (f : FFmt) (mode : Rm) (sat : Bool) (v : FVal) : FRes :=
  match v with
  | .nan _ => nanRes f false
  | .inf n => roundFin f mode .byMode n 1 0
  | .fin neg m e =>
    if m = 0 then { bits := b2n neg * 2 ^ (f.ew + f.mw) }
    else decideBy f mode sat neg (fun p => tanhEncl p m e) precisions

/-- Enclosure of the logistic function of ±m × 2^e. -/
def sigmEncl (p : Nat) (neg : Bool) (m : Nat) (e : Int) : Encl :=
  if (bitLen m : Int) + e > 12 then
    if neg then ⟨1, 2, -5000⟩ else ⟨2 ^ p - 1, 2 ^ p - 1, -(p : Int)⟩
  else
    let t := expNegEncl p m e
    let s := (-t.e).toNat
    let one := 2 ^ s
    if neg then
      -- t / (1 + t), scaled to keep p bits
      ⟨t.lo * 2 ^ (p + s) / (one + t.hi), t.hi * 2 ^ (p + s) / (one + t.lo) + 1, -(p : Int) - s⟩
    else ⟨one * 2 ^ p / (one + t.hi), one * 2 ^ p / (one + t.lo) + 1, -(p : Int)⟩

/-- The logistic function, rounded once (R257). -/
def fsigm (f : FFmt) (mode : Rm) (sat : Bool) (v : FVal) : FRes :=
  match v with
  | .nan _ => nanRes f false
  | .inf n => if n then { bits := 0 } else roundFin f mode .byMode false 1 0
  | .fin neg m e =>
    if m = 0 then roundFin f mode .byMode false 1 (-1)
    else decideBy f mode sat false (fun p => sigmEncl p neg m e) precisions

end Sys2Proof.Machine
end

