-- ==== Sys2Proof/Machine/Token.lean ====
section
/-! DEFINITION. Tokens (R218 to R220), their layout in bits (R48), and the conversions of typed channels (R228). -/

namespace Sys2Proof.Machine

/-- One lane: its value in the low bits, and its validity (R219). -/
structure Lane where
  val : Dword
  ok : Bool
  deriving DecidableEq, Repr

/-- An invalid lane. -/
def Lane.bad : Lane := ⟨0, false⟩

/-- Token kinds (R218). -/
inductive Kind where
  | data
  | item
  | crevasse
  | splice
  | control
  | void
  deriving DecidableEq, Repr

/-- The kind field of the header. -/
def Kind.code : Kind → Nat
  | .data => 0
  | .item => 1
  | .crevasse => 2
  | .splice => 3
  | .control => 4
  | .void => 5

/-- A token: its header fields and the lanes present; the lane count is the number of lanes (R218). -/
structure Token where
  kind : Kind := .data
  policy : Nat := 0
  iter : Nat := 0
  reset : Bool := false
  last : Bool := false
  fmt : BitVec 4
  lanes : List Lane
  deriving DecidableEq, Repr

/-- The lane count of a token. -/
def Token.count (t : Token) : Nat := t.lanes.length

/-- Lane i; an absent lane is invalid (R219). -/
def Token.lane (t : Token) (i : Nat) : Lane := t.lanes.getD i Lane.bad

/-- The value of lane i. -/
def Token.val (t : Token) (i : Nat) : Nat := (t.lane i).val.toNat

/-- Whether lane i is present and valid. -/
def Token.ok (t : Token) (i : Nat) : Bool := (t.lane i).ok

/-- A control or flag lane is true when it is valid and nonzero (R231, R245). -/
def Token.isTrue (t : Token) (i : Nat) : Bool := t.ok i && t.val i != 0

/-- The 32-bit header (R218). -/
def Token.header (t : Token) : Nat :=
  t.kind.code * 2 ^ 24 + t.policy % 16 * 2 ^ 20 + t.iter % 8 * 2 ^ 17 + b2n t.reset * 2 ^ 16 + b2n t.last * 2 ^ 15
    + t.count % 2048 * 16 + t.fmt.toNat

/-- A control token of one N64 lane (R154, R262, R271). -/
def controlToken (v : Nat) : Token := { kind := .control, fmt := 7, lanes := [⟨dw v, true⟩] }

/-- A control token with the header fields of a token consumed (R220, R262, R277, R286). -/
def Token.control (t : Token) (v : Nat) : Token := { t with kind := .control, fmt := 7, lanes := [⟨dw v, true⟩] }

/-- A closed mark (R218). -/
def closedMark : Token := { kind := .control, last := true, fmt := 7, lanes := [Lane.bad] }

/-- Whether a token is a closed mark. -/
def Token.isClosed (t : Token) : Bool :=
  t.kind == .control && t.last && t.count == 1 && !t.ok 0

/-- Position of lane i of a format among the data bits (R48). -/
def laneBit (f : BitVec 4) (i : Nat) : Nat :=
  if f == 14 then 32 * (i / 5) + 6 * (i % 5) else laneWidth f * i

/-- One more than the highest data bit of n lanes (R48). -/
def dataBits (f : BitVec 4) (n : Nat) : Nat := if n = 0 then 0 else laneBit f (n - 1) + laneWidth f

/-- Lanes filled by the low n bits (R241): five to a 32-bit word for F6E3. -/
def lanesIn (f : BitVec 4) (n : Nat) : Nat := if f == 14 then n / 32 * 5 else n / laneWidth f

/-- The data bits of lanes, invalid lanes as zero (R48, R242). -/
def packFrom (f : BitVec 4) : Nat → List Lane → Nat
  | _, [] => 0
  | i, l :: ls => (if l.ok then l.val.toNat % 2 ^ laneWidth f * 2 ^ laneBit f i else 0) + packFrom f (i + 1) ls

/-- The data bits of a token (R48, R242). -/
def Token.data (t : Token) : Nat := packFrom t.fmt 0 t.lanes

/-- Lane i of data bits (R48). -/
def laneOf (f : BitVec 4) (bits i : Nat) : Nat := bits / 2 ^ laneBit f i % 2 ^ laneWidth f

/-- n valid lanes of data bits. -/
def lanesOf (f : BitVec 4) (bits n : Nat) : List Lane :=
  (List.range n).map fun i => ⟨dw (laneOf f bits i), true⟩

/-- Whether R228 converts a token: the kinds data and void. -/
def Token.converts (t : Token) : Bool := t.kind == .data || t.kind == .void

/-- Lists of at most n elements each, in order. -/
def chunksOf {α : Type} (n : Nat) : Nat → List α → List (List α)
  | 0, _ => []
  | k + 1, xs => if xs.isEmpty then [] else xs.take n :: chunksOf n k (xs.drop n)

/-- The pieces of a token whose lanes are cut to n: the reset mark on the first, the last mark on the final (R228). -/
def distribute (t : Token) (pieces : List (List Lane)) (i : Nat) : List Token :=
  match pieces with
  | [] => []
  | p :: ps =>
    { t with lanes := p, reset := t.reset && i == 0, last := t.last && ps.isEmpty } :: distribute t ps (i + 1)

/-- A lane converted under RNE and the CVT column (R228). -/
def convertLane (src dst : BitVec 4) (l : Lane) : Lane :=
  if l.ok then
    let r := convLane src dst .rne 0 l.val.toNat
    ⟨dw r.bits, r.ok⟩
  else Lane.bad

/-- The conversion of a token to a format as it leaves or arrives (R228): its pieces. -/
def convertToken (dst : BitVec 4) (t : Token) : List Token :=
  if !t.converts || t.fmt == dst then [t]
  else
    let ls := t.lanes.map (convertLane t.fmt dst)
    if ls.isEmpty then [{ t with fmt := dst, lanes := [] }]
    else distribute { t with fmt := dst } (chunksOf (laneCount dst) (ls.length + 1) ls) 0

end Sys2Proof.Machine
end

