-- ==== Sys2Proof/Machine/Unit.lean ====
section
/-! DEFINITION. The firing of a unit (R226): what a step reads, what it consumes, what it places, and the state an element
or router keeps between firings (R233, R246). -/

namespace Sys2Proof.Machine

/-- A lane of a reducer's group: the running value as an exact integer (a float's code), and its validity (R283). -/
structure FoldLane where
  acc : Int
  ok : Bool
  deriving DecidableEq, Repr

/-- What a unit keeps between firings; every unit starts idle (R246, R233, R283). -/
inductive UnitState where
  | idle
  /-- VSCAN: the exact running value and its validity (R254) -/
  | scan (acc : Int) (av : Bool)
  /-- FVLREC: h and its validity (R259) -/
  | lrec (h : Nat) (hv : Bool)
  /-- CTURN while it fills (R265), MROW while the tokens of its row arrive (R276) -/
  | fill (block : List Token)
  /-- CTURN while it emits: the next output token's number -/
  | emit (block : List Token) (next : Nat)
  /-- CVT and SCALE during a split: the firings done (R268) -/
  | split (done : Nat)
  /-- CARRY in its loop state (R233) -/
  | carryLoop
  /-- INVAR in its loop state, with the token it keeps (R233) -/
  | invarLoop (kept : Token)
  /-- AMERGE inside a row: from B, or from C (R232) -/
  | row (fromB : Bool)
  /-- RED inside a group: tokens folded, the first token's reset mark, the lanes (R283) -/
  | fold (count : Nat) (reset : Bool) (lanes : List FoldLane)
  /-- MDRN and MCLR with rows to come: the next row, the rows left, those of the trigger, and the trigger (R277) -/
  | rows (next : Nat) (left : Nat) (total : Nat) (trigger : Token)
  deriving DecidableEq, Repr

/-- The tokens at the heads of a unit's inputs, and the format of input A's link (R245). -/
structure Inputs where
  a : Option Token
  b : Option Token
  c : Option Token
  aFmt : BitVec 4
  deriving DecidableEq, Repr

/-- One firing: which heads it consumes, what it places on each output, and the unit's next state. -/
structure Fire where
  takeA : Bool := false
  takeB : Bool := false
  takeC : Bool := false
  out0 : Option Token := none
  out1 : Option Token := none
  st : UnitState := .idle
  deriving DecidableEq, Repr

/-- The constant word as input B (R39): full lane count, every lane valid. -/
def constToken (e : EWord) : Token :=
  let v := e.konst.toNat % 2 ^ laneWidth e.fmt
  { fmt := e.fmt, lanes := List.replicate (laneCount e.fmt) ⟨dw v, true⟩ }

/-- Input B: the constant when K = 1, else the head of B. -/
def inputB (e : EWord) (x : Inputs) : Option Token := if e.k then some (constToken e) else x.b

/-- The lane count of R220: the smallest among the token inputs, at most the full count. -/
def outCount (e : EWord) (ts : List Token) : Nat := ts.foldl (fun n t => min n t.count) (laneCount e.fmt)

/-- An output token with the header R220 gives it. -/
def outToken (e : EWord) (hdr : Token) (lanes : List Lane) : Token := { hdr with fmt := e.fmt, lanes := lanes }

/-- The firing that consumes every connected input and places one token on output 0. -/
def fireAll (e : EWord) (t : Token) (st : UnitState := .idle) : Fire :=
  { takeA := e.a != 0xFF, takeB := e.b != 0xFF, takeC := e.c != 0xFF, out0 := some t, st := st }

/-- A lane-wise operation of one input. -/
def lanewise1 (e : EWord) (x : Inputs) (f : Nat → Lane) : Option Fire :=
  match x.a with
  | none => none
  | some a =>
    let n := outCount e [a]
    some (fireAll e (outToken e a ((List.range n).map fun i => if a.ok i then f (a.val i) else Lane.bad)))

/-- A lane-wise operation of two inputs; the constant may be the second. -/
def lanewise2 (e : EWord) (x : Inputs) (f : Nat → Nat → Lane) : Option Fire :=
  match x.a, inputB e x with
  | some a, some b =>
    let n := outCount e (if e.k then [a] else [a, b])
    some (fireAll e (outToken e a ((List.range n).map fun i =>
      if a.ok i && b.ok i then f (a.val i) (b.val i) else Lane.bad)))
  | _, _ => none

/-- A lane-wise operation of three inputs; the constant may be the second. -/
def lanewise3 (e : EWord) (x : Inputs) (f : Nat → Nat → Nat → Lane) : Option Fire :=
  match x.a, inputB e x, x.c with
  | some a, some b, some c =>
    let n := outCount e (if e.k then [a, c] else [a, b, c])
    some (fireAll e (outToken e a ((List.range n).map fun i =>
      if a.ok i && b.ok i && c.ok i then f (a.val i) (b.val i) (c.val i) else Lane.bad)))
  | _, _, _ => none

end Sys2Proof.Machine
end

