-- ==== Sys2Proof/Machine/Types.lean ====
section
/-! DEFINITION. The parts of the machine's state: strands and records (chapter 16), core memories (10), slices (5), versioned
memory (11), translation (19), contexts and tasks (18, 19). Plain data throughout. -/

namespace Sys2Proof.Machine

/-! ### Strands (R314, R318, R325) -/

/-- Loop and repeat state, live or saved in a trap frame (R325, R352). -/
structure LoopState where
  lcnt : Word := 0
  lbeg : Dword := 0
  lend : Dword := 0
  rcnt : Word := 0
  deriving DecidableEq, Repr

/-- Access kinds of a translation (R47, R385). -/
inductive Access where
  | read
  | write
  | exec
  | atomic
  deriving DecidableEq, Repr

/-- A walk's refusal that a retried instruction finds (R386): the VA, the access, and the code 0x03, 0x04 or 0x07. -/
structure WalkFault where
  va : Dword
  acc : Access
  code : Nat
  deriving DecidableEq, Repr

/-- One tag of a strand's response window (R152): the response when it is present. -/
structure WindowTag where
  tag : BitVec 16
  resp : Option Dword := none
  /-- a stream command's tag; false for a posted EPI, GRAM or GEN request's -/
  command : Bool := true
  deriving DecidableEq, Repr

/-- Where a strand is (R316). -/
inductive Residence where
  /-- in a slot since this time -/
  | resident (since : Nat)
  /-- a record in the core's Moraine -/
  | recorded
  deriving DecidableEq, Repr

/-- A strand (R314): its PC, registers, CSRs, tags, mode and children. -/
structure Strand where
  core : Nat := 0
  sid : Nat := 0
  ctx : Nat := 0
  /-- the task that owns it (R376) -/
  task : Nat := 0
  pc : Dword := 0
  regs : Vector Dword 32 := Vector.replicate 32 0
  dmask : Word := 0
  /-- sid [63:32] -/
  sibling : Word := 0
  /-- its parent's key, none for a root strand or a scout -/
  parent : Option Nat := none
  /-- the number of the next child (R329) -/
  nextChild : Nat := 1
  /-- children that have not ended (R329) -/
  unjoined : Nat := 0
  scout : Bool := false
  ordered : Bool := false
  /-- mstat.M: system mode -/
  sys : Bool := false
  loop : LoopState := {}
  frame : LoopState := {}
  cause : BitVec 8 := 0
  epc : Dword := 0
  tval : Dword := 0
  tvec : Dword := 0
  fflags : BitVec 5 := 0
  frm : BitVec 3 := 0
  prio : BitVec 3 := 0
  budget : Word := 0
  tagCtr : BitVec 16 := 0
  /-- newest first -/
  window : List WindowTag := []
  place : Residence := .recorded
  /-- a walk that ended in a refusal, for the instruction that is tried again (R386) -/
  walkFault : Option WalkFault := none
  /-- notice of a held STV not yet acted on (R203) -/
  parked : Bool := false
  /-- deadline of a pre-emption notice not yet delivered (R379) -/
  notice : Option Nat := none
  /-- MODEL'S OWN. The number of this strand among all that have been: whose commands and requests its stream is -/
  stream : Nat := 0
  deriving DecidableEq, Repr

/-- What BARC keeps of a strand's, or a list's, commands (R171). -/
structure BarcState where
  /-- a BARC has skipped and no later one has come -/
  skipping : Bool := false
  /-- since the previous BARC, a CFG has completed with another status than 0x00 -/
  cfgBad : Bool := false
  /-- since the previous BARC, a command has -/
  anyBad : Bool := false
  deriving DecidableEq, Repr

/-- Record kinds (R318). -/
inductive RecKind where
  | resume
  | join
  | preempted
  | scout
  | trap
  deriving DecidableEq, Repr

def RecKind.code : RecKind → Nat
  | .resume => 0
  | .join => 1
  | .preempted => 2
  | .scout => 3
  | .trap => 4

/-- Where a record lies (R323). -/
inductive SlotPlace where
  | onChip
  | reserved
  | spill
  deriving DecidableEq, Repr

/-- What a record waits for beside a completion that carries its tag: the drains and held STVs of a FENCE (R207), the
responses of `fence.eng`, an input link's free slot (R241), the children of a JOIN, its held STVs (R203), a resumption. -/
inductive WaitFor where
  | completion
  | drain (entries : List Nat) (hostWrites : Bool)
  | responses
  | portRoom (port : Nat)
  | portToken (port : Nat)
  | stvRoom
  | children
  | held
  | resumption
  | nothing
  deriving DecidableEq, Repr

/-- What a relaunch does before the strand goes on (R86, R151, R205, R207). -/
inductive OnResume where
  | nothing
  /-- acquire at a scope code -/
  | acquire (scope : Nat)
  /-- RESP: acquire, retire the tag, and raise the deferred fault, if any (R128, R159) -/
  | resp (tag : BitVec 16)
  deriving DecidableEq, Repr

/-- A continuation record (R318). -/
structure Record where
  kind : RecKind
  sid : Nat
  ctx : Nat
  sibling : Word
  ordered : Bool
  y : Bool
  sys : Bool
  pc : Dword
  /-- tag space 0, 1 or 2 (R321) -/
  space : Nat
  tag : BitVec 16
  cause : BitVec 8
  ready : Bool
  dest : BitVec 5
  dmask : Word
  /-- the live loop values, or the trap frame's in system mode (R350) -/
  loop : LoopState
  /-- the dirty registers in ascending number -/
  dirty : List Dword
  result : Dword
  crc : BitVec 32
  place : SlotPlace
  wait : WaitFor
  act : OnResume
  /-- order of readiness, and the step at which it became ready (R322) -/
  readyNo : Nat
  readyTick : Nat
  /-- ready time in ns of tns (R316) -/
  readyAt : Nat
  /-- the PC of the instruction that deposited it (R379) -/
  ownPc : Dword
  /-- the loop values before that instruction's loop step (R326) -/
  ownLoop : LoopState
  /-- whether it waits on the Retry path (R379) -/
  retry : Bool
  deriving DecidableEq, Repr

/-- A completion on its way to a core (R321). -/
structure Completion where
  core : Nat
  sid : Nat
  space : Nat
  tag : BitVec 16
  value : Dword
  /-- a fault and its tval (R320) -/
  fault : Option (Nat × Dword) := none
  /-- an atomic's line, whose L1 copy is dropped or overwritten (R86) -/
  line : Option Nat := none
  deriving DecidableEq, Repr

/-! ### Core memories (R177 to R192) -/

/-- A line of an L1 data cache. A stale line keeps its way and its pin without data (R184). -/
structure L1Line where
  line : Nat
  data : Line
  stale : Bool := false
  pin : Option Nat := none
  deriving DecidableEq, Repr

/-- A line of an instruction cache (R185). -/
structure ICLine where
  line : Nat
  data : Line
  deriving DecidableEq, Repr

/-- A coalescing-buffer entry: its number, line, bytes and mask, and whose store last wrote each byte (R181, R209). -/
structure CbEntry where
  id : Nat
  line : Nat
  data : Line
  mask : LineMask
  /-- (context, its bytes, a VA page it stored through): every byte of the mask has one owner -/
  owners : List (Nat × LineMask × Nat)
  draining : Bool := false
  deriving DecidableEq, Repr

/-- How a load's bytes become its result (R193). -/
structure LoadForm where
  size : Nat
  signed : Bool
  deriving DecidableEq, Repr

/-- A load, a fetch, a PIN or a prefetch that waits for a line (R179, R186, R195). -/
inductive LineUse where
  | load (sid : Nat) (tag : BitVec 16) (va : Dword) (pa : Nat) (form : LoadForm)
  | descriptor (sid : Nat) (tag : BitVec 16) (va : Dword) (pa : Nat)
  | warm
  deriving DecidableEq, Repr

/-- A line request of a core: the uses that share it (R179). -/
structure LineReq where
  line : Nat
  /-- context and VA line of the first use, for the slice's handlers (R90) -/
  ctx : Nat
  va : Dword
  uses : List LineUse
  /-- a coalescing-buffer entry whose acceptance is awaited first (R179) -/
  after : Option Nat := none
  deriving DecidableEq, Repr

/-- A prefetch that waits for a walk (R195). -/
structure PfWait where
  ctx : Nat
  va : Dword
  deriving DecidableEq, Repr

/-! ### Slices (R75 to R83) -/

/-- A line resident in its home slice. The contents stand in the memory; a dirty line is one not written back. -/
structure SliceLine where
  line : Nat
  dirty : Bool := false
  lockedBy : Option Nat := none
  /-- the translation that filled it, for evict events (R90) -/
  ctx : Nat := 0
  va : Dword := 0
  deriving DecidableEq, Repr

/-- A line miss in flight (R79), with the translation of the request that missed. -/
structure Fill where
  line : Nat
  ctx : Nat
  va : Dword
  /-- waiting for a fill handler's DONE (R91) -/
  handler : Bool := false
  /-- depth of its fill event; 16 raises none (R90) -/
  depth : Nat := 0
  deriving DecidableEq, Repr

/-- Atomic operations (R33, R84). -/
inductive AtomOp where
  | add
  | and
  | or
  | xor
  | min
  | max
  | minu
  | maxu
  | swp
  | cas
  deriving DecidableEq, Repr

/-- An atomic, LOCK or UNLOCK on its way to the slice (R81, R84). -/
inductive SliceOp where
  | atom (op : AtomOp) (size : Nat) (x : Dword) (c : Dword)
  | lock
  | unlock
  deriving DecidableEq, Repr

/-- A strand's operation at a home slice, or a host-window atomic (R84 to R87). -/
structure SliceReq where
  id : Nat
  core : Nat
  sid : Nat
  tag : BitVec 16
  ctx : Nat
  task : Nat
  va : Dword
  pa : Nat
  op : SliceOp
  /-- the coalescing-buffer entry of its line that drains first (R86) -/
  after : Option Nat
  deriving DecidableEq, Repr

/-! ### Versioned memory (R200 to R206) -/

/-- An STV on its way, or held at the slice (R203, R204). -/
structure StvReq where
  id : Nat
  core : Nat
  /-- the strand's id; 65,536 + its stream once it has ended -/
  sid : Nat
  ctx : Nat
  task : Nat
  va : Dword
  pa : Nat
  value : Dword
  /-- coalescing-buffer entries of its release (R183) -/
  after : List Nat
  held : Bool := false
  deriving DecidableEq, Repr

/-- What an LDV, or an ordinary load of a strata word, asks for (R178, R202, R205). -/
inductive LdvForm where
  | eq (v : Dword)
  | ge (v : Dword)
  | newest (form : LoadForm)
  deriving DecidableEq, Repr

/-- An LDV on its way, or waiting for a version (R205). -/
structure LdvReq where
  id : Nat
  core : Nat
  sid : Nat
  tag : BitVec 16
  ctx : Nat
  task : Nat
  va : Dword
  pa : Nat
  form : LdvForm
  /-- the version it waits for, once the slice has placed it in the word's order -/
  waiting : Option Nat := none
  deriving DecidableEq, Repr

/-- An RCLM on its way (R206). -/
structure RclmReq where
  id : Nat
  core : Nat
  sid : Nat
  ctx : Nat
  task : Nat
  va : Dword
  pa : Nat
  v : Dword
  deriving DecidableEq, Repr

/-! ### Translation (R383 to R387) -/

/-- A cached leaf (R384, R386): its context, its size as the number of page-offset bits, its page number and entry. -/
structure TlbEntry where
  ctx : Nat
  bits : Nat
  page : Nat
  pte : Dword
  deriving DecidableEq, Repr

/-- Who waits for a walk (R386). -/
inductive WalkWaiter where
  | strand (core : Nat) (sid : Nat) (tag : BitVec 16) (va : Dword) (acc : Access)
  | prefetch (core : Nat) (va : Dword)
  deriving DecidableEq, Repr

/-- A miss in a die's queue, or a walk in flight (R386). -/
structure Walk where
  id : Nat
  die : Nat
  ctx : Nat
  /-- VA [55:16] -/
  page : Nat
  started : Bool := false
  /-- a shootdown obliges it to be walked again (R387) -/
  again : Bool := false
  waiters : List WalkWaiter
  deriving DecidableEq, Repr

/-- A TLB shootdown in progress (R387). -/
structure Shootdown where
  range : Nat
  va : Nat
  ctx : Nat
  deriving DecidableEq, Repr

/-! ### Contexts (R374, R376, R412) -/

/-- A ring in a context's memory or the host's: its base, log2 of its records, its counter and its vector (R97, R374). -/
structure Ring where
  va : Dword := 0
  logSize : Nat := 0
  counter : Dword := 0
  vector : Option Nat := none
  /-- records written so far -/
  written : Nat := 0
  deriving DecidableEq, Repr

/-- Events folded since the last record of a kind, core and region (R374). -/
structure Fold where
  kind : Nat
  core : Nat
  region : Nat
  /-- µs of tns of the last record -/
  at_ : Nat
  repeats : Nat
  deriving DecidableEq, Repr

/-- A context's record in the BAR0 control map, and what the part keeps for it. -/
structure Ctx where
  created : Bool := false
  dead : Bool := false
  /-- PA of the page-table root (R383) -/
  root : Dword := 0
  spillBase : Dword := 0
  spillRecords : Nat := 0
  /-- doublewords 0 to 9 of the strata window record (R200) -/
  strata : Vector Dword 10 := Vector.replicate 10 0
  eventRing : Ring := {}
  reportRing : Ring := {}
  scrubRing : Ring := {}
  scrubList : Dword := 0
  scrubCount : Nat := 0
  cp : Bool := false
  fk : Bool := false
  scoutPriv : Bool := false
  seed : Dword := 0
  lockQuota : Nat := 0
  pinQuota : Nat := 0
  freezeArea : Dword := 0
  folds : List Fold := []
  deriving DecidableEq, Repr

/-! ### Tasks (R356 to R368, R376) -/

/-- What a task is an instance of (R175, R364). -/
inductive TaskOrigin where
  /-- a node of the running replay of a kick slot -/
  | replay (slot : Nat)
  /-- a TSK instance: its command's number -/
  | tsk (uid : Nat)
  deriving DecidableEq, Repr

/-- Node kinds (R357). -/
inductive NodeKind where
  | strand
  | fabric
  | copy
  | episode
  | grammar
  deriving DecidableEq, Repr

/-- How far a task has come. -/
inductive TaskStatus where
  /-- a node whose predecessors have not all finished -/
  | waiting
  /-- in a ready queue -/
  | queued
  | started
  /-- ended by containment with a fault code, or failed with a code of R422 -/
  | killed (code : Nat)
  | finished
  deriving DecidableEq, Repr

/-- One request-list entry of an episode or grammar task (R358). -/
structure ReqEntry where
  fn : Nat
  a : Dword
  b : Dword
  d : Dword
  deriving DecidableEq, Repr

/-- A task instance: one node of a replay, or a TSK instance (R357, R363). -/
structure Task where
  origin : TaskOrigin
  node : Nat
  kind : NodeKind
  ctx : Nat
  die : Nat
  core : Nat
  priority : Nat := 0
  ordered : Bool := false
  status : TaskStatus := .queued
  /-- entry PC, list VA or 0 -/
  address : Dword := 0
  count : Nat := 0
  results : Dword := 0
  /-- $1 to $8: the launch image (R315), or a fabric chain's image VAs -/
  params : List Dword := []
  /-- patches of shape records: (record, field, value) (R362) -/
  patches : List (Nat × Nat × Dword) := []
  /-- the root strand's key once it is dispatched -/
  root : Option Nat := none
  rootEnded : Bool := false
  /-- coalescing-buffer entries present at the root's END (R332) -/
  drains : List Nat := []
  /-- images of a fabric chain already completed, or entries of a list already completed -/
  done : Nat := 0
  /-- the configuration of the chain now offered or running -/
  offered : Bool := false
  /-- a list entry has been issued and not completed (R358) -/
  issued : Bool := false
  /-- the stream of a copy task's list -/
  list : Option Nat := none
  deriving DecidableEq, Repr

/-- An entry of a ready queue (R366). -/
structure Queued where
  task : Nat
  level : Nat
  /-- tns at which it joined its level -/
  since : Nat
  deriving DecidableEq, Repr

/-- States of a kick slot (R360). -/
inductive SlotState where
  | idle
  | running
  | failed
  | unbound
  deriving DecidableEq, Repr

/-- A node of a running replay in the dependence table (R364). -/
structure DepEntry where
  node : Nat
  die : Nat
  count : Nat
  task : Nat
  /-- its successors, one entry an edge -/
  succs : List Nat := []
  finished : Bool := false
  deriving DecidableEq, Repr

/-- A kick slot (R360, R361). -/
structure KickSlot where
  tgo : Dword := 0
  ctx : Nat := 0
  vector : Option Nat := none
  enable : Bool := false
  state : SlotState := .idle
  completed : Nat := 0
  code : Nat := 0
  overruns : Nat := 0
  /-- patch tables of the TGO when it was bound -/
  tables : Nat := 0
  /-- the running kick's patch table, and the replays it has still to run -/
  table : Nat := 0xFFFF
  replaysLeft : Nat := 0
  /-- the pending kick's word -/
  pending : Option Dword := none
  /-- whether the current replay has started, and its nodes -/
  started : Bool := false
  nodes : List DepEntry := []
  /-- the code of a replay that fails but whose started nodes still run -/
  failing : Option Nat := none
  /-- the order in which the replay became due -/
  due : Nat := 0
  deriving DecidableEq, Repr

end Sys2Proof.Machine
end

