-- ==== Sys2Proof/Machine/FabricTypes.lean ====
section
/-! DEFINITION. The state of a core's fabric (chapter 12), of its address generators and stream commands (chapter 9), and of
its matrix row engines and carried state (chapter 14). -/

namespace Sys2Proof.Machine

/-! ### Shape records and walks (R144 to R148) -/

/-- A shape record (R144). Extents and strides are those of dimensions 1 to 5. -/
structure Shape where
  base : Dword := 0
  ext : List Nat := []
  str : List Int := []
  lanes : Nat := 0
  ndims : Nat := 1
  fmt : BitVec 4 := 0
  kw : Nat := 0
  kh : Nat := 0
  sx : Nat := 0
  sy : Nat := 0
  dx : Nat := 0
  dy : Nat := 0
  px : Nat := 0
  py : Nat := 0
  deriving DecidableEq, Repr

/-- An element stored: the bytes that hold it, its place in them, its code (R145). -/
structure ElemWrite where
  va : Dword
  pa : Nat
  bytes : Nat
  bit : Nat
  width : Nat
  code : Nat
  deriving DecidableEq, Repr

/-- A token's store that an AG or a port command has sent and its slices have not accepted (R149, R208): its elements,
the sequence of its iteration, and whether its data link is a scope link (R237). -/
structure PendStore where
  writes : List ElemWrite
  iter : Nat := 0
  inScope : Bool := false
  deriving DecidableEq, Repr

/-- An AG's held stream fault (R156). -/
structure AgFault where
  code : Nat
  va : Dword
  /-- tns of the next retry (R376) -/
  retryAt : Nat
  deriving DecidableEq, Repr

/-- An address generator between steps (R145, R149, R154). -/
structure AgState where
  /-- a round in progress, with the shape values it began with -/
  round : Option Shape := none
  /-- iteration sequence and policy tag of the round's tokens: those of the token last taken from input A (R220) -/
  iter : Nat := 0
  policy : Nat := 0
  /-- rounds still to be run in this pass (R224) -/
  rounds : Nat := 0
  /-- the next element, in iteration order; for AGGA within the row of the current index -/
  pos : Nat := 0
  /-- elements of the round moved -/
  moved : Nat := 0
  /-- tokens fetched and not yet delivered, in request order, with the lines of each -/
  ahead : List (Token × Nat) := []
  /-- a storing AG's token in part: the next lane -/
  token : Option (Token × Nat) := none
  /-- AGGA's index token: the next lane -/
  index : Option (Token × Nat) := none
  /-- AGGA: the round's last index has been handled -/
  ended : Bool := false
  stores : List PendStore := []
  fault : Option AgFault := none
  /-- payload lanes gathered for AGEP's row, with its data bits so far (R155) -/
  payload : List Lane := []
  /-- an append sent and not yet answered, by its number -/
  append : Option Nat := none
  /-- handle or refusal tokens not yet placed -/
  handles : List Token := []
  deriving DecidableEq, Repr

/-! ### Regions (R221 to R238) -/

/-- A unit of a configuration: the element or the router of a cell. -/
structure UnitRef where
  cell : Nat
  router : Bool
  deriving DecidableEq, Repr

/-- How a link is bound (R222). -/
inductive Binding where
  | internal
  | input (port : Nat)
  | output (port : Nat)
  deriving DecidableEq, Repr

/-- A link (R222, R228, R229): its queue holds slots, each the pieces a token became, already in its consumer's format. -/
structure Link where
  fmt : BitVec 4
  slots : Nat
  demand : Bool := false
  scope : Bool := false
  coded : Bool := false
  detach : Bool := false
  binding : Binding := .internal
  /-- the multicast's root (R229) -/
  root : Option Nat := none
  prod : Option UnitRef := none
  cons : Option UnitRef := none
  /-- the format tokens are converted to on arrival (R228); none where the consumer reads them as they are -/
  consFmt : Option (BitVec 4) := none
  queue : List (List Token) := []
  detached : Bool := false
  /-- a closed mark stands behind the tokens (R230) -/
  closed : Bool := false
  deriving DecidableEq, Repr

/-- Sub-region kinds (R223). -/
inductive SubKind where
  | pipeline
  | ag
  | reducer
  deriving DecidableEq, Repr

structure SubRegion where
  x0 : Nat
  y0 : Nat
  w : Nat
  h : Nat
  kind : SubKind
  step : Nat
  deriving DecidableEq, Repr

/-- A cell of a loaded configuration: its element and router, and what they keep. -/
structure Cell where
  elem : Option Instr := none
  router : Option Instr := none
  est : UnitState := .idle
  rst : UnitState := .idle
  ag : AgState := {}
  deriving DecidableEq, Repr

/-- A memory range and its owner (R208). -/
structure MemRange where
  base : Dword
  length : Nat
  owners : List Nat
  /-- index of the current owner -/
  owner : Nat := 0
  deriving DecidableEq, Repr

/-- Typed buffers (R189). -/
inductive Buf where
  | w
  | a
  | c
  deriving DecidableEq, Repr

structure BufRange where
  buf : Buf
  start : Nat
  length : Nat
  writer : Nat
  deriving DecidableEq, Repr

/-- The PERMIT's state (R236, R237). -/
structure PermitState where
  k : Nat := 0
  free : Nat := 0
  next : Nat := 0
  /-- sequences in flight, in the order they were admitted -/
  inflight : List Nat := []
  /-- the squash mask, bit s for sequence s -/
  mask : BitVec 8 := 0
  exited : Bool := false
  /-- consecutive sampling rounds that found no token of a masked sequence, by sequence -/
  clean : List (Nat × Nat) := []
  deriving DecidableEq, Repr

/-- Matrix row engine of a core (R273 to R276). -/
structure TileSet where
  first : Nat
  count : Nat
  /-- rows left; none for the life of the configuration -/
  uses : Option Nat
  ok : Bool
  deriving DecidableEq, Repr

/-- MLDB while it loads a set from input A (R275): its control value and the elements still to come. -/
structure TileLoad where
  ctl : Nat
  ok : Bool
  done : Nat
  total : Nat
  deriving DecidableEq, Repr

structure Mre where
  tiles : Option TileSet := none
  load : Option TileLoad := none
  ptr : Nat := 0
  deriving DecidableEq, Repr

/-- Whether a region runs a pass, is idle, or waits to be restored (R370, R381). -/
inductive RegionStatus where
  | running
  | idle
  deriving DecidableEq, Repr

/-- A region: a configuration placed on cells of a core (R221 to R224, R369). -/
structure Region where
  /-- region number 8 y0 + x0 -/
  number : Nat
  x0 : Nat
  y0 : Nat
  w : Nat
  h : Nat
  ctx : Nat
  /-- the task that owns it (R376) -/
  task : Nat
  image : Dword
  status : RegionStatus := .running
  subs : List SubRegion
  links : List Link
  cells : Tbl Cell
  shapes : List Shape
  ranges : List MemRange
  bufs : List BufRange
  loops : List Nat
  stall : Nat
  permit : Option PermitState := none
  mres : Tbl Mre := []
  /-- the pass is a fabric task's; false when a CFG loaded it -/
  pass : Bool := false
  /-- consecutive quiet sampling rounds (R238) -/
  quiet : Nat := 0
  /-- the region summary (R174): stream fault, poisoned reply, bad parameter, append failed -/
  sumFault : Bool := false
  sumPoison : Bool := false
  sumParam : Bool := false
  sumAppend : Bool := false
  /-- stall timers of multicast roots: root, ns that it has run (R230) -/
  stalls : List (Nat × Nat) := []
  deriving DecidableEq, Repr

/-- Who feeds an input port (R239): PWR, the port stream unit, a play on a cursor, or a feed of a unit beside the fabric. A
command resumed by RST goes on with the row of the one that faulted: the unit is one feeder. -/
inductive Feeder where
  | pwr
  | stream
  | play (cursor : Nat)
  | feed (id : Nat)
  deriving DecidableEq, Repr

/-- What a command that faulted left at its port (R160): the command, its restart point, the token it was storing, and for a
coded stream the next block and its place. -/
structure SavedCmd where
  opcode : Nat
  operand : Word
  addr : Dword
  restart : Nat
  token : Option Token
  block : Nat := 0
  blockAt : Nat := 0
  deriving DecidableEq, Repr

/-- A port of a core (R239 to R242). -/
structure Port where
  /-- the assembly buffer: its doublewords, in order (R241) -/
  assembly : List Dword := []
  /-- doublewords of the head token already read, the descriptor included (R242) -/
  readPos : Nat := 0
  /-- the feeder that holds the port inside a row (R239) -/
  feeder : Option Feeder := none
  saved : Option SavedCmd := none
  deriving DecidableEq, Repr

/-- A stream map entry (R284). -/
structure StreamEntry where
  ctx : Nat
  id : Nat
  /-- the slot, or the save-area VA of the last swap-out -/
  slot : Option Nat
  save : Dword := 0
  isOpen : Bool := false
  deriving DecidableEq, Repr

/-! ### Stream commands (R143 to R176) -/

/-- How far a command has come. -/
inductive CmdStage where
  /-- issued, its release not yet complete or its agent busy -/
  | waiting
  | running
  /-- completed with a response not yet presented (R150) -/
  | done (resp : Dword)
  deriving DecidableEq, Repr

/-- A command's progress: what its agent has moved, asked for and met. -/
structure CmdProg where
  /-- next element, byte offset or entry to be fetched or written -/
  pos : Nat := 0
  /-- elements, rows, bytes or entries done -/
  moved : Nat := 0
  /-- first poisoned element, offset or entry -/
  poison : Option Nat := none
  /-- the stream fault that stops the command: its cause and restart point (R160) -/
  stop : Option (Nat × Nat) := none
  /-- the first malformed coded block, the number of the next block and its byte position (R64) -/
  badBlock : Option Nat := none
  block : Nat := 0
  blockAt : Nat := 0
  /-- a zero length field ended the decodable stream (R64) -/
  blockEnd : Bool := false
  /-- decoded lanes not yet cut into tokens -/
  lanes : List Lane := []
  /-- tokens fetched and not yet delivered, with the element index of each one's first lane and its lines -/
  ahead : List (Token × Nat × Nat) := []
  /-- the token an STS or SCT is storing: its next lane -/
  token : Option (Token × Nat) := none
  stores : List PendStore := []
  /-- number and byte position of the first block of the lanes decoded and not yet cut -/
  tokBlock : Nat := 0
  tokAt : Nat := 0
  /-- the current entry of an index vector or list, and its row once read: none within is an unusable row -/
  entry : Nat := 0
  row : Option (Option Dword) := none
  /-- position within the row -/
  rowPos : Nat := 0
  /-- CRC-32C register of a chain, and its destination bytes (R167) -/
  crc : BitVec 32 := 0xFFFFFFFF
  /-- the descriptor being executed (R166) -/
  desc : Option (List Dword) := none
  /-- bytes of the piece read and not yet written -/
  held : Option (List Byte) := none
  /-- the shape the command walks, fixed at its start -/
  shape : Option Shape := none
  /-- the link and region it feeds or drains -/
  region : Nat := 0
  link : Nat := 0
  /-- the task instance of a TSK -/
  task : Option Nat := none
  /-- the k-th collective of its group (R169) -/
  round : Nat := 0
  deriving DecidableEq, Repr

/-- An issued stream command. -/
structure Command where
  uid : Nat
  core : Nat
  /-- the issuing strand's id, none for a copy task's list and for a strand that has ended -/
  sid : Option Nat
  /-- whose stream of commands it belongs to: the strand's, or the list's -/
  stream : Nat
  ctx : Nat
  task : Nat
  tag : BitVec 16
  bits : BitVec 128
  /-- a list's entry, not yet read (R158): its VA, its index, the list's number -/
  src : Option (Dword × Nat × Nat) := none
  /-- coalescing-buffer entries its issue released (R151), and the number that the next STV then had (R203) -/
  after : List Nat
  stvs : Nat := 0
  stage : CmdStage := .waiting
  prog : CmdProg := {}
  deriving DecidableEq, Repr

/-- A configuration ready for a core's arbiter (R369). -/
structure ReadyConfig where
  image : Dword
  ctx : Nat
  task : Nat
  level : Nat
  /-- the CFG command, or none for a fabric task's pass -/
  cmd : Option Nat
  /-- order in which it became ready -/
  order : Nat
  bypass : Nat := 0
  reserved : Bool := false
  /-- tns at which it joined its level (R366) -/
  since : Nat := 0
  deriving DecidableEq, Repr

/-- A pre-emption of a core in progress (R378 to R380). -/
structure Preemption where
  ctx : Nat
  deadline : Nat
  /-- past the deadline: the agents have yielded -/
  yielded : Bool := false
  /-- tns at which the freeze threshold expires -/
  freezeAt : Nat := 0
  /-- regions with a pass under way at the deadline (R380) -/
  passing : List Nat := []
  /-- the regions that R380 names are frozen (R381) -/
  frozen : Bool := false
  /-- a resumption that arrived while it runs (R378) -/
  resumeAfter : Bool := false
  deriving DecidableEq, Repr

/-- What freeze-and-spill saved of a core for a context (R381). -/
structure Frozen where
  ctx : Nat
  regions : List Region
  /-- regions not yet restored, by number -/
  toRestore : List Nat := []
  w : Tbl Dword := []
  a : Tbl Dword := []
  c : Tbl (Word × Bool) := []
  streams : List StreamEntry := []
  ports : Tbl Port := []
  deriving DecidableEq, Repr

end Sys2Proof.Machine
end

