-- ==== Sys2Proof/Machine/FirnTypes.lean ====
section
/-! DEFINITION. The state of the episode engines (chapter 7). The records themselves, with their links and the episode
records, lie in memory (R102, R104). -/

namespace Sys2Proof.Machine

/-- A registered store and its allocation state (R99, R100, R105, R106). -/
structure Store where
  ctx : Nat
  base : Dword
  capacity : Nat
  /-- slots of 2^k bytes -/
  k : Nat
  fmt : BitVec 4
  /-- freed slots, the head first -/
  free : List Nat := []
  /-- the high-water index -/
  high : Nat := 0
  /-- the next episode number -/
  counter : Nat := 1
  /-- the episode record's slot of each live episode number -/
  live : Tbl Nat := []
  /-- the generation of each slot that has left 0 -/
  gens : Tbl (BitVec 16) := []
  deriving DecidableEq, Repr

/-- Where an episode operation answers (R123, R125, R155). -/
inductive Asker where
  /-- a long-latency form: its record, and its destination's tag in space 1 -/
  | long (core : Nat) (sid : Nat) (tag : BitVec 16)
  /-- a posted form: its response tag -/
  | posted (core : Nat) (sid : Nat) (tag : BitVec 16)
  /-- an AGEP element: region and cell -/
  | agep (core : Nat) (region : Nat) (cell : Nat)
  /-- a posted form whose strand has ended: its stream -/
  | nobody (stream : Nat)
  /-- an entry of an episode or grammar task's request list (R358) -/
  | task (task : Nat)
  deriving DecidableEq, Repr

/-- What a request asks of the engines, its operands read at issue (R131 to R142). -/
inductive EpOp where
  | new (store : Dword)
  | append (episode : Dword) (payload : Dword) (salience : Nat)
  | cursor (episode : Dword) (dest : Dword)
  | seek (cursor : Dword) (handle : Dword)
  | config (cursor : Dword) (cfg : Dword) (va : Dword)
  | play (cursor : Dword) (n : Dword)
  | branch (cursor : Dword)
  | copy (cursor : Dword)
  | splice (x : Dword) (y : Dword)
  | calve (a : Dword) (b : Dword)
  | pos (cursor : Dword) (sel : Dword)
  | release (id : Dword) (kind : Dword)
  /-- EREG as a request-list entry, with its descriptor VA (R358) -/
  | register (va : Dword)
  /-- a GRAM form as a request-list entry: function, a, b (R358) -/
  | gram (fn : Nat) (a : Dword) (b : Dword)
  deriving DecidableEq, Repr

/-- A request in issue order (R110, R118, R119). -/
structure EpReq where
  id : Nat
  ctx : Nat
  task : Nat
  /-- the issuing core: the owner of a port target (R136) -/
  core : Nat
  asker : Asker
  op : EpOp
  /-- the payload an AGEP gathered; a strand's append names it by its address (R107, R155) -/
  inline_ : Option (List Byte) := none
  /-- coalescing-buffer entries of its release (R119) -/
  after : List Nat := []
  deriving DecidableEq, Repr

/-- A play in flight (R111, R116). -/
structure Play where
  asker : Asker
  task : Nat
  n : Nat
  count : Nat := 0
  /-- the record the play last examined, or the position it started from -/
  cur : Dword
  /-- the next step examines cur itself -/
  armed : Bool
  /-- the record the play would leave pos on past the end -/
  last : Dword
  /-- at least one step has examined a record -/
  begun : Bool := false
  /-- tns at the first step -/
  t0 : Nat := 0
  /-- tokens of the record in emission, still to be placed -/
  out : List Token := []
  /-- the tokens in emission have been taken from this record, to become pos when the emission ends -/
  emitting : Bool := false
  deriving DecidableEq, Repr

/-- A cursor (R108). -/
structure Cursor where
  ctx : Nat
  pos : Dword
  e : Bool := false
  armed : Bool := false
  dest : Dword
  off : Nat := 0
  cfg : Dword := 0
  /-- the core that owns a port target -/
  owner : Nat := 0
  play : Option Play := none
  deriving DecidableEq, Repr

/-! ### Grammar (R306 to R309) -/

/-- A grammar context (R308). -/
structure Gram where
  ctx : Nat
  image : Dword
  state : Nat
  /-- the top of the stack first -/
  stack : List Nat := []
  position : BitVec 32 := 0
  /-- snapshot handles of the last 8 keyed steps: position and handle, newest first -/
  keyed : List (BitVec 32 × Dword) := []
  broken : Bool := false
  deriving DecidableEq, Repr

/-- A snapshot (R309). -/
structure Snap where
  ctx : Nat
  image : Dword
  state : Nat
  stack : List Nat
  position : BitVec 32
  deriving DecidableEq, Repr

/-- A grammar mask on its way to a port (R311): who is answered when its last token is placed. -/
structure MaskJob where
  asker : Asker
  core : Nat
  ctx : Nat
  task : Nat
  allowed : Nat
  deriving DecidableEq, Repr

end Sys2Proof.Machine
end

