-- ==== Sys2Proof/Machine/GenTypes.lean ====
section
/-! DEFINITION. The state of the generation boundary (chapter 15): iterations, sampler slots, the hold queue, the feeds
of input ports by units beside the fabric. -/

namespace Sys2Proof.Machine

/-- A logit row in the sampler (R290, R293). -/
structure GenRow where
  entry : Nat
  index : Nat
  count : Nat
  draft : Option Nat
  /-- the policy tag of the header token -/
  pol : Nat
  /-- logits as F32 bits; none for an out lane -/
  z : List (Option (BitVec 32))
  deriving DecidableEq, Repr

/-- How a row of a sequence came out: a token, a void with its status, or discarded (R290 to R296). -/
inductive RowOutcome where
  | token (t : Nat)
  | void (status : Nat)
  | discarded
  deriving DecidableEq, Repr

/-- A row received for a sequence: the index it counts as, its draft, and its outcome once it has one. -/
structure RowEntry where
  index : Nat
  draft : Option Nat
  outcome : Option RowOutcome
  deriving DecidableEq, Repr

/-- A decided commit entry (R298). -/
structure Decision where
  x : Bool
  f : Bool
  status : Nat
  tokens : List Nat
  deriving DecidableEq, Repr

/-- What the boundary keeps for a sequence of the iteration. -/
structure SeqState where
  /-- the table entry's doublewords when the iteration began; none where they could not be read (R305) -/
  words : Option (List Dword)
  /-- c, once a row has given it (R290) -/
  rows : Option Nat := none
  got : List RowEntry := []
  decision : Option Decision := none
  deriving DecidableEq, Repr

/-- A sampler slot's row in its kernel (R295). -/
structure KernelRun where
  row : GenRow
  /-- core cycles at which the budget ends; none until the first token is sent -/
  ends : Option Nat := none
  back : List Token := []
  deriving DecidableEq, Repr

/-- A sampler slot (R292). -/
structure SampSlot where
  /-- rows routed and not yet sampled, oldest first -/
  queue : List GenRow := []
  kernel : Option KernelRun := none
  /-- after a void: tokens of the kernel are dropped up to its next last mark (R295) -/
  dropping : Bool := false
  deriving DecidableEq, Repr

/-- How far an iteration has come (R289, R301, R421). -/
inductive IterPhase where
  /-- behind an earlier ITER, or behind the drain of its issue -/
  | waiting
  | rows
  /-- every sequence is decided and the record is written: its header reads 1 -/
  | decided
  deriving DecidableEq, Repr

/-- How far the commit unit has come with an iteration's effects (R299): the entry, the token, the effect, the snapshot handle
of the token's grammar step, and what the status word gathers (R300). -/
structure CommitAt where
  entry : Nat := 0
  token : Nat := 0
  effect : Nat := 0
  handle : Dword := 0xFFFF_FFFF_FFFF_FFFF
  status : Nat := 0
  tokens : Nat := 0
  faulted : Nat := 0
  committed : Nat := 0
  deriving DecidableEq, Repr

/-- An iteration (R289). -/
structure Iter where
  sid : Nat
  tag : BitVec 16
  ctx : Nat
  task : Nat
  desc : Dword
  n : Nat
  rowPort : Nat
  startPort : Nat
  table : Dword
  area : Dword
  iteration : Dword
  /-- the eight policy records, doublewords 0 to 7 each -/
  policies : List (List Dword)
  map : Dword
  phase : IterPhase := .waiting
  /-- the first row has reached the router (R301) -/
  entered : Bool := false
  seqs : List SeqState := []
  /-- the router's row in part: tokens taken, header first -/
  part : List Token := []
  slots : List SampSlot := List.replicate 8 {}
  /-- a dropped row was seen (R290) -/
  droppedRow : Bool := false
  /-- its rows have ended (R421) -/
  ended : Bool := false
  /-- coalescing-buffer entries that its issue released (R301, R304) -/
  after : List Nat := []
  commit : CommitAt := {}
  deriving DecidableEq, Repr

/-- Tokens that a unit beside the fabric has for an input port of a core (R239). -/
inductive FeedFor where
  | mask (job : MaskJob)
  | start
  | kernel (slot : Nat)
  deriving DecidableEq, Repr

structure PortFeed where
  id : Nat
  port : Nat
  ctx : Nat
  task : Nat
  for_ : FeedFor
  tokens : List Token
  deriving DecidableEq, Repr

/-- A hold-queue entry (R302). -/
structure HoldEntry where
  domain : Nat
  seq : Nat
  position : Nat
  token : Nat
  released : Bool := false
  deriving DecidableEq, Repr

/-- A hold domain (R302): producing and checking context, and the host ring. -/
structure HoldDomain where
  producer : Nat := 0
  checker : Nat := 0
  configured : Bool := false
  ring : Ring := {}
  deriving DecidableEq, Repr

end Sys2Proof.Machine
end

