-- ==== Sys2Proof/Machine/RimeTypes.lean ====
section
/-! DEFINITION. The state of the Rime cores (chapter 6) and of host, links and bring-up (chapter 26). -/

namespace Sys2Proof.Machine

/-- A handler table entry, its four doublewords (R89). -/
abbrev HandlerEntry := Vector Dword 4

/-- Event kinds (R91). -/
inductive EvKind where
  | miss
  | fill
  | evict
  | message
  deriving DecidableEq, Repr

def EvKind.code : EvKind → Nat
  | .miss => 1
  | .fill => 2
  | .evict => 3
  | .message => 4

/-- A queued event (R90, R91). -/
structure RimeEvent where
  kind : EvKind
  entry : Nat
  ctx : Nat
  depth : Nat := 0
  /-- the event line's number and VA; a forward names no line -/
  line : Option Nat := none
  va : Dword := 0
  mask : LineMask := 0
  /-- source slice and handler index of a forward -/
  src : Option (Nat × Nat) := none
  /-- EVENT LINE as the event loads it -/
  data : Line := 0
  /-- payload of a forward -/
  msg : BitVec 512 := 0
  /-- an evicted line's dirty state -/
  dirty : Bool := false
  deriving DecidableEq, Repr

/-- A window operation that a handler's store has asked for (R93, R95). -/
inductive WindowOp where
  | done (action : Nat)
  | prefetch (va : Dword)
  | lnRead
  | lnWrite
  | forward (cmd : Dword)
  deriving DecidableEq, Repr

/-- A running handler (R88, R93, R94). -/
structure Handler where
  ev : RimeEvent
  pc : Dword
  regs : Vector Dword 32
  budget : Nat
  eventLine : Line
  workLine : Line
  lnVa : Dword := 0
  lnMask : LineMask := 0
  lnStat : Nat := 0
  fwData : BitVec 512 := 0
  fwStat : Nat := 0
  pfQueued : Nat := 0
  pfDropped : Nat := 0
  op : Option WindowOp := none
  /-- LR's reservation: the line (R96) -/
  reserved : Option Nat := none
  /-- bytes of the event line that a write has taken since the handler began: EVENT LINE is installed beneath them (R78) -/
  late : LineMask := 0
  deriving DecidableEq, Repr

/-- A prefetch queued by a handler (R95). -/
structure RimePf where
  ctx : Nat
  va : Dword
  /-- depth of the fill event it will raise; 16 raises none (R90) -/
  depth : Nat
  /-- the handler that queued it, by its number at this core (R95) -/
  by_ : Nat
  deriving DecidableEq, Repr

/-- Drops of an entry since its last drop record (R97). -/
structure DropFold where
  entry : Nat
  at_ : Nat
  count : Nat
  deriving DecidableEq, Repr

/-- A slice's Rime core (R88 to R95). -/
structure Rime where
  table : Tbl HandlerEntry := []
  bound : List RimeEvent := []
  free : List RimeEvent := []
  running : Option Handler := none
  /-- MODEL'S OWN. Handlers started so far: the running one's number -/
  started : Nat := 0
  pf : List RimePf := []
  /-- the instruction cache's lines (R88) -/
  icache : List ICLine := []
  drops : List DropFold := []
  /-- victims held in the eviction buffer: line, dirty -/
  evicting : List (Nat × Bool) := []
  deriving DecidableEq, Repr

/-! ### Host, link and bring-up -/

/-- Boot states (R416). -/
inductive BootState where
  | awaiting
  | verifying
  | running
  | refused
  deriving DecidableEq, Repr

def BootState.code : BootState → Nat
  | .awaiting => 0
  | .verifying => 1
  | .running => 2
  | .refused => 3

/-- The attestation report (R417). -/
structure Report where
  deviceId : BitVec 256
  bodyDigest : BitVec 256
  nonce : BitVec 256
  straps : Dword
  signature : BitVec 3072
  deriving DecidableEq, Repr

/-- A Yelou Link port (R414). -/
structure LinkPort where
  enabled : Bool := false
  up : Bool := false
  /-- the next sequence number the receiver expects -/
  expect : BitVec 16 := 0
  /-- the oldest sequence number sent and not acknowledged -/
  oldest : BitVec 16 := 0
  /-- replays of that flit that have been asked for in a row -/
  replays : Nat := 0
  /-- payloads delivered and not yet taken, newest last -/
  inbox : List (BitVec 4 × BitVec 4 × BitVec 1952) := []
  /-- NAKs sent: the sequences named -/
  naks : List (BitVec 16) := []
  deriving DecidableEq, Repr

/-- A collective group (R415). -/
structure Group where
  members : Nat := 0
  rank : Nat := 0
  ports : Nat := 0
  /-- collectives this package has joined -/
  joined : Nat := 0
  deriving DecidableEq, Repr

end Sys2Proof.Machine
end

