-- ==== Sys2Proof/Machine/CoreTypes.lean ====
section
/-! DEFINITION. A core (chapters 9, 10, 12, 14 to 16, 18, 19), and the package's parts that State gathers: the slices, the
translation, the scheduler, the episode engines, the grammar units and hold queue, the host's side. -/

namespace Sys2Proof.Machine

/-- Memory: address and byte pairs, addresses strictly rising, no byte 0 listed; an unlisted address reads as 0. It covers
the main memory and the host window of R73. -/
abbrev Memory := List Host.Cell

/-- A core. -/
structure CoreState where
  /-- control cycles (R21) -/
  cyc : Nat := 0
  l1 : List L1Line := []
  icache : List ICLine := []
  /-- coalescing buffer, oldest entry first, and the next entry's number (R181) -/
  cb : List CbEntry := []
  nextCb : Nat := 0
  tlb : List TlbEntry := []
  lineReqs : List LineReq := []
  pfWaits : List PfWait := []
  /-- the counter of suspension tags (R321) -/
  suspCtr : BitVec 16 := 0
  /-- order of readiness of the core's records (R322) -/
  readyNo : Nat := 0
  /-- regions by number (R224) -/
  regions : Tbl Region := []
  /-- configurations ready for the arbiter (R369) -/
  ready : List ReadyConfig := []
  readyCfgNo : Nat := 0
  /-- W and A by doubleword, C by word with its validity bit (R189, R276); unlisted: 0, and +0 valid -/
  w : Tbl Dword := []
  a : Tbl Dword := []
  c : Tbl (Word × Bool) := []
  streams : List StreamEntry := []
  /-- the context whose configuration was loaded last, for which the typed buffers stand (R192) -/
  bufCtx : Option Nat := none
  ports : Tbl Port := []
  feeds : List PortFeed := []
  nextFeed : Nat := 0
  /-- iterations, the running one first (R289) -/
  iters : List Iter := []
  droppedRows : Nat := 0
  /-- state-slot count S (R190) -/
  stateSlots : Nat := 0
  /-- bypass bound as written (R371) -/
  bypass : Nat := 16
  /-- freeze threshold in µs (R380) -/
  freezeUs : Nat := 5
  preemption : Option Preemption := none
  /-- contexts pre-empted from this core -/
  out : List Nat := []
  frozen : List Frozen := []
  deriving DecidableEq, Repr

/-- The slices (R75 to R87, R201 to R206). -/
structure SliceState where
  lines : List SliceLine := []
  poison : List Nat := []
  fills : List Fill := []
  reqs : List SliceReq := []
  /-- STVs on their way or held, in order of arrival -/
  stvs : List StvReq := []
  ldvs : List LdvReq := []
  rclms : List RclmReq := []
  nextId : Nat := 0
  deriving DecidableEq, Repr

/-- Translation at the dies (R386, R387). -/
structure TransState where
  dieTlb : Tbl (List TlbEntry) := []
  /-- misses and walks, oldest first -/
  walks : List Walk := []
  nextWalk : Nat := 0
  shootdown : Option Shootdown := none
  deriving DecidableEq, Repr

/-- Tasks, ready queues, kick slots (chapter 18). -/
structure SchedState where
  tasks : Tbl Task := []
  nextTask : Nat := 0
  /-- by queue number (queueNo) -/
  queues : Tbl (List Queued) := []
  /-- ageing intervals in µs, by queue number -/
  ageing : Tbl Nat := []
  slots : Tbl KickSlot := []
  /-- by stream -/
  barcs : Tbl BarcState := []
  dueNo : Nat := 0
  deriving DecidableEq, Repr

/-- The episode engines (chapter 7). -/
structure FirnState where
  stores : Tbl Store := []
  cursors : Tbl Cursor := []
  reqs : List EpReq := []
  nextId : Nat := 0
  deriving DecidableEq, Repr

/-- Grammar units and the hold queue (chapter 15). -/
structure GenState where
  grams : Tbl Gram := []
  snaps : Tbl Snap := []
  /-- generations of snapshots that have left 0 -/
  snapGens : Tbl Nat := []
  hold : List HoldEntry := []
  /-- (domain, sequence, next position accepted) -/
  holdNext : List (Nat × Nat × Nat) := []
  domains : Tbl HoldDomain := []
  deriving DecidableEq, Repr

/-- Host, firmware, links and power (chapter 26). -/
structure HostState where
  powered : Bool := true
  boot : BootState := .awaiting
  bootCode : Nat := 0
  fwAddr : Dword := 0
  fwLen : Dword := 0
  /-- digest of the verified firmware body (R417) -/
  fwDigest : BitVec 256 := 0
  /-- a nonce whose report is not yet written -/
  nonce : Option (BitVec 256) := none
  attDone : Bool := false
  report : Option Report := none
  /-- MPART as written, and whether it has been (R74) -/
  mpart : Nat := 0
  mpartSet : Bool := false
  bar4Base : Dword := 0
  atomicOps : Bool := false
  powerCap : Dword := 0
  throttled : Bool := false
  /-- latched cause of a power cut (R419) -/
  cause : Option ThermalCause := none
  /-- MSI-X vectors raised, newest first -/
  msix : List Nat := []
  /-- reports to the host that carry no vector of a context: 1 port down (R414), 2 channel failure (R390), newest first -/
  reports : List (Nat × Nat) := []
  /-- completions of host reads: offset, and the bytes or none for Unsupported Request, newest first -/
  reads : List (Nat × Option (List Byte)) := []
  /-- host reads that wait for a line held by a Rime event: offset, size -/
  waiting : List (Nat × Nat) := []
  links : Tbl LinkPort := []
  groups : Tbl Group := []
  /-- corrected errors by die and structure (Dependability, before R388); no step of the table counts one -/
  corrected : Tbl Nat := []
  deriving DecidableEq, Repr

end Sys2Proof.Machine
end

