-- ==== Sys2Proof/Machine/State.lean ====
section
/-! DEFINITION. The machine's state, the reasons it can stop, and the state after reset. -/

namespace Sys2Proof.Machine

/-- Who takes the step: a strand by its key, an element or router of a cell, a stream command, or the part itself. -/
inductive Actor where
  | strand (key : Nat)
  | unit (core : Nat) (region : Nat) (cell : Nat) (router : Bool)
  | command (uid : Nat)
  | part
  deriving DecidableEq, Repr

/-- A turn of the schedule: an agent fetches and takes its next step, or one of the part's or the host's own steps. -/
inductive Turn where
  | strand (key : Nat)
  | unit (core : Nat) (region : Nat) (cell : Nat) (router : Bool)
  | command (uid : Nat)
  | event (i : Instr)
  deriving DecidableEq, Repr

/-- The machine. -/
structure State where
  /-- who takes the step now -/
  actor : Actor
  /-- the schedule: turns to be taken next, the host's inputs among them; the arbiter chooses when it is empty -/
  agenda : List Turn
  /-- MODEL'S OWN. Steps taken, and free values drawn: what the constants of Config are applied to -/
  tick : Nat
  fresh : Nat
  /-- the package's time base in ns (R21) -/
  tns : Nat
  mem : Memory
  slice : SliceState
  cores : Tbl CoreState
  ctxs : Tbl Ctx
  /-- strands and their records, by core × 65,536 + strand id (R314, R318) -/
  strands : Tbl Strand
  records : Tbl Record
  completions : List Completion
  trans : TransState
  sched : SchedState
  cmds : List Command
  nextUid : Nat
  firn : FirnState
  gen : GenState
  rimes : Tbl Rime
  host : HostState
  deriving DecidableEq, Repr

/-- Why a step stops the machine. -/
inductive Fault where
  /-- Raised by step when power has been removed (R419) and the next turn is not POWER_UP. Safe: nothing of the part runs
  without power, and the hardware takes no step either. -/
  | noPower
  deriving DecidableEq, Repr

/-- Why an instruction has no meaning in this model. -/
inductive Refusal where
  /-- Raised by exec's arm of an instruction that has no meaning yet, with its mnemonic. Safe: nothing is claimed of it. -/
  | notModelled (mnemonic : String)
  deriving DecidableEq, Repr

/-- The machine right after power-up (R11, R416): cores held in reset, BOOT in state 0, every table empty, memory unlisted. -/
def State.reset : State where
  actor := .part
  agenda := []
  tick := 0
  fresh := 0
  tns := 0
  mem := []
  slice := {}
  cores := []
  ctxs := []
  strands := []
  records := []
  completions := []
  trans := {}
  sched := {}
  cmds := []
  nextUid := 0
  firn := {}
  gen := {}
  rimes := []
  host := {}

end Sys2Proof.Machine
end

