-- ==== Sys2Proof/Machine/Mem.lean ====
section
/-! DEFINITION. Memory by bytes (R2, R73), the physical map and home slices (R73 to R75), and free values. -/

namespace Sys2Proof.Machine

/-- The byte at a physical address; an unlisted address reads as 0. -/
def Memory.read : Memory → Nat → Byte
  | [], _ => 0
  | (k, v) :: t, a => if k = a then v else Memory.read t a

/-- One byte written, in the canonical form: rising addresses, no byte 0 listed. -/
def Memory.write : Memory → Nat → Byte → Memory
  | [], a, v => if v = 0 then [] else [(a, v)]
  | (k, w) :: t, a, v =>
    if a < k then (if v = 0 then (k, w) :: t else (a, v) :: (k, w) :: t)
    else if a = k then (if v = 0 then t else (a, v) :: t)
    else (k, w) :: Memory.write t a v

/-- Every address of the list is above a, addresses rise strictly, and no byte is 0. -/
def Memory.wfAbove : Memory → Nat → Bool
  | [], _ => true
  | (k, v) :: t, a => decide (a < k) && decide (v ≠ 0) && Memory.wfAbove t k

/-- The canonical form. -/
def Memory.wf : Memory → Bool
  | [] => true
  | (k, v) :: t => decide (v ≠ 0) && Memory.wfAbove t k

/-- n bytes from a. -/
def Memory.bytes (m : Memory) : Nat → Nat → List Byte
  | _, 0 => []
  | a, n + 1 => m.read a :: Memory.bytes m (a + 1) n

/-- The little-endian value of n bytes from a (R2). -/
def Memory.readN (m : Memory) : Nat → Nat → Nat
  | _, 0 => 0
  | a, n + 1 => (m.read a).toNat + 256 * Memory.readN m (a + 1) n

/-- Bytes written from a. -/
def Memory.writeBytes (m : Memory) : Nat → List Byte → Memory
  | _, [] => m
  | a, b :: bs => Memory.writeBytes (m.write a b) (a + 1) bs

/-- n bytes of a value written little-endian from a (R2). -/
def Memory.writeN (m : Memory) (a n v : Nat) : Memory := m.writeBytes a (leBytes n v)

/-- A doubleword. -/
def Memory.dword (m : Memory) (a : Nat) : Dword := dw (m.readN a 8)

/-- The 128 bytes of a line by its number. -/
def Memory.line (m : Memory) (l : Nat) : Line := BitVec.ofNat 1024 (m.readN (128 * l) 128)

/-- Bytes j and up to 127 of line l under a mask, n of them. -/
def Memory.writeMasked (m : Memory) (l : Nat) (data : Line) (mask : LineMask) : Nat → Memory
  | 0 => m
  | n + 1 =>
    let m' := Memory.writeMasked m l data mask n
    if mask.getLsbD n then m'.write (128 * l + n) (BitVec.ofNat 8 (lineGet data n 1)) else m'

/-! ### The physical map -/

/-- 1,536 GiB. -/
def mainTop : Nat := 0x180_0000_0000

/-- Base of the host window. -/
def hostBase : Nat := 0x8_0000_0000_0000

/-- Whether a physical address is main memory (R73). -/
def isMain (pa : Nat) : Bool := pa < mainTop

/-- Whether a physical address lies in the host window (R73). -/
def isHost (pa : Nat) : Bool := hostBase ≤ pa && pa < 2 ^ 52

/-- The die-local size per die, L, for MPART's n (R74). -/
def localSize (n : Nat) : Nat := 3 * min n 256 * 2 ^ 30

/-- The global range's size, G (R74). -/
def globalSize (n : Nat) : Nat := mainTop - 2 * localSize n

/-- Home slice, set and tag of a main-memory address (R75). -/
def home (n pa : Nat) : Nat × Nat × Nat :=
  let g := globalSize n
  let l := localSize n
  let q := g / 4096 / 192
  let si : Nat × Nat :=
    if pa < g then (pa / 4096 % 192, pa / 4096 / 192)
    else
      let d := if pa < g + l then 0 else 1
      let v := (pa - g - d * l) / 4096
      (96 * d + v % 96, q + v / 96)
  let line := si.2 * 32 + pa / 128 % 32
  (si.1, line % 4096, line / 4096)

/-- Whether a frame of size sz lies wholly in the range its DL attribute declares (R76). -/
def frameFits (n pa sz : Nat) (dl : Bool) : Bool :=
  let g := globalSize n
  let l := localSize n
  if isHost pa then !dl
  else if dl then (decide (g ≤ pa) && decide (pa + sz ≤ g + l)) || (decide (g + l ≤ pa) && decide (pa + sz ≤ mainTop))
  else decide (pa + sz ≤ g)

/-! ### State and memory -/

/-- The state with its memory changed. -/
def State.setMem (s : State) (m : Memory) : State := { s with mem := m }

/-- A free value, and the state that will draw another next time. -/
def State.draw (s : State) : Dword × State := (Config.freeWord s.fresh, { s with fresh := s.fresh + 1 })

/-- A free choice among n alternatives. -/
def State.choose (s : State) (n : Nat) : Nat × State := (Config.pick s.fresh % n, { s with fresh := s.fresh + 1 })

/-- Whether a line is poisoned (R80). -/
def State.linePoisoned (s : State) (l : Nat) : Bool := s.slice.poison.contains l

/-- Whether any of n bytes from pa lies in a poisoned line (R80). -/
def State.poisoned (s : State) (pa n : Nat) : Bool :=
  if n = 0 then false
  else s.slice.poison.any fun l => decide (pa / 128 ≤ l) && decide (l ≤ (pa + n - 1) / 128)

/-- The slices with one line no longer poisoned. -/
def SliceState.unpoison (x : SliceState) (keep : Nat → Bool) : SliceState :=
  { x with poison := x.poison.filter keep }

/-- A handler that sees bytes of a line written: it loses its reservation there (R96), and where the line is its event's the
bytes come after EVENT LINE (R78). -/
def Handler.written (h : Handler) (hit : Nat → LineMask) : Handler :=
  { h with
    reserved := match h.reserved with
      | some l => if hit l = 0 then some l else none
      | none => none
    late := match h.ev.line with
      | some l => h.late ||| hit l
      | none => h.late }

/-- Rime cores told of bytes written, by line. -/
def rimesWritten (hit : Nat → LineMask) (rs : Tbl Rime) : Tbl Rime :=
  rs.map fun (x : Nat × Rime) => (x.1, { x.2 with running := x.2.running.map fun (h : Handler) => h.written hit })

/-- The bytes of a line among n from pa. -/
def bytesIn (pa n line : Nat) : LineMask :=
  let lo := Nat.max pa (128 * line)
  let hi := Nat.min (pa + n) (128 * line + 128)
  if lo < hi then byteMask (lo - 128 * line) (hi - lo) else 0

/-- Bytes written at a physical address by an agent of the memory side; a line wholly covered loses its poison (R80). -/
def State.store (s : State) (pa : Nat) (bs : List Byte) : State :=
  { s with
    mem := s.mem.writeBytes pa bs
    rimes := rimesWritten (bytesIn pa bs.length) s.rimes
    slice := s.slice.unpoison fun l => decide (128 * l < pa) || decide (pa + bs.length < 128 * l + 128) }

/-- A masked line write at its home slice (R182). -/
def State.storeLine (s : State) (l : Nat) (data : Line) (mask : LineMask) : State :=
  { s with
    mem := s.mem.writeMasked l data mask 128
    rimes := rimesWritten (fun k => if k = l then mask else 0) s.rimes
    slice := if mask = BitVec.allOnes 128 then s.slice.unpoison (· != l) else s.slice }

end Sys2Proof.Machine
end

