-- ==== Sys2Proof/Machine/Access.lean ====
section
/-! DEFINITION. Access to the parts of the state, translation (R383 to R386), engine accesses (R130, R143), rings and
context events (R97, R374, R375). -/

namespace Sys2Proof.Machine

/-- The key of a strand: its core and strand id. -/
def keyOf (core sid : Nat) : Nat := core * 65536 + sid

def State.core (s : State) (c : Nat) : CoreState := s.cores.getD c {}

def State.setCore (s : State) (c : Nat) (x : CoreState) : State := { s with cores := s.cores.set c x }

def State.modCore (s : State) (c : Nat) (f : CoreState → CoreState) : State := s.setCore c (f (s.core c))

def State.ctx (s : State) (c : Nat) : Ctx := s.ctxs.getD c {}

def State.setCtx (s : State) (c : Nat) (x : Ctx) : State := { s with ctxs := s.ctxs.set c x }

def State.modCtx (s : State) (c : Nat) (f : Ctx → Ctx) : State := s.setCtx c (f (s.ctx c))

def State.strand (s : State) (k : Nat) : Strand := s.strands.getD k {}

def State.setStrand (s : State) (k : Nat) (x : Strand) : State := { s with strands := s.strands.set k x }

def State.setRecord (s : State) (k : Nat) (r : Record) : State := { s with records := s.records.set k r }

def State.setSlice (s : State) (x : SliceState) : State := { s with slice := x }

def State.setSched (s : State) (x : SchedState) : State := { s with sched := x }

def State.setHost (s : State) (x : HostState) : State := { s with host := x }

def State.setFirn (s : State) (x : FirnState) : State := { s with firn := x }

def State.setGen (s : State) (x : GenState) : State := { s with gen := x }

def State.setTrans (s : State) (x : TransState) : State := { s with trans := x }

def State.rime (s : State) (sl : Nat) : Rime := s.rimes.getD sl {}

def State.setRime (s : State) (sl : Nat) (x : Rime) : State := { s with rimes := s.rimes.set sl x }

def State.modRime (s : State) (sl : Nat) (f : Rime → Rime) : State := s.setRime sl (f (s.rime sl))

def State.task (s : State) (t : Nat) : Option Task := s.sched.tasks.get? t

def State.setTask (s : State) (t : Nat) (x : Task) : State :=
  s.setSched { s.sched with tasks := s.sched.tasks.set t x }

def State.modTask (s : State) (t : Nat) (f : Task → Task) : State :=
  s.setSched { s.sched with tasks := s.sched.tasks.modify t f }

def State.kickSlot (s : State) (n : Nat) : KickSlot := s.sched.slots.getD n {}

def State.setKickSlot (s : State) (n : Nat) (x : KickSlot) : State :=
  s.setSched { s.sched with slots := s.sched.slots.set n x }

/-- Whether a context has been pre-empted from a core: out, or past its deadline (R380, R382). -/
def CoreState.stopped (c : CoreState) (ctx : Nat) : Bool :=
  c.out.contains ctx || (match c.preemption with
    | some p => p.ctx = ctx && p.yielded
    | none => false)

def State.stopped (s : State) (core ctx : Nat) : Bool := (s.core core).stopped ctx

/-- The strand that takes the step. -/
def State.meKey (s : State) : Nat :=
  match s.actor with
  | .strand k => k
  | _ => 0

def State.me (s : State) : Strand := s.strand s.meKey

def State.putMe (s : State) (st : Strand) : State := s.setStrand s.meKey st

/-- The die of a core (R19). -/
def dieOf (core : Nat) : Nat := core / 48

/-- The number of a ready queue. -/
def queueNo : QueueId → Nat
  | .strand c => c
  | .fabric c => 96 + c
  | .copy d => 192 + d
  | .episode d => 194 + d
  | .grammar d => 196 + d

/-! ### Translation -/

/-- Whether a leaf grants an access (R385). -/
def granted (pte : Dword) : Access → Bool
  | .read => pte.getLsbD 2
  | .write => pte.getLsbD 3
  | .exec => pte.getLsbD 4
  | .atomic => pte.getLsbD 2 && pte.getLsbD 3

/-- Whether a valid entry at a level is malformed (R384). -/
def pteMalformed (lev : Nat) (e : Nat) : Bool :=
  let leaf := bitN e 1 = 1
  let s := 10 * lev + 6
  field e 63 52 ≠ 0 || field e 12 6 ≠ 0
    || (leaf && decide (lev = 4)) || (!leaf && decide (lev = 1))
    || (!leaf && decide (field e 5 2 ≠ 0))
    || (leaf && decide (field e 51 13 % 2 ^ (s - 13) ≠ 0))

/-- The walk of R385 below a level: the page-offset bits and the leaf, or the code of the fault. -/
def State.walkFrom (s : State) (va : Nat) : Nat → Nat → Except Nat (Nat × Dword)
  | 0, _ => .error 0x03
  | l + 1, a =>
    let pa := a + 8 * field va (10 * (l + 1) + 15) (10 * (l + 1) + 6)
    let e := (s.mem.dword pa).toNat
    if s.linePoisoned (pa / 128) then .error 0x07
    else if bitN e 0 = 0 then .error 0x03
    else if pteMalformed (l + 1) e then .error 0x04
    else if bitN e 1 = 1 then .ok (10 * (l + 1) + 6, dw e)
    else s.walkFrom va l (field e 51 13 * 2 ^ 13)

/-- The physical address a cached leaf gives (R385). -/
def TlbEntry.phys (e : TlbEntry) (va : Nat) : Nat := field e.pte.toNat 51 e.bits * 2 ^ e.bits + va % 2 ^ e.bits

def TlbEntry.covers (e : TlbEntry) (ctx va : Nat) : Bool := e.ctx = ctx && e.page = va / 2 ^ e.bits

/-- The walk of a context's VA, R73 and R76 weighed on the frame: a leaf that may be cached, or the fault's code. -/
def State.walkVa (s : State) (ctx va : Nat) : Except Nat TlbEntry :=
  if 2 ^ 56 ≤ va then .error 0x04
  else
    match s.walkFrom va 4 (s.ctx ctx).root.toNat with
    | .error c => .error c
    | .ok (bits, e) =>
      let t : TlbEntry := ⟨ctx, bits, va / 2 ^ bits, e⟩
      let frame := field e.toNat 51 bits * 2 ^ bits
      if (isMain frame || isHost frame) && frameFits s.host.mpart frame (2 ^ bits) (e.getLsbD 5) then .ok t
      else .error 0x04

/-- What a translation comes to. -/
inductive Xlat where
  | hit (pa : Nat)
  | miss
  | fault (code : Nat)
  deriving DecidableEq, Repr

/-- The cached leaf of a VA at a core: its own TLB, then its die's (R386). -/
def State.tlbFind (s : State) (core ctx va : Nat) : Option TlbEntry :=
  match (s.core core).tlb.find? (·.covers ctx va) with
  | some e => some e
  | none => (s.trans.dieTlb.getD (dieOf core) []).find? (·.covers ctx va)

/-- Translation for a strand (R47, R386): a hit, a miss, or a fault; a refusal its own walk ended in faults when the
instruction is tried again. -/
def State.xlat (s : State) (st : Strand) (va : Dword) (acc : Access) : Xlat :=
  if 2 ^ 56 ≤ va.toNat then .fault 0x04
  else
    match s.tlbFind st.core st.ctx va.toNat with
    | some e => if granted e.pte acc then .hit (e.phys va.toNat) else .fault 0x04
    | none =>
      match st.walkFault with
      | some f => if f.va = va && f.acc = acc then .fault f.code else .miss
      | none => .miss

/-- Translation for an engine, walked in the step (R130, R143): the PA, or the code 0x03, 0x04 or 0x07. -/
def State.engineXlat (s : State) (ctx : Nat) (va : Nat) (acc : Access) : Except Nat Nat :=
  match s.walkVa ctx va with
  | .error c => .error c
  | .ok e => if granted e.pte acc then .ok (e.phys va) else .error 0x04

/-- A range of VAs cut at lines: (VA, bytes). -/
def lineCuts : Nat → Nat → Nat → List (Nat × Nat)
  | 0, _, _ => []
  | f + 1, va, n =>
    if n = 0 then []
    else
      let k := min n (128 - va % 128)
      (va, k) :: lineCuts f (va + k) (n - k)

/-- The pieces of a range, translated: (VA, PA, bytes), or the code and the first VA refused. -/
def State.enginePieces (s : State) (ctx : Nat) (acc : Access) : List (Nat × Nat) → Except (Nat × Nat) (List (Nat × Nat × Nat))
  | [] => .ok []
  | (va, n) :: t =>
    match s.engineXlat ctx va acc with
    | .error c => .error (c, va)
    | .ok pa =>
      match s.enginePieces ctx acc t with
      | .error e => .error e
      | .ok ps => .ok ((va, pa, n) :: ps)

def State.engineRange (s : State) (ctx va n : Nat) (acc : Access) : Except (Nat × Nat) (List (Nat × Nat × Nat)) :=
  s.enginePieces ctx acc (lineCuts (n / 128 + 2) va n)

/-- Bytes an engine reads, or the code and the first VA that stops it; poison gives 0x07 (R80). -/
def State.engineRead (s : State) (ctx va n : Nat) : Except (Nat × Nat) (List Byte) :=
  match s.engineRange ctx va n .read with
  | .error e => .error e
  | .ok ps =>
    match ps.find? (fun p => s.poisoned p.2.1 p.2.2) with
    | some p => .error (0x07, p.1)
    | none => .ok ((ps.map fun p => s.mem.bytes p.2.1 p.2.2).flatten)

/-- Pieces stored in order. -/
def State.storePieces (s : State) : List (Nat × Nat × Nat) → List Byte → State
  | [], _ => s
  | (_, pa, n) :: t, bs => (s.store pa (bs.take n)).storePieces t (bs.drop n)

/-- Bytes an engine writes, all or none. -/
def State.engineWrite (s : State) (ctx va : Nat) (bs : List Byte) : Except (Nat × Nat) State :=
  match s.engineRange ctx va bs.length .write with
  | .error e => .error e
  | .ok ps => .ok (s.storePieces ps bs)

/-- A doubleword an engine reads. -/
def State.engineDword (s : State) (ctx va : Nat) : Except (Nat × Nat) Dword :=
  match s.engineRead ctx va 8 with
  | .error e => .error e
  | .ok bs => .ok (dw (leNat bs))

/-- Doublewords an engine reads. -/
def State.engineDwords (s : State) (ctx va n : Nat) : Except (Nat × Nat) (List Dword) :=
  match s.engineRead ctx va (8 * n) with
  | .error e => .error e
  | .ok bs => .ok ((List.range n).map fun i => dw (leNat ((bs.drop (8 * i)).take 8)))

def State.engineSetDword (s : State) (ctx va : Nat) (v : Dword) : Except (Nat × Nat) State :=
  s.engineWrite ctx va (leBytes 8 v.toNat)

/-! ### Rings and events -/

/-- An MSI-X vector raised. -/
def State.raiseVector (s : State) (v : Option Nat) : State :=
  match v with
  | none => s
  | some n => s.setHost { s.host with msix := n :: s.host.msix }

/-- A record written to a ring, the counter incremented, the vector raised, in this order (R97). A ring that the context's
tables do not map takes no record. -/
def State.ringWrite (s : State) (ctx : Nat) (r : Ring) (bs : List Byte) : State :=
  match s.engineDword ctx r.counter.toNat with
  | .error _ => s
  | .ok c =>
    match s.engineWrite ctx (r.va.toNat + bs.length * (c.toNat % 2 ^ r.logSize)) bs with
    | .error _ => s
    | .ok s1 =>
      match s1.engineSetDword ctx r.counter.toNat (c + 1) with
      | .error _ => s
      | .ok s2 => s2.raiseVector r.vector

/-- A context event (R374, R375). -/
structure CtxEvent where
  kind : Nat
  core : Nat := 0xFF
  region : Nat := 0xFF
  detail : Nat := 0
  code : Nat := 0
  value : Dword := 0
  /-- kick slot, all ones for a TSK instance or a CFG, and node -/
  slot : Nat := 0x1FFFF
  node : Nat := 0
  deriving DecidableEq, Repr

/-- The 32 bytes of an event record (R374). -/
def CtxEvent.bytes (e : CtxEvent) (repeats tns : Nat) : List Byte :=
  leBytes 8 (e.kind * 2 ^ 40 + e.region * 2 ^ 32 + e.core * 2 ^ 24 + min repeats 255 * 2 ^ 16 + e.detail % 256 * 2 ^ 8
      + e.code % 256)
    ++ leBytes 8 e.value.toNat ++ leBytes 8 (e.slot * 2 ^ 32 + e.node) ++ leBytes 8 tns

/-- Kinds that are folded (R374). -/
def foldedKind (k : Nat) : Bool := k = 1 || k = 2 || k = 3 || k = 8

/-- An event reported to a context, folded within a µs of tns where its kind is (R374). -/
def State.raiseEvent (s : State) (ctx : Nat) (e : CtxEvent) : State :=
  let x := s.ctx ctx
  let same (f : Fold) : Bool := f.kind = e.kind && f.core = e.core && f.region = e.region
  if foldedKind e.kind then
    match x.folds.find? same with
    | some f =>
      if f.at_ = s.tns / 1000 then
        s.setCtx ctx { x with folds := x.folds.map fun g => if same g then { g with repeats := g.repeats + 1 } else g }
      else
        (s.setCtx ctx { x with folds := x.folds.map fun g => if same g then ⟨e.kind, e.core, e.region, s.tns / 1000, 0⟩ else g }).ringWrite
          ctx x.eventRing (e.bytes f.repeats s.tns)
    | none =>
      (s.setCtx ctx { x with folds := ⟨e.kind, e.core, e.region, s.tns / 1000, 0⟩ :: x.folds }).ringWrite ctx x.eventRing
        (e.bytes 0 s.tns)
  else s.ringWrite ctx x.eventRing (e.bytes 0 s.tns)

end Sys2Proof.Machine
end

