-- ==== Sys2Proof/Machine/SliceOps.lean ====
section
/-! DEFINITION. The slice cache's lines: residency, fills, evictions (R77 to R81), and the events of Rime cores with their
default actions and reports (R90 to R92, R97). -/

namespace Sys2Proof.Machine

/-- The home slice of a line (R75). -/
def State.homeOf (s : State) (line : Nat) : Nat := (home s.host.mpart (128 * line)).1

/-- Home slice and set of a line (R75). -/
def State.setOf (s : State) (line : Nat) : Nat × Nat :=
  let h := home s.host.mpart (128 * line)
  (h.1, h.2.1)

/-- Whether a line is resident in its home slice. -/
def State.resident (s : State) (line : Nat) : Bool := s.slice.lines.any (·.line = line)

/-- Whether a line is a victim held in an eviction buffer (R91). -/
def State.evictingLine (s : State) (line : Nat) : Bool := (s.rime (s.homeOf line)).evicting.any (·.1 = line)

def State.filling (s : State) (line : Nat) : Bool := s.slice.fills.any (·.line = line)

/-- Lines that a context has locked (R82). -/
def State.lockCount (s : State) (ctx : Nat) : Nat := (s.slice.lines.filter (·.lockedBy = some ctx)).length

/-- A resident line marked dirty. -/
def State.markDirty (s : State) (line : Nat) : State :=
  s.setSlice { s.slice with lines := s.slice.lines.map fun x => if x.line = line then { x with dirty := true } else x }

/-! ### Events (R90 to R92) -/

/-- The bit of doubleword 3 that enables an event (R89). -/
def EvKind.enableBit : EvKind → Nat
  | .miss => 62
  | .fill => 61
  | .evict => 60
  | .message => 59

/-- Whether a table entry takes an event of a context at a VA (R90). -/
def handlerMatches (h : HandlerEntry) (k : EvKind) (ctx va : Nat) : Bool :=
  let d3 := (h.get 3).toNat
  let base := field (h.get 0).toNat 55 7
  let n := field (h.get 1).toNat 31 0
  bitN d3 63 = 1 && bitN d3 k.enableBit = 1 && field d3 47 36 = ctx && decide (va < 2 ^ 56)
    && decide (base ≤ va / 128) && decide (va / 128 < base + n)

/-- The lowest matching entry of a slice (R90). -/
def State.handlerFor (s : State) (sl : Nat) (k : EvKind) (ctx va : Nat) : Option Nat :=
  let t := (s.rime sl).table
  (List.range 256).find? fun i =>
    match t.get? i with
    | some h => handlerMatches h k ctx va
    | none => false

/-- The report record of an abort or a drop (R97). -/
def State.rimeReport (s : State) (sl : Nat) (ev : RimeEvent) (cause : Nat) (v : Dword) : State :=
  s.ringWrite ev.ctx (s.ctx ev.ctx).reportRing
    (leBytes 8 (sl * 2 ^ 24 + ev.entry * 2 ^ 16 + ev.kind.code * 2 ^ 8 + cause) ++ leBytes 8 ev.va.toNat ++ leBytes 8 v.toNat
      ++ leBytes 8 s.tns)

/-- A drop reported at most once per µs of tns for an entry, the drops in between counted in the next record (R97). -/
def State.reportDrop (s : State) (sl : Nat) (ev : RimeEvent) : State :=
  let r := s.rime sl
  match r.drops.find? (·.entry = ev.entry) with
  | some d =>
    if d.at_ = s.tns / 1000 then
      s.setRime sl { r with drops := r.drops.map fun x => if x.entry = ev.entry then { x with count := x.count + 1 } else x }
    else
      (s.setRime sl
        { r with drops := r.drops.map fun x => if x.entry = ev.entry then ⟨ev.entry, s.tns / 1000, 0⟩ else x }).rimeReport
        sl ev 0x80 (dw (d.count + 1))
  | none => (s.setRime sl { r with drops := ⟨ev.entry, s.tns / 1000, 0⟩ :: r.drops }).rimeReport sl ev 0x80 1

/-- The victim of an eviction leaves the buffer: written back if dirty, dropped if clean (R91). The contents stand in memory. -/
def State.evictDone (s : State) (line : Nat) : State :=
  s.modRime (s.homeOf line) fun r => { r with evicting := r.evicting.filter (·.1 ≠ line) }

/-- An evict event of a victim, queued, or dropped with its default action (R91, R92). -/
def State.evictEvent (s : State) (x : SliceLine) : State :=
  let sl := s.homeOf x.line
  match s.handlerFor sl .evict x.ctx x.va.toNat with
  | none => s
  | some i =>
    let r := s.rime sl
    let ev : RimeEvent := { kind := .evict, entry := i, ctx := x.ctx, line := some x.line, va := x.va, data := s.mem.line x.line, dirty := x.dirty }
    if r.bound.length < 16 then
      s.setRime sl { r with bound := r.bound ++ [ev], evicting := (x.line, x.dirty) :: r.evicting }
    else s.reportDrop sl ev

/-- Room made in a line's set: a victim among the unlocked ways, the choice free (R77, R81). -/
def State.makeRoom (s : State) (line : Nat) : State :=
  let key := s.setOf line
  let ways := s.slice.lines.filter fun x => s.setOf x.line = key
  if ways.length < 16 then s
  else
    let cands := ways.filter (·.lockedBy.isNone)
    let c := s.choose cands.length
    match cands[c.1]? with
    | none => s
    | some v => (c.2.setSlice { c.2.slice with lines := c.2.slice.lines.filter (·.line ≠ v.line) }).evictEvent v

/-- A line installed in its home slice, and its fill ended (R77, R79). -/
def State.installLine (s : State) (line ctx : Nat) (va : Dword) (dirty : Bool) : State :=
  let s1 := s.setSlice { s.slice with fills := s.slice.fills.filter (·.line ≠ line) }
  if s1.resident line then (if dirty then s1.markDirty line else s1)
  else
    let s2 := s1.makeRoom line
    s2.setSlice { s2.slice with lines := { line := line, dirty := dirty, ctx := ctx, va := va } :: s2.slice.lines }

/-- A miss event, queued or dropped (R91, R92). Nothing waits on it. -/
def State.missEvent (s : State) (line ctx : Nat) (va : Dword) : State :=
  let sl := s.homeOf line
  match s.handlerFor sl .miss ctx va.toNat with
  | none => s
  | some i =>
    let r := s.rime sl
    let ev : RimeEvent := { kind := .miss, entry := i, ctx := ctx, line := some line, va := va }
    if r.free.length < 48 then s.setRime sl { r with free := r.free ++ [ev] } else s.reportDrop sl ev

/-- A request for a line that finds it absent starts a fill, unless one is in flight or the line is being evicted
(R79, R91). depth: none for an agent's request, the depth of its fill event for a handler's prefetch (R90). -/
def State.requestLine (s : State) (line ctx : Nat) (va : Dword) : State :=
  if s.resident line || s.filling line || s.evictingLine line then s
  else (s.setSlice { s.slice with fills := s.slice.fills ++ [{ line := line, ctx := ctx, va := va }] }).missEvent line ctx va

/-- Lines requested; whether all are resident. -/
def State.requestLines (s : State) (ctx : Nat) : List (Nat × Nat × Nat) → State
  | [] => s
  | (va, pa, _) :: t =>
    if isMain pa then (s.requestLine (pa / 128) ctx (dw (va / 128 * 128))).requestLines ctx t else s.requestLines ctx t

/-- Whether every piece's line is resident, or not main memory. -/
def State.allResident (s : State) (ps : List (Nat × Nat × Nat)) : Bool :=
  ps.all fun p => !isMain p.2.1 || s.resident (p.2.1 / 128)

/-- A message event for a context's write that has been applied to a line (R91, R92). -/
def State.messageEvent (s : State) (line ctx : Nat) (va : Dword) (mask : LineMask) : State :=
  let sl := s.homeOf line
  match s.handlerFor sl .message ctx va.toNat with
  | none => s
  | some i =>
    let r := s.rime sl
    let ev : RimeEvent := { kind := .message, entry := i, ctx := ctx, line := some line, va := va, mask := mask, data := s.mem.line line }
    if r.free.length < 48 then s.setRime sl { r with free := r.free ++ [ev] } else s.reportDrop sl ev

/-- Message events of an engine's write, piece by piece (R90, R91). -/
def State.messages (s : State) (ctx : Nat) : List (Nat × Nat × Nat) → State
  | [] => s
  | (va, pa, n) :: t =>
    if isMain pa then
      (s.messageEvent (pa / 128) ctx (dw (va / 128 * 128)) (byteMask (pa % 128) n)).messages ctx t
    else s.messages ctx t

/-- Bytes an agent writes at a context's VAs, all or none, with their message events. -/
def State.agentWrite (s : State) (ctx va : Nat) (bs : List Byte) : Except (Nat × Nat) State :=
  match s.engineRange ctx va bs.length .write with
  | .error e => .error e
  | .ok ps => .ok ((s.storePieces ps bs).messages ctx ps)

/-- The default action of an event (R91): a fill installs the fetched line, an eviction ends; the others have none. -/
def State.eventDefault (s : State) (ev : RimeEvent) : State :=
  match ev.kind, ev.line with
  | .fill, some l => s.installLine l ev.ctx ev.va false
  | .evict, some l => s.evictDone l
  | _, _ => s

/-- Default actions of events in order. -/
def State.eventDefaults (s : State) : List RimeEvent → State
  | [] => s
  | ev :: t => (s.eventDefault ev).eventDefaults t

/-- A context's handlers at one slice: entries invalid, the running handler and the queued events ended with their default
actions, no report (R98). -/
def State.killRime (s : State) (ctx sl : Nat) : State :=
  let r := s.rime sl
  let mine (ev : RimeEvent) : Bool := ev.ctx = ctx
  let run : List RimeEvent := match r.running with
    | some h => if mine h.ev then [h.ev] else []
    | none => []
  let evs := run ++ r.bound.filter mine ++ r.free.filter mine
  let r' : Rime :=
    { r with
      table := r.table.map fun p =>
        (p.1, if field (p.2.get 3).toNat 47 36 = ctx then p.2.set 3 (dw (setField (p.2.get 3).toNat 63 63 0)) else p.2)
      running := match r.running with
        | some h => if mine h.ev then none else some h
        | none => none
      bound := r.bound.filter fun ev => !mine ev
      free := r.free.filter fun ev => !mine ev
      pf := r.pf.filter (·.ctx ≠ ctx) }
  (s.setRime sl r').eventDefaults evs

/-- A context's handlers at every slice (R98). -/
def State.killRimes (s : State) (ctx : Nat) : List Nat → State
  | [] => s
  | sl :: t => (s.killRime ctx sl).killRimes ctx t

end Sys2Proof.Machine
end

