-- ==== Sys2Proof/Machine/Strands.lean ====
section
/-! DEFINITION. Strands and their records (R314 to R333): registers, the completion of an instruction, record slots, tags,
deposits, readiness, the end of a strand. -/

namespace Sys2Proof.Machine

/-- g(n), read (R47). -/
def Strand.g (st : Strand) (n : BitVec 5) : Dword := if n = 0 then 0 else st.regs.get n.toFin

/-- g(n), written: discarded for g0, else stored and marked dirty (R47). -/
def Strand.setG (st : Strand) (n : BitVec 5) (v : Dword) : Strand :=
  if n = 0 then st
  else { st with regs := st.regs.set n.toNat v n.isLt, dmask := st.dmask ||| (1 : Word) <<< n.toNat }

/-- The loop step of R326 for an instruction at pc whose NextPC is next. -/
def Strand.loopStep (st : Strand) (pc next : Dword) : Strand :=
  if st.loop.lcnt ≠ 0 ∧ pc = st.loop.lend - 4 then
    { st with
      loop := { st.loop with lcnt := st.loop.lcnt - 1 }
      pc := if st.loop.lcnt = 1 then st.loop.lend else st.loop.lbeg }
  else { st with pc := next }

/-- A scout's budget counts its instructions (R327). -/
def Strand.spend (st : Strand) : Strand := if st.scout then { st with budget := st.budget - 1 } else st

/-- The completion of an instruction that transfers no control: the repetition and loop steps of R326. -/
def Strand.retire (st : Strand) : Strand :=
  let st := { st with walkFault := none }.spend
  if st.loop.rcnt ≠ 0 then
    let st1 := { st with loop := { st.loop with rcnt := st.loop.rcnt - 1 } }
    if st.loop.rcnt = 1 then st1.loopStep st.pc (st.pc + 4) else st1
  else st.loopStep st.pc (st.pc + 4)

/-- The completion of a taken transfer (R342): no loop step inside the body, the loop abandoned outside it. -/
def Strand.jump (st : Strand) (target : Dword) : Strand :=
  let st := { st with walkFault := none }.spend
  if st.loop.lcnt ≠ 0 ∧ ¬(st.loop.lbeg ≤ target ∧ target < st.loop.lend) then
    { st with pc := target, loop := { st.loop with lcnt := 0 } }
  else { st with pc := target }

/-- The root, a FORK child, or a scout: its mstat (R350). -/
def State.mstat (s : State) (st : Strand) : Dword :=
  dw (8 * b2n (s.ctx st.ctx).scoutPriv + 4 * b2n st.ordered + 2 * b2n st.scout + b2n st.sys)

/-! ### Record slots and tags (R321, R323, R324) -/

/-- Who deposits. -/
inductive Depositor where
  | task
  | system
  /-- pre-emption or rotation -/
  | forced
  | scout
  deriving DecidableEq, Repr

def Strand.depositor (st : Strand) : Depositor := if st.scout then .scout else if st.sys then .system else .task

/-- Records of a core in a place. -/
def State.slotsUsed (s : State) (core : Nat) (p : SlotPlace) : Nat :=
  (s.records.filter fun x => x.1 / 65536 = core && x.2.place = p).length

/-- Spilled records of a context. -/
def State.spillUsed (s : State) (ctx : Nat) : Nat := (s.records.filter fun x => x.2.ctx = ctx && x.2.place = .spill).length

/-- The slot a deposit takes, by the order of R323. -/
def State.slotFor (s : State) (core ctx : Nat) (who : Depositor) : Option SlotPlace :=
  let chip := decide (s.slotsUsed core .onChip < 960)
  let resv := decide (s.slotsUsed core .reserved < 64)
  let spill := decide (s.spillUsed ctx < (s.ctx ctx).spillRecords)
  if chip then some .onChip
  else
    match who with
    | .task => if spill then some .spill else none
    | .system => if spill then some .spill else if resv then some .reserved else none
    | .forced => if resv then some .reserved else if spill then some .spill else none
    | .scout => none

/-- The suspension tags that waiting records of a core hold (R321). -/
def State.heldTags (s : State) (core : Nat) : List (BitVec 16) :=
  s.records.filterMap fun x => if x.1 / 65536 = core && x.2.space = 2 && !x.2.ready then some x.2.tag else none

/-- The next tag from a counter that is not held (R321). -/
def freeTag : Nat → BitVec 16 → List (BitVec 16) → Option (BitVec 16)
  | 0, _, _ => none
  | n + 1, t, held => if held.contains t then freeTag n (t + 1) held else some t

def State.nextTag (s : State) (core : Nat) : Option (BitVec 16) :=
  let held := s.heldTags core
  freeTag (min 65536 (held.length + 1)) (s.core core).suspCtr held

/-! ### Records (R318, R319) -/

/-- The dirty registers in ascending number. -/
def Strand.dirtyRegs (st : Strand) : List Dword :=
  (List.range 32).filterMap fun n => if st.dmask.getLsbD n then some (st.g (BitVec.ofNat 5 n)) else none

/-- The loop body length of word 5 (R318). -/
def LoopState.bodyLen (l : LoopState) : Nat := if l.lcnt = 0 then 0 else (l.lend - l.lbeg).toNat / 4 % 4096

/-- The loop state as relaunch reloads it: lend from the body length (R325). -/
def LoopState.reload (l : LoopState) : LoopState := { l with lend := l.lbeg + dw (4 * l.bodyLen) }

/-- Words 0 to 5 and the registers, with ready and CRC as given (R318). -/
def Record.words (r : Record) (ready : Bool) (crc : Nat) : List Dword :=
  [dw (r.sibling.toNat * 2 ^ 32 + r.kind.code * 2 ^ 29 + b2n r.ordered * 2 ^ 28 + r.ctx % 4096 * 2 ^ 16 + r.sid % 65536),
   dw (b2n r.y * 2 ^ 57 + b2n r.sys * 2 ^ 56 + field r.pc.toNat 55 2 * 4),
   dw (r.space * 2 ^ 62 + r.cause.toNat * 2 ^ 54 + b2n ready * 2 ^ 53 + r.dest.toNat * 2 ^ 48 + r.tag.toNat * 2 ^ 32
      + r.dmask.toNat),
   dw (r.loop.rcnt.toNat * 2 ^ 32 + r.loop.lcnt.toNat),
   r.loop.lbeg,
   dw (crc * 2 ^ 32 + r.loop.bodyLen)] ++ r.dirty

/-- The CRC of R319. -/
def Record.crcOf (r : Record) : BitVec 32 := crc32c ((r.words false 0).flatMap fun w => leBytes 8 w.toNat)

/-- The record with its CRC computed. -/
def Record.sealed (r : Record) : Record := { r with crc := r.crcOf }

/-- What a deposit states beside the strand itself. -/
structure Deposit where
  kind : RecKind := .resume
  y : Bool := false
  space : Nat := 0
  tag : BitVec 16 := 0
  dest : BitVec 5 := 0
  wait : WaitFor := .completion
  act : OnResume := .nothing
  ownPc : Dword := 0
  retry : Bool := false
  place : SlotPlace := .onChip
  deriving DecidableEq, Repr

/-- The next number of readiness of a core (R322). -/
def State.bumpReady (s : State) (core : Nat) : State := s.modCore core fun c => { c with readyNo := c.readyNo + 1 }

/-- A record as a deposit writes it. -/
def State.recordOf (s : State) (st : Strand) (d : Deposit) : Record :=
  { kind := d.kind, sid := st.sid, ctx := st.ctx, sibling := st.sibling, ordered := st.ordered, y := d.y, sys := st.sys
    pc := st.pc, space := d.space, tag := d.tag, cause := 0, ready := d.y, dest := d.dest, dmask := st.dmask
    loop := if st.sys then st.frame else st.loop
    dirty := st.dirtyRegs, result := 0, crc := 0, place := d.place, wait := d.wait, act := d.act
    readyNo := (s.core st.core).readyNo, readyTick := s.tick, readyAt := s.tns, ownPc := d.ownPc, ownLoop := if st.sys then st.frame else st.loop, retry := d.retry }

/-- A deposit: the record written, the slot freed (R320). -/
def State.deposit (s : State) (k : Nat) (st : Strand) (d : Deposit) : State :=
  let r : Record := { s.recordOf st d with ownLoop := if st.sys then st.frame else (s.strand k).loop }
  let s1 := (s.setStrand k { st with place := .recorded }).setRecord k r.sealed
  if d.y then s1.bumpReady st.core else s1

/-- A record made ready (R320). -/
def State.markReady (s : State) (k : Nat) (f : Record → Record) : State :=
  match s.records.get? k with
  | none => s
  | some r =>
    if r.ready then s.setRecord k (f r)
    else
      let core := k / 65536
      (s.setRecord k { f r with ready := true, readyNo := (s.core core).readyNo, readyTick := s.tick, readyAt := s.tns }).bumpReady core

/-- A child's end seen by its parent: the count, and a JOIN whose children have all ended (R320, R332). -/
def State.childEnded (s : State) (parent : Option Nat) : State :=
  match parent with
  | none => s
  | some p =>
    match s.strands.get? p with
    | none => s
    | some st =>
      let s1 := s.setStrand p { st with unjoined := st.unjoined - 1 }
      match s.records.get? p with
      | some r => if r.kind = .join && r.wait = .children && decide (st.unjoined ≤ 1) then s1.markReady p id else s1
      | none => s1

/-- A posted request of a strand that ends. -/
def Asker.orphan (a : Asker) (core sid stream : Nat) : Asker :=
  match a with
  | .posted c x _ => if c = core ∧ x = sid then .nobody stream else a
  | a => a

/-- What a strand has on its way when it ends, told from a later strand of the same id: commands, posted requests, STVs and
RCLMs go on. -/
def State.orphan (s : State) (core sid stream : Nat) : State :=
  let ask (a : Asker) : Asker := a.orphan core sid stream
  { s with
    cmds := s.cmds.map fun (c : Command) => if c.core = core ∧ c.sid = some sid then { c with sid := none } else c
    slice := { s.slice with
      stvs := s.slice.stvs.map fun (r : StvReq) => if r.core = core ∧ r.sid = sid then { r with sid := 65536 + stream } else r
      rclms := s.slice.rclms.map fun (r : RclmReq) => if r.core = core ∧ r.sid = sid then { r with sid := 65536 + stream } else r }
    firn := { s.firn with
      reqs := s.firn.reqs.map fun (r : EpReq) => { r with asker := ask r.asker }
      cursors := s.firn.cursors.map fun (c : Nat × Cursor) =>
        (c.1, { c.2 with play := c.2.play.map fun (p : Play) => { p with asker := ask p.asker } }) }
    cores := s.cores.modify core fun (c : CoreState) =>
      { c with feeds := c.feeds.map fun (f : PortFeed) => match f.for_ with
          | .mask j => { f with for_ := .mask { j with asker := ask j.asker } }
          | _ => f } }

/-- A strand gone: its record, its id. -/
def State.dropStrand (s : State) (k : Nat) : State :=
  let s1 := s.orphan (k / 65536) (k % 65536) (s.strand k).stream
  { s1 with strands := s1.strands.erase k, records := s1.records.erase k }

/-- Every entry of a core's coalescing buffer draining (R182). -/
def State.drainAll (s : State) (core : Nat) : State :=
  s.modCore core fun c => { c with cb := c.cb.map fun (e : CbEntry) => { e with draining := true } }

/-- A strand ended (R327, R332). A root's end is noted in its task, with the coalescing-buffer entries then present, whose drain
starts. -/
def State.endStrand (s : State) (k : Nat) : State :=
  let st := s.strand k
  let s1 := s.dropStrand k
  if st.scout then s1
  else
    match st.parent with
    | some p => s1.childEnded (some p)
    | none =>
      (s1.drainAll st.core).modTask st.task fun t =>
        if t.root = some k then { t with rootEnded := true, drains := (s.core st.core).cb.map (·.id) } else t

/-- Strands ended one after another, with nothing else done. -/
def State.dropStrands (s : State) : List Nat → State
  | [] => s
  | k :: t => (s.dropStrand k).dropStrands t

/-- The lowest free strand id of a core (R330). -/
def lowestFree (used : List Nat) : Nat → Nat → Option Nat
  | 0, _ => none
  | n + 1, c => if used.contains c then lowestFree used n (c + 1) else some c

def State.freeSid (s : State) (core : Nat) : Option Nat :=
  let used := s.strands.filterMap fun x => if x.1 / 65536 = core then some (x.1 % 65536) else none
  lowestFree used (min 65536 (used.length + 1)) 0

/-- A completion sent to a core (R321). -/
def State.sendCompletion (s : State) (c : Completion) : State := { s with completions := s.completions ++ [c] }

end Sys2Proof.Machine
end

