-- ==== Sys2Proof/Machine/Responses.lean ====
section
/-! DEFINITION. Responses (R46, R150, R152), and the replays and queues that a failure touches (R361, R365, R366). -/

namespace Sys2Proof.Machine

/-- A response word: status and value (R46). -/
def response (status value : Nat) : Dword := dw (status % 256 + value * 256)

/-- A tag's response put into a strand's window (R152); a tag that has left it loses its response. A RESP that waits for the
tag is answered (R159, R321). -/
def State.windowPut (s : State) (core sid : Nat) (tag : BitVec 16) (r : Dword) : State :=
  let k := keyOf core sid
  match s.strands.get? k with
  | none => s
  | some st =>
    if st.window.any (·.tag = tag) then
      let s1 := s.setStrand k { st with window := st.window.map fun w => if w.tag = tag then { w with resp := some r } else w }
      match s1.records.get? k with
      | some rec =>
        if rec.space = 1 && rec.tag = tag && !rec.ready then
          s1.sendCompletion { core := core, sid := sid, space := 1, tag := tag, value := r }
        else s1
      | none => s1
    else s

/-- A strand's commands in issue order, the finished ones at the head answered: a response becomes present only after those
of all earlier commands (R150). A list command's end is noted in its task. -/
def State.presentList (s : State) : List Command → State
  | [] => s
  | c :: t =>
    match c.stage with
    | .done r =>
      let s1 := { s with cmds := s.cmds.filter (·.uid ≠ c.uid) }
      let s2 := match c.sid with
        | some sid => s1.windowPut c.core sid c.tag r
        | none => s1.modTask c.task fun k => if k.list = some c.stream then { k with done := k.done + 1 } else k
      s2.presentList t
    | _ => s

/-- The commands of a stream that have not been answered, in issue order. -/
def State.streamOf (s : State) (stream : Nat) : List Command := s.cmds.filter fun c => c.stream = stream

def State.barc (s : State) (stream : Nat) : BarcState := s.sched.barcs.getD stream {}

def State.setBarc (s : State) (stream : Nat) (b : BarcState) : State :=
  s.setSched { s.sched with barcs := s.sched.barcs.set stream b }

/-- The opcode of a command (R42). -/
def Command.opcode (c : Command) : Nat := field c.bits.toNat 127 120

/-- BARC's (R43). -/
def barcOpcode : Nat := 0x11

/-- A completed command noted for the conditions of the next BARC (R171). A BARC begins them afresh. -/
def State.noteStatus (s : State) (c : Command) (r : Dword) : State :=
  let b := s.barc c.stream
  let bad := field r.toNat 7 0 ≠ 0
  if c.opcode = barcOpcode && c.src.isNone then s.setBarc c.stream { b with cfgBad := false, anyBad := false }
  else s.setBarc c.stream { b with cfgBad := b.cfgBad || (bad && c.opcode = 0x10), anyBad := b.anyBad || bad }

/-- A command finished with a response. -/
def State.finishCommand (s : State) (uid : Nat) (r : Dword) : State :=
  match s.cmds.find? (·.uid = uid) with
  | none => s
  | some c =>
    let s1 := { s with cmds := s.cmds.map fun (x : Command) => if x.uid = uid then { x with stage := .done r } else x }
    let s2 := s1.noteStatus c r
    s2.presentList (s2.streamOf c.stream)

/-! ### Replays that fail (R365) -/

/-- Tasks taken out of every ready queue and arbiter. -/
def State.unqueue (s : State) (ts : List Nat) : State :=
  let s1 := s.setSched { s.sched with queues := s.sched.queues.map fun q => (q.1, q.2.filter fun e => !ts.contains e.task) }
  { s1 with cores := s1.cores.map fun c =>
      (c.1, { c.2 with ready := c.2.ready.filter fun r => !(r.cmd.isNone && ts.contains r.task) }) }

/-- The tasks of a slot's running replay. -/
def State.slotTasks (s : State) (slot : Nat) : List (Nat × Task) :=
  s.sched.tasks.filter fun t => t.2.origin = .replay slot

def TaskStatus.over : TaskStatus → Bool
  | .killed _ => true
  | .finished => true
  | _ => false

def TaskStatus.unstarted : TaskStatus → Bool
  | .waiting => true
  | .queued => true
  | _ => false

/-- Tasks forgotten. -/
def State.dropTasks (s : State) (ts : List Nat) : State :=
  s.setSched { s.sched with tasks := s.sched.tasks.filter fun t => !ts.contains t.1 }

/-- A kick set running (R361): its table, its replays. -/
def State.startKick (s : State) (slot : Nat) (w : Dword) : State :=
  let ks := s.kickSlot slot
  let n := field w.toNat 31 16
  let ks' : KickSlot :=
    { ks with state := .running, table := field w.toNat 15 0, replaysLeft := if n = 0 then 1 else n, pending := none,
              started := false, nodes := [], failing := none, due := s.sched.dueNo }
  s.setSched { s.sched with slots := s.sched.slots.set slot ks', dueNo := s.sched.dueNo + 1 }

/-- The pending kick starts, unless the slot's context is dead (R361, R365). -/
def State.startPending (s : State) (slot : Nat) : State :=
  let ks := s.kickSlot slot
  match ks.pending with
  | none => s
  | some w => if (s.ctx ks.ctx).dead then s.setKickSlot slot { ks with pending := none } else s.startKick slot w

/-- A failing replay whose last started node has ended: the code, state 3, the vector, the pending kick (R365). -/
def State.settleFailure (s : State) (slot : Nat) : State :=
  let ks := s.kickSlot slot
  match ks.failing with
  | none => s
  | some code =>
    if (s.slotTasks slot).any (fun t => !t.2.status.over) then s
    else
      (((s.dropTasks ((s.slotTasks slot).map (·.1))).setKickSlot slot
        { ks with state := .failed, code := code, nodes := [], failing := none, started := false, replaysLeft := 0 }).raiseVector
          ks.vector).startPending slot

/-- A replay fails: its unstarted nodes are dropped (R365). The first code stands. -/
def State.failReplay (s : State) (slot code : Nat) : State :=
  let ks := s.kickSlot slot
  if ks.state ≠ .running then s
  else
    let dead := ((s.slotTasks slot).filter fun t => t.2.status.unstarted).map (·.1)
    (((s.unqueue dead).dropTasks dead).setKickSlot slot
      { ks with failing := some (ks.failing.getD code), started := true }).settleFailure slot

end Sys2Proof.Machine
end

