-- ==== Sys2Proof/Machine/Contain.lean ====
section
/-! DEFINITION. Containment: killing a task or a context (R209, R376, R377). -/

namespace Sys2Proof.Machine

/-- Entries of a core's coalescing buffer without a context's bytes; an entry left with none is freed (R209). -/
def CoreState.clearOwner (c : CoreState) (ctx : Nat) : CoreState :=
  { c with cb := (c.cb.map fun (e : CbEntry) =>
      { e with
        mask := (e.owners.filter (·.1 = ctx)).foldl (fun m o => m &&& ~~~o.2.1) e.mask,
        owners := e.owners.filter (·.1 ≠ ctx) }).filter fun e => e.mask ≠ 0 }

/-- What a core keeps of tasks and contexts that a predicate names: regions, configurations, frozen regions, iterations, the
feeds of input ports, and the feeders that commands and plays were. -/
def CoreState.purge (c : CoreState) (gone : Nat → Nat → Bool) (fed plays : List Nat) : CoreState :=
  let itGone (it : Iter) : Bool := gone it.ctx it.task
  let feedGone (f : PortFeed) : Bool := gone f.ctx f.task
  let gonefeeds := (c.feeds.filter feedGone).map (·.id)
  { c with
    regions := c.regions.filter fun r => !gone r.2.ctx r.2.task
    ready := c.ready.filter fun r => !gone r.ctx r.task
    frozen := c.frozen.map fun (f : Frozen) => { f with regions := f.regions.filter fun r => !gone r.ctx r.task }
    iters := c.iters.filter fun it => !itGone it
    feeds := c.feeds.filter fun f => !feedGone f
    ports := c.ports.map fun p =>
      (p.1, match p.2.feeder with
        | some .stream => if fed.contains p.1 then { p.2 with feeder := none } else p.2
        | some (.play k) => if plays.contains k then { p.2 with feeder := none } else p.2
        | some (.feed i) => if gonefeeds.contains i then { p.2 with feeder := none } else p.2
        | _ => p.2) }

/-- Everything that belongs to tasks a predicate on (context, task) names ends: strands without relaunch, operations not yet
at a slice or held there, regions, commands, requests, plays (R209, R377). Stores already accepted stay. -/
def State.purge (s : State) (gone : Nat → Nat → Bool) : State :=
  let keys := (s.strands.filter fun x => gone x.2.ctx x.2.task).map (·.1)
  let fed (core : Nat) : List Nat :=
    (s.cmds.filter fun c => gone c.ctx c.task && c.core = core && c.stage = .running && [1, 3, 5].contains c.opcode).map fun c => field c.bits.toNat 119 104
  let dead (c : Cursor) : Bool := match c.play with
    | some p => gone c.ctx p.task
    | none => false
  let plays := (s.firn.cursors.filter fun x => dead x.2).map (·.1)
  let s1 := s.dropStrands keys
  { s1 with
    completions := s1.completions.filter fun c => !keys.contains (keyOf c.core c.sid)
    slice := { s1.slice with
      reqs := s1.slice.reqs.filter fun r => !gone r.ctx r.task
      stvs := s1.slice.stvs.filter fun r => !gone r.ctx r.task
      ldvs := s1.slice.ldvs.filter fun r => !gone r.ctx r.task
      rclms := s1.slice.rclms.filter fun r => !gone r.ctx r.task }
    cores := s1.cores.map fun c => (c.1, c.2.purge gone (fed c.1) plays)
    cmds := s1.cmds.filter fun c => !gone c.ctx c.task
    firn := { s1.firn with
      reqs := s1.firn.reqs.filter fun r => !gone r.ctx r.task
      cursors := s1.firn.cursors.map fun x =>
        (x.1, if dead x.2 then { x.2 with play := none, armed := false } else x.2) } }

/-- A task's end told to what launched it: the replay fails, the TSK command is answered (R365, R376). -/
def State.taskKilled (s : State) (tid : Nat) (t : Task) (code : Nat) : State :=
  let s1 := s.setTask tid { t with status := .killed code }
  match t.origin with
  | .replay slot => s1.failReplay slot code
  | .tsk uid => (s1.dropTasks [tid]).finishCommand uid (response 0 code)

/-- A task killed (R377). -/
def State.killTask (s : State) (tid code : Nat) : State :=
  match s.task tid with
  | none => s.purge fun _ t => t = tid
  | some t => ((s.purge fun _ u => u = tid).unqueue [tid]).taskKilled tid t code

/-- Tasks of a context that have not ended. -/
def State.liveTasks (s : State) (ctx : Nat) : List (Nat × Task) :=
  s.sched.tasks.filter fun t => t.2.ctx = ctx && !t.2.status.over

/-- Every slot bound to a context in state 3, its pending kick dropped (R365). -/
def KickSlot.ctxKilled (ks : KickSlot) (ctx code : Nat) : KickSlot :=
  if ks.ctx = ctx && ks.state ≠ .unbound then
    { ks with state := .failed, pending := none, nodes := [], failing := none, started := false, replaysLeft := 0,
              code := if ks.state = .running then code else ks.code }
  else ks

/-- Stores, cursors, grammar contexts and snapshots of a context freed, and the hold entries of domains it produces for
dropped (R121, R377). -/
def State.freeEngines (s : State) (ctx : Nat) : State :=
  let prods := (s.gen.domains.filter fun d => d.2.configured && d.2.producer = ctx).map (·.1)
  { s with
    firn := { s.firn with
      stores := s.firn.stores.filter (·.2.ctx ≠ ctx)
      cursors := s.firn.cursors.filter (·.2.ctx ≠ ctx) }
    gen := { s.gen with
      grams := s.gen.grams.filter (·.2.ctx ≠ ctx)
      snapGens := (s.gen.snaps.filter (·.2.ctx = ctx)).foldl (fun g x => g.set x.1 (g.getD x.1 0 + 1)) s.gen.snapGens
      snaps := s.gen.snaps.filter (·.2.ctx ≠ ctx)
      hold := s.gen.hold.filter fun h => !prods.contains h.domain } }

/-- A context killed (R98, R121, R209, R365, R377): it stays dead until it is destroyed. -/
def State.killCtx (s : State) (ctx code : Nat) : State :=
  let ts := (s.liveTasks ctx).map (·.1)
  let s1 := (s.purge fun c t => c = ctx || ts.contains t).unqueue ts
  let s2 := s1.setSched { s1.sched with
    tasks := s1.sched.tasks.filter fun t => t.2.ctx ≠ ctx
    slots := s1.sched.slots.map fun x => (x.1, x.2.ctxKilled ctx code) }
  let vecs := (s.sched.slots.filter fun x => x.2.ctx = ctx && x.2.state = .running).filterMap (·.2.vector)
  let s3 := vecs.foldl (fun a v => a.raiseVector (some v)) s2
  let s4 := { s3 with cores := s3.cores.map fun (c : Nat × CoreState) =>
    (c.1, { c.2.clearOwner ctx with
      out := c.2.out.filter (· ≠ ctx)
      frozen := c.2.frozen.filter (·.ctx ≠ ctx)
      pfWaits := c.2.pfWaits.filter (·.ctx ≠ ctx)
      preemption := match c.2.preemption with
        | some p => if p.ctx = ctx then none else some p
        | none => none }) }
  let s5 := (s4.killRimes ctx (List.range 192)).freeEngines ctx
  s5.modCtx ctx fun x => { x with dead := true }

/-- The kick slot and node an event names for a task (R374). -/
def State.eventOwner (s : State) (tid : Nat) (e : CtxEvent) : CtxEvent :=
  match s.task tid with
  | some t => match t.origin with
    | .replay slot => { e with slot := slot, node := t.node }
    | .tsk _ => { e with node := t.node }
  | none => e

/-- Containment of an event: its record, then the kill's record, then the kill of the task or, by policy or by force, of the
context (R375, R376). -/
def State.contain (s : State) (ctx tid : Nat) (force : Bool) (e : CtxEvent) : State :=
  let e := s.eventOwner tid e
  let s1 := s.raiseEvent ctx e
  if force || (s.ctx ctx).cp then
    (s1.raiseEvent ctx { e with kind := 0x07, detail := e.kind, value := 0 }).killCtx ctx e.code
  else (s1.raiseEvent ctx { e with kind := 0x06, detail := e.kind, value := 0 }).killTask tid e.code

end Sys2Proof.Machine
end

