-- ==== Sys2Proof/Machine/Ops.lean ====
section
/-! DEFINITION. What strand instructions share: taking an exception and returning from one (R352, R354), completing,
suspending and retrying (R47, R320), translation with its retry (R386), releases and acquires at the core (R183, R184). -/

namespace Sys2Proof.Machine

/-! ### Exceptions -/

/-- The live loop state cleared on entry to a handler (R352). -/
def LoopState.cleared (l : LoopState) : LoopState := { l with lcnt := 0, rcnt := 0 }

/-- A strand that has entered its handler: the frame saved, cause, epc and tval set, system mode, the pc at tvec (R352). -/
def Strand.enter (st : Strand) (code : Nat) (v : Dword) : Strand :=
  { st with
    frame := st.loop
    loop := st.loop.cleared
    cause := BitVec.ofNat 8 code
    epc := dw (field st.pc.toNat 55 2 * 4)
    tval := v
    sys := true
    pc := st.tvec
    walkFault := none }

/-- Whether a fault of the strand is delivered to its handler (R352). -/
def Strand.delivers (st : Strand) : Bool := !st.scout && !st.sys && decide (field st.tvec.toNat 55 2 ≠ 0)

/-- TAKING AN EXCEPTION: a fault with a code and a value for tval at a strand whose pc is the one epc receives. A scout
ends; a fault in system mode or without a handler goes to containment; any other enters the handler (R352, R376). -/
def State.takeTrap (s : State) (k : Nat) (st : Strand) (code : Nat) (v : Dword) : State :=
  if st.delivers then s.setStrand k (st.enter code v)
  else if st.scout then s.endStrand k
  else
    (s.setStrand k st).contain st.ctx st.task (st.sys && code == 0x06)
      { kind := 0x05, core := st.core, code := code, value := dw (field st.pc.toNat 55 2 * 4) }

/-- Whether the trap frame is one ERET accepts (R354). -/
def LoopState.returnable (l : LoopState) : Bool :=
  decide (l.lcnt = 0) ||
    (let n := (l.lend.toNat : Int) - (l.lbeg.toNat : Int)
     decide (n % 4 = 0) && decide (4 ≤ n) && decide (n ≤ 4 * 4095))

/-- RETURNING FROM AN EXCEPTION: the frame becomes the live loop state, task mode, the pc at epc (R354). -/
def Strand.leave (st : Strand) : Strand :=
  { st with loop := st.frame, sys := false, pc := dw (st.epc.toNat / 4 * 4), walkFault := none }

/-- A fault of the strand that takes the step (R47). -/
def State.fault (s : State) (code : Nat) (v : Dword) : State := s.takeTrap s.meKey s.me code v

/-! ### Completion, suspension, retry -/

/-- The instruction completes with the strand as given. -/
def State.complete (s : State) (st : Strand) : State := s.putMe st.retire

/-- The instruction completes with a result in g(d). -/
def State.result (s : State) (d : BitVec 5) (v : Dword) : State := s.complete (s.me.setG d v)

/-- The instruction completes with no result. -/
def State.done (s : State) : State := s.complete s.me

/-- Continuation overflow (R324); a scout that cannot get a slot ends (R327). -/
def State.overflow (s : State) : State := s.fault 0x06 0

/-- A suspension (R47): the record of the strand after the instruction's own effects in the core, its destination and what it
waits for; ask then sends the request under the tag. No slot or tag raises continuation overflow before any effect. -/
def State.suspend (s : State) (st : Strand) (d : BitVec 5) (wait : WaitFor) (act : OnResume)
    (ask : State → BitVec 16 → State) : State :=
  match s.slotFor st.core st.ctx st.depositor, s.nextTag st.core with
  | some p, some t =>
    let s1 := s.modCore st.core fun c => { c with suspCtr := t + 1 }
    ask (s1.deposit s.meKey st.retire
      { kind := if st.scout then .scout else .resume, space := 2, tag := t, dest := d, wait := wait, act := act,
        ownPc := st.pc, place := p }) t
  | _, _ => s.overflow

/-- A retry (R47): the record resumes at the instruction itself. -/
def State.retry (s : State) (wait : WaitFor) (ask : State → BitVec 16 → State) : State :=
  let st := s.me
  match s.slotFor st.core st.ctx st.depositor, s.nextTag st.core with
  | some p, some t =>
    let s1 := s.modCore st.core fun c => { c with suspCtr := t + 1 }
    ask (s1.deposit s.meKey st
      { kind := if st.scout then .scout else .resume, space := 2, tag := t, wait := wait, ownPc := st.pc, retry := true,
        place := p }) t
  | _, _ => s.overflow

/-! ### Translation with its retry (R386) -/

/-- A miss joins the walk of its context and VA [55:16] on its die, or queues a new one (R386). -/
def State.joinWalk (s : State) (die ctx va : Nat) (w : WalkWaiter) : State :=
  let page := va / 2 ^ 16
  if s.trans.walks.any fun x => x.die = die && x.ctx = ctx && x.page = page then
    s.setTrans { s.trans with walks := s.trans.walks.map fun (x : Walk) =>
      if x.die = die && x.ctx = ctx && x.page = page then { x with waiters := x.waiters ++ [w] } else x }
  else
    s.setTrans { s.trans with
      walks := s.trans.walks ++ [{ id := s.trans.nextWalk, die := die, ctx := ctx, page := page, waiters := [w] }]
      nextWalk := s.trans.nextWalk + 1 }

/-- A TLB miss of the strand's access: it is tried again once a walk has ended (R47, R386). -/
def State.missWalk (s : State) (va : Dword) (acc : Access) : State :=
  let st := s.me
  s.retry .completion fun s1 t => s1.joinWalk (dieOf st.core) st.ctx va.toNat (.strand st.core st.sid t va acc)

/-- An access of the strand at a VA: its fault, its retry, or what the physical address leads to (R47). -/
def State.access (s : State) (va : Dword) (acc : Access) (k : Nat → State) : State :=
  match s.xlat s.me va acc with
  | .fault c => s.fault c va
  | .miss => s.missWalk va acc
  | .hit pa => k pa

/-! ### The strata window (R200) -/

/-- Whether a VA lies in the strata window of a context. -/
def State.inStrata (s : State) (ctx : Nat) (va : Nat) : Bool :=
  let d0 := ((s.ctx ctx).strata.get 0).toNat
  let base := field d0 55 24 * 2 ^ 24
  decide (base ≤ va) && decide (va < base + min (field d0 8 0) 256 * 2 ^ 16)

/-- The scope code of a page of the window (R200). -/
def State.strataScope (s : State) (ctx : Nat) (va : Nat) : Nat :=
  let x := s.ctx ctx
  let page := (va - field (x.strata.get 0).toNat 55 24 * 2 ^ 24) / 2 ^ 16
  let map : Vector Dword 8 := Vector.ofFn fun i => x.strata.get ⟨i.val + 2, by omega⟩
  field ((map.toList.getD (page / 32) 0).toNat) (2 * (page % 32) + 1) (2 * (page % 32))

/-- The PA of a word's version block (R201). -/
def State.versionBlock (s : State) (ctx : Nat) (va : Nat) : Nat :=
  let x := s.ctx ctx
  field (x.strata.get 1).toNat 51 8 * 2 ^ 8 + 256 * ((va - field (x.strata.get 0).toNat 55 24 * 2 ^ 24) / 8)

/-! ### Releases and acquires at the core (R183, R184) -/

/-- The coalescing-buffer entries before a drain point set now: none at core scope. -/
def State.drainPoint (s : State) (core scope : Nat) : List Nat := if scope = 0 then [] else (s.core core).cb.map (·.id)

/-- Entries whose drain starts (R182). -/
def State.startDrain (s : State) (core : Nat) (ids : List Nat) : State :=
  s.modCore core fun c =>
    { c with cb := c.cb.map fun (e : CbEntry) => if ids.contains e.id then { e with draining := true } else e }

/-- A release at a scope: its drain point, every entry before it draining (R183). -/
def State.release (s : State) (core scope : Nat) : State := s.startDrain core (s.drainPoint core scope)

/-- Whether every entry before a drain point has been accepted. -/
def State.drained (s : State) (core : Nat) (ids : List Nat) : Bool := (s.core core).cb.all fun e => !ids.contains e.id

/-- Whether an STV of the strand is held (R203). -/
def State.holds (s : State) (core sid : Nat) : Bool := s.slice.stvs.any fun r => r.core = core && r.sid = sid && r.held

/-- STVs of the strand that no slice has applied (R203). -/
def State.unackedStvs (s : State) (core sid : Nat) : Nat := (s.slice.stvs.filter fun r => r.core = core && r.sid = sid).length

/-- Self-invalidation of the L1 data cache at a scope: unpinned lines dropped, pinned ones stale (R184). -/
def CoreState.acquire (c : CoreState) (scope : Nat) : CoreState :=
  if scope = 0 then c
  else { c with l1 := (c.l1.filter (·.pin.isSome)).map fun l => { l with stale := true } }

def State.acquire (s : State) (core scope : Nat) : State := s.modCore core fun c => c.acquire scope

/-! ### Issue (R123, R124, R151, R152) -/

/-- The next tag of the strand's sequence, put into its window of 1,024 (R15, R152). -/
def Strand.issueTag (st : Strand) (command : Bool) : BitVec 16 × Strand :=
  (st.tagCtr,
   { st with
     tagCtr := st.tagCtr + 1
     window := ({ tag := st.tagCtr, command := command } :: st.window).take 1024 })

end Sys2Proof.Machine
end

