-- ==== Sys2Proof/Machine/Operands.lean ====
section
/-! DEFINITION. The operand forms of strand instructions (R9, R25, R31, R193): immediates, offsets, addresses, and the shapes
register-to-register instructions share. -/

namespace Sys2Proof.Machine

/-- What a meaning answers. -/
abbrev Out := Host.Outcome State Fault Refusal

/-- SignExt(imm16, 16) (R9, R25). -/
def simm (imm : BitVec 16) : Dword := imm.signExtend 64

/-- ZeroExt(imm16, 16) (R9, R25). -/
def zimm (imm : BitVec 16) : Dword := imm.zeroExtend 64

/-- SignExt(offset16, 16) × 4 (R25, R339). -/
def offset16 (off : BitVec 16) : Dword := off.signExtend 64 * 4

/-- SignExt(offset21, 21) × 4 (R25, R340). -/
def offset21 (off : BitVec 21) : Dword := off.signExtend 64 * 4

/-- The address of a load or store: g(a) + SignExt(imm16, 16), modulo 2^64 (R193). -/
def Strand.address (st : Strand) (a : BitVec 5) (imm : BitVec 16) : Dword := st.g a + simm imm

/-- g(d) := f(g(a), g(b)). -/
def State.binary (s : State) (d a b : BitVec 5) (f : Dword → Dword → Dword) : Out :=
  .next (s.result d (f (s.me.g a) (s.me.g b)))

/-- g(d) := f(g(a)). -/
def State.unary (s : State) (d a : BitVec 5) (f : Dword → Dword) : Out := .next (s.result d (f (s.me.g a)))

/-- g(d) := SignExt(f(g(a)[31:0], g(b)[31:0]), 32) (R337). -/
def State.binaryW (s : State) (d a b : BitVec 5) (f : Word → Word → Word) : Out :=
  s.binary d a b fun x y => (f (x.truncate 32) (y.truncate 32)).signExtend 64

/-- The word of an instruction as tval holds it (R28). -/
def wordOf (i : Instr) : Dword := ((encodeStrand i).getD 0).zeroExtend 64

end Sys2Proof.Machine
end

