-- ==== Sys2Proof/Machine/Alu.lean ====
section
/-! DEFINITION. Integer register and immediate operations (R335 to R338). -/

namespace Sys2Proof.Machine

/-- Division, signed (R336). -/
def divS (x y : Dword) : Dword := if y = 0 then allOnes else x.sdiv y

/-- Division, unsigned (R336). -/
def divU (x y : Dword) : Dword := if y = 0 then allOnes else x / y

/-- Remainder, signed: the sign of the dividend (R336). -/
def remS (x y : Dword) : Dword := if y = 0 then x else x.srem y

/-- Remainder, unsigned (R336). -/
def remU (x y : Dword) : Dword := if y = 0 then x else x % y

/-- Bits [127:64] of the signed product (R335). -/
def mulHigh (x y : Dword) : Dword := BitVec.ofInt 64 (x.toInt * y.toInt / 2 ^ 64)

/-- Bits [127:64] of the unsigned product (R335). -/
def mulHighU (x y : Dword) : Dword := BitVec.ofNat 64 (x.toNat * y.toNat / 2 ^ 64)

/-- The amount of a 64-bit shift, y[5:0] (R335). -/
def shiftAmount (y : Dword) : Nat := y.toNat % 64

/-- The amount of a 32-bit shift, y[4:0] (R337). -/
def shiftAmountW (y : Word) : Nat := y.toNat % 32

/-- A truth value as 1 or 0 (R335). -/
def flag (b : Bool) : Dword := if b then 1 else 0

/-- ADD (R335). -/
def execAdd (d a b : BitVec 5) (s : State) : Out := s.binary d a b fun x y => x + y

/-- SUB (R335). -/
def execSub (d a b : BitVec 5) (s : State) : Out := s.binary d a b fun x y => x - y

/-- AND (R335). -/
def execAnd (d a b : BitVec 5) (s : State) : Out := s.binary d a b fun x y => x &&& y

/-- OR (R335). -/
def execOr (d a b : BitVec 5) (s : State) : Out := s.binary d a b fun x y => x ||| y

/-- XOR (R335). -/
def execXor (d a b : BitVec 5) (s : State) : Out := s.binary d a b fun x y => x ^^^ y

/-- SHL (R335). -/
def execShl (d a b : BitVec 5) (s : State) : Out := s.binary d a b fun x y => x <<< shiftAmount y

/-- SHR (R335). -/
def execShr (d a b : BitVec 5) (s : State) : Out := s.binary d a b fun x y => x >>> shiftAmount y

/-- SRA (R335). -/
def execSra (d a b : BitVec 5) (s : State) : Out := s.binary d a b fun x y => x.sshiftRight (shiftAmount y)

/-- MUL (R335). -/
def execMul (d a b : BitVec 5) (s : State) : Out := s.binary d a b fun x y => x * y

/-- MULH (R335). -/
def execMulh (d a b : BitVec 5) (s : State) : Out := s.binary d a b fun x y => mulHigh x y

/-- MULHU (R335). -/
def execMulhu (d a b : BitVec 5) (s : State) : Out := s.binary d a b fun x y => mulHighU x y

/-- DIV (R336). -/
def execDiv (d a b : BitVec 5) (s : State) : Out := s.binary d a b fun x y => divS x y

/-- DIVU (R336). -/
def execDivu (d a b : BitVec 5) (s : State) : Out := s.binary d a b fun x y => divU x y

/-- REM (R336). -/
def execRem (d a b : BitVec 5) (s : State) : Out := s.binary d a b fun x y => remS x y

/-- REMU (R336). -/
def execRemu (d a b : BitVec 5) (s : State) : Out := s.binary d a b fun x y => remU x y

/-- MIN (R335). -/
def execMin (d a b : BitVec 5) (s : State) : Out := s.binary d a b fun x y => if x.slt y then x else y

/-- MAX (R335). -/
def execMax (d a b : BitVec 5) (s : State) : Out := s.binary d a b fun x y => if x.slt y then y else x

/-- MINU (R335). -/
def execMinu (d a b : BitVec 5) (s : State) : Out := s.binary d a b fun x y => if x.ult y then x else y

/-- MAXU (R335). -/
def execMaxu (d a b : BitVec 5) (s : State) : Out := s.binary d a b fun x y => if x.ult y then y else x

/-- SLT (R335). -/
def execSlt (d a b : BitVec 5) (s : State) : Out := s.binary d a b fun x y => flag (x.slt y)

/-- SLTU (R335). -/
def execSltu (d a b : BitVec 5) (s : State) : Out := s.binary d a b fun x y => flag (x.ult y)

/-- CLZ (R335). -/
def execClz (d a : BitVec 5) (s : State) : Out := s.unary d a fun x => dw (clz64 x)

/-- POPC (R335). -/
def execPopc (d a : BitVec 5) (s : State) : Out := s.unary d a fun x => dw (popBelow x.toNat 64)

/-- ADD_W (R337). -/
def execAddW (d a b : BitVec 5) (s : State) : Out := s.binaryW d a b fun x y => x + y

/-- SUB_W (R337). -/
def execSubW (d a b : BitVec 5) (s : State) : Out := s.binaryW d a b fun x y => x - y

/-- AND_W (R337). -/
def execAndW (d a b : BitVec 5) (s : State) : Out := s.binaryW d a b fun x y => x &&& y

/-- OR_W (R337). -/
def execOrW (d a b : BitVec 5) (s : State) : Out := s.binaryW d a b fun x y => x ||| y

/-- XOR_W (R337). -/
def execXorW (d a b : BitVec 5) (s : State) : Out := s.binaryW d a b fun x y => x ^^^ y

/-- SHL_W (R337). -/
def execShlW (d a b : BitVec 5) (s : State) : Out := s.binaryW d a b fun x y => x <<< shiftAmountW y

/-- SHR_W (R337). -/
def execShrW (d a b : BitVec 5) (s : State) : Out := s.binaryW d a b fun x y => x >>> shiftAmountW y

/-- SRA_W (R337). -/
def execSraW (d a b : BitVec 5) (s : State) : Out := s.binaryW d a b fun x y => x.sshiftRight (shiftAmountW y)

/-- MUL_W (R337). -/
def execMulW (d a b : BitVec 5) (s : State) : Out := s.binaryW d a b fun x y => x * y

/-- ADDI (R338). -/
def execAddi (d a : BitVec 5) (imm : BitVec 16) (s : State) : Out := s.unary d a fun x => x + simm imm

/-- ANDI (R338). -/
def execAndi (d a : BitVec 5) (imm : BitVec 16) (s : State) : Out := s.unary d a fun x => x &&& zimm imm

/-- ORI (R338). -/
def execOri (d a : BitVec 5) (imm : BitVec 16) (s : State) : Out := s.unary d a fun x => x ||| zimm imm

/-- XORI (R338). -/
def execXori (d a : BitVec 5) (imm : BitVec 16) (s : State) : Out := s.unary d a fun x => x ^^^ zimm imm

/-- SHLI (R338). -/
def execShli (d a : BitVec 5) (amount : BitVec 6) (s : State) : Out := s.unary d a fun x => x <<< amount.toNat

/-- SHRI (R338). -/
def execShri (d a : BitVec 5) (amount : BitVec 6) (s : State) : Out := s.unary d a fun x => x >>> amount.toNat

/-- SRAI (R338). -/
def execSrai (d a : BitVec 5) (amount : BitVec 6) (s : State) : Out := s.unary d a fun x => x.sshiftRight amount.toNat

/-- SLTI (R338). -/
def execSlti (d a : BitVec 5) (imm : BitVec 16) (s : State) : Out := s.unary d a fun x => flag (x.slt (simm imm))

/-- SLTIU (R338). -/
def execSltiu (d a : BitVec 5) (imm : BitVec 16) (s : State) : Out := s.unary d a fun x => flag (x.ult (simm imm))

/-- LIH (R338). -/
def execLih (d a : BitVec 5) (imm : BitVec 16) (s : State) : Out := s.unary d a fun x => (x <<< 16) ||| zimm imm

/-- ADDPC (R338). -/
def execAddpc (d : BitVec 5) (imm : BitVec 16) (s : State) : Out := .next (s.result d (s.me.pc + offset16 imm))

end Sys2Proof.Machine
end

