-- ==== Sys2Proof/Machine/Branch.lean ====
section
/-! DEFINITION. Branches, jumps, LOOP and REP (R339 to R344). -/

namespace Sys2Proof.Machine

/-- A branch: taken, the transfer of R342; not taken, an ordinary instruction (R339). -/
def State.branch (s : State) (taken : Bool) (off : BitVec 16) : Out :=
  if taken then .next (s.putMe (s.me.jump (s.me.pc + offset16 off))) else .next s.done

/-- BEQ (R339). -/
def execBeq (a b : BitVec 5) (off : BitVec 16) (s : State) : Out := s.branch (s.me.g a == s.me.g b) off

/-- BNE (R339). -/
def execBne (a b : BitVec 5) (off : BitVec 16) (s : State) : Out := s.branch (s.me.g a != s.me.g b) off

/-- BLT (R339). -/
def execBlt (a b : BitVec 5) (off : BitVec 16) (s : State) : Out := s.branch ((s.me.g a).slt (s.me.g b)) off

/-- BGE (R339). -/
def execBge (a b : BitVec 5) (off : BitVec 16) (s : State) : Out := s.branch (!(s.me.g a).slt (s.me.g b)) off

/-- BLTU (R339). -/
def execBltu (a b : BitVec 5) (off : BitVec 16) (s : State) : Out := s.branch ((s.me.g a).ult (s.me.g b)) off

/-- BGEU (R339). -/
def execBgeu (a b : BitVec 5) (off : BitVec 16) (s : State) : Out := s.branch (!(s.me.g a).ult (s.me.g b)) off

/-- JAL (R340). -/
def execJal (d : BitVec 5) (off : BitVec 21) (s : State) : Out :=
  .next (s.putMe ((s.me.setG d (s.me.pc + 4)).jump (s.me.pc + offset21 off)))

/-- JALR: g(a) is read before g(d) is written, bits [1:0] of the target cleared (R29, R340). -/
def execJalr (d a : BitVec 5) (imm : BitVec 16) (s : State) : Out :=
  .next (s.putMe ((s.me.setG d (s.me.pc + 4)).jump ((s.me.g a + simm imm) &&& ~~~3)))

/-- min(g(a), 0xFFFF_FFFF) (R341, R343). -/
def countOf (v : Dword) : Word := if 0xFFFF_FFFF < v.toNat then 0xFFFF_FFFF else v.truncate 32

/-- LOOP: a task-mode form, refused inside an active body (R341). -/
def execLoop (a : BitVec 5) (len : BitVec 12) (s : State) : Out :=
  let st := s.me
  if st.sys || decide (st.loop.lcnt ≠ 0) then .next (s.fault 0x01 (wordOf (.loop a len)))
  else
    let n := countOf (st.g a)
    let st1 := { st with walkFault := none }.spend
    if n = 0 then .next (s.putMe { st1 with pc := st.pc + 4 + 4 * len.zeroExtend 64 })
    else
      .next (s.putMe
        { st1 with
          pc := st.pc + 4
          loop := { st.loop with lcnt := n, lbeg := st.pc + 4, lend := st.pc + 4 + 4 * len.zeroExtend 64 } })

/-- REP with its count: refused in system mode and at the last word of a body; with a count of 0 the next instruction is
passed over as completed (R343). -/
def State.repeatNext (s : State) (i : Instr) (n : Word) : Out :=
  let st := s.me
  if st.sys || (decide (st.loop.lcnt ≠ 0) && decide (st.pc = st.loop.lend - 4)) then .next (s.fault 0x01 (wordOf i))
  else
    let st1 := { st with walkFault := none }.spend
    if n = 0 then .next (s.putMe (st1.loopStep (st.pc + 4) (st.pc + 8)))
    else .next (s.putMe { st1 with pc := st.pc + 4, loop := { st.loop with rcnt := n } })

/-- REP (R343). -/
def execRep (a : BitVec 5) (s : State) : Out := s.repeatNext (.rep a) (countOf (s.me.g a))

/-- REP_IMM (R343). -/
def execRepImm (count : BitVec 12) (s : State) : Out := s.repeatNext (.repImm count) (count.zeroExtend 32)

end Sys2Proof.Machine
end

