-- ==== Sys2Proof/Machine/ElemInt.lean ====
section
/-! DEFINITION. The integer element operations (R248 to R254): each gives its firing from the heads of its inputs. -/

namespace Sys2Proof.Machine

/-- A valid lane of a code. -/
def okLane (v : Nat) : Lane := ⟨dw v, true⟩

/-- An exact integer narrowed once: clamped under SAT, else wrapped (R248). -/
def narrow (e : EWord) (sat : Bool) (x : Int) : Lane := okLane (if sat then clampLane e.fmt x else wrapLane e.fmt x)

/-- An integer operation on two lanes, by its exact result (R248). -/
def intOp2 (e : EWord) (sat : Bool) (f : Int → Int → Int) (x : Inputs) : Option Fire :=
  lanewise2 e x fun a b => narrow e sat (f (laneInt e.fmt a) (laneInt e.fmt b))

/-- A bitwise operation on two lanes (R248). -/
def bitOp2 (e : EWord) (f : Nat → Nat → Nat) (x : Inputs) : Option Fire :=
  lanewise2 e x fun a b => okLane (f (a % 2 ^ laneWidth e.fmt) (b % 2 ^ laneWidth e.fmt))

def fireVadd (e : EWord) (x : Inputs) : Option Fire := intOp2 e false (· + ·) x
def fireVsub (e : EWord) (x : Inputs) : Option Fire := intOp2 e false (· - ·) x
def fireVmul (e : EWord) (x : Inputs) : Option Fire := intOp2 e e.sat (· * ·) x

/-- Bits [2w-1:w] of the exact product (R248). -/
def fireVmulh (e : EWord) (x : Inputs) : Option Fire :=
  intOp2 e false (fun a b => (a * b) / (2 ^ laneWidth e.fmt : Nat)) x

/-- One wrap or one clamp of a × b + c (R71, R248). -/
def fireVmad (e : EWord) (x : Inputs) : Option Fire :=
  lanewise3 e x fun a b c => narrow e e.sat (laneInt e.fmt a * laneInt e.fmt b + laneInt e.fmt c)

def fireVmin (e : EWord) (x : Inputs) : Option Fire := intOp2 e false min x
def fireVmax (e : EWord) (x : Inputs) : Option Fire := intOp2 e false max x

/-- |a| (R248). -/
def fireVabs (e : EWord) (x : Inputs) : Option Fire :=
  lanewise1 e x fun a => narrow e e.sat ((laneInt e.fmt a).natAbs : Int)

/-- -a (R248). -/
def fireVneg (e : EWord) (x : Inputs) : Option Fire := lanewise1 e x fun a => narrow e e.sat (-laneInt e.fmt a)

def fireVand (e : EWord) (x : Inputs) : Option Fire := bitOp2 e (· &&& ·) x
def fireVor (e : EWord) (x : Inputs) : Option Fire := bitOp2 e (· ||| ·) x
def fireVxor (e : EWord) (x : Inputs) : Option Fire := bitOp2 e (· ^^^ ·) x

/-- NOT a (R248). -/
def fireVnot (e : EWord) (x : Inputs) : Option Fire :=
  lanewise1 e x fun a => okLane (2 ^ laneWidth e.fmt - 1 - a % 2 ^ laneWidth e.fmt)

def fireVadds (e : EWord) (x : Inputs) : Option Fire := intOp2 e true (· + ·) x
def fireVsubs (e : EWord) (x : Inputs) : Option Fire := intOp2 e true (· - ·) x

/-- a × 2^n, with n read as unsigned; n ≥ w gives 0, and SAT clamps the exact product (R249). -/
def fireVshl (e : EWord) (x : Inputs) : Option Fire :=
  let w := laneWidth e.fmt
  lanewise2 e x fun a b =>
    let n := b % 2 ^ w
    if e.sat then
      -- a nonzero value shifted by w or more lies beyond the range whatever n is
      okLane (clampLane e.fmt (laneInt e.fmt a * (2 ^ min n w : Nat)))
    else okLane (if n < w then wrapLane e.fmt (laneInt e.fmt a * (2 ^ n : Nat)) else 0)

/-- Logical right shift (R249). -/
def fireVshr (e : EWord) (x : Inputs) : Option Fire :=
  let w := laneWidth e.fmt
  lanewise2 e x fun a b =>
    let n := b % 2 ^ w
    okLane (if n < w then a % 2 ^ w / 2 ^ n else 0)

/-- Arithmetic right shift, signed for every format (R249). -/
def fireVsra (e : EWord) (x : Inputs) : Option Fire :=
  let w := laneWidth e.fmt
  lanewise2 e x fun a b => okLane (lowBits w (signedOf w a / (2 ^ min (b % 2 ^ w) w : Nat)))

/-- min(max(a, lo), hi); lo and hi from the constant's halves or from B and C (R250). -/
def fireVclip (e : EWord) (x : Inputs) : Option Fire :=
  let clip (a lo hi : Int) : Lane := okLane (wrapLane e.fmt (min (max a lo) hi))
  if e.k then
    let half (v : Nat) : Int :=
      if laneWidth e.fmt < 32 then laneInt e.fmt v else if fmtSigned e.fmt then signedOf 32 v else (v : Int)
    let lo := half (e.konst.toNat % 2 ^ 32)
    let hi := half (e.konst.toNat / 2 ^ 32)
    lanewise1 e x fun a => clip (laneInt e.fmt a) lo hi
  else
    lanewise3 e x fun a b c => clip (laneInt e.fmt a) (laneInt e.fmt b) (laneInt e.fmt c)

/-- The relations of R251. -/
def relation (code : Nat) (lt eq : Bool) : Bool :=
  match code with
  | 0 => eq
  | 1 => !eq
  | 2 => lt
  | 3 => lt || eq
  | 4 => !lt && !eq
  | _ => !lt

/-- The N format of an element's width, and I4 for I4 (R245). -/
def flagFmt (f : BitVec 4) : BitVec 4 :=
  match laneWidth f with
  | 8 => 4
  | 16 => 5
  | 32 => 6
  | 64 => 7
  | _ => 15

/-- A firing whose output 0 carries a format of its own (R245). -/
def inFormat (f : BitVec 4) (r : Option Fire) : Option Fire :=
  r.map fun x => { x with out0 := x.out0.map fun t => { t with fmt := f } }

/-- Comparison (R251). -/
def fireVcmp (e : EWord) (x : Inputs) : Option Fire :=
  inFormat (flagFmt e.fmt) (lanewise2 e x fun a b =>
    okLane (b2n (relation e.aux.toNat (laneInt e.fmt a < laneInt e.fmt b) (laneInt e.fmt a = laneInt e.fmt b))))

/-- Selection by the condition lane of A; the header is B's (R252). -/
def fireVsel (e : EWord) (x : Inputs) : Option Fire :=
  match x.a, x.b, x.c with
  | some a, some b, some c =>
    let n := outCount e [a, b, c]
    some (fireAll e (outToken e b ((List.range n).map fun i =>
      if !a.ok i then Lane.bad
      else if a.val i != 0 then (if b.ok i then okLane (b.val i % 2 ^ laneWidth e.fmt) else Lane.bad)
      else (if c.ok i then okLane (c.val i % 2 ^ laneWidth e.fmt) else Lane.bad))))
  | _, _, _ => none

/-- Validity into values and values into validity (R253). -/
def fireVval (e : EWord) (x : Inputs) : Option Fire :=
  let w := laneWidth e.fmt
  match x.a with
  | none => none
  | some a =>
    if e.aux == 0 then
      let n := outCount e [a]
      some (fireAll e (outToken e a ((List.range n).map fun i => okLane (b2n (a.ok i)))))
    else
      match inputB e x with
      | none => none
      | some b =>
        let n := outCount e (if e.k then [a] else [a, b])
        some (fireAll e (outToken e a ((List.range n).map fun i =>
          if e.aux == 1 then (if a.ok i && b.isTrue i then okLane (a.val i % 2 ^ w) else Lane.bad)
          else if a.ok i then okLane (a.val i % 2 ^ w)
          else if b.ok i then okLane (b.val i % 2 ^ w) else Lane.bad)))

/-- The identity of a VSCAN operation (R254). -/
def scanIdentity (e : EWord) : Int :=
  match e.aux.toNat % 4 with
  | 0 => 0
  | 1 => fmtMin e.fmt
  | _ => fmtMax e.fmt

/-- The operation of VSCAN, exact (R254). -/
def scanOp (e : EWord) (p q : Int) : Int :=
  match e.aux.toNat % 4 with
  | 0 => p + q
  | 1 => max p q
  | _ => min p q

/-- The lanes of a scan from a running value: the output lanes and the value after them (R254). -/
def scanLanes (e : EWord) (flag : Nat → Bool) : Nat → List Lane → Int → Bool → List Lane × Int × Bool
  | _, [], acc, av => ([], acc, av)
  | i, l :: ls, acc, av =>
    let (acc, av) := if flag i then (scanIdentity e, true) else (acc, av)
    let (acc', av') := if l.ok && av then (scanOp e acc (laneInt e.fmt l.val.toNat), true) else (acc, false)
    let excl := bitN e.aux.toNat 2 = 1
    let out := if excl then acc else acc'
    let ov := if excl then av else av'
    let lane := if ov then narrow e e.sat out else Lane.bad
    let (rest, accN, avN) := scanLanes e flag (i + 1) ls acc' av'
    (lane :: rest, accN, avN)

/-- The prefix scan, continued from token to token (R254). -/
def fireVscan (e : EWord) (st : UnitState) (x : Inputs) : Option Fire :=
  match x.a with
  | none => none
  | some a =>
    if e.c != 0xFF && x.c.isNone then none
    else
      let (acc, av) := match st with
        | .scan acc av => (acc, av)
        | _ => (scanIdentity e, true)
      let (acc, av) := if a.reset then (scanIdentity e, true) else (acc, av)
      let flag (i : Nat) : Bool := match x.c with
        | some f => f.isTrue i
        | none => false
      let (ls, acc, av) := scanLanes e flag 0 (a.lanes.take (laneCount e.fmt)) acc av
      let (acc, av) := if a.last then (scanIdentity e, true) else (acc, av)
      some (fireAll e (outToken e a ls) (.scan acc av))

end Sys2Proof.Machine
end

