-- ==== Sys2Proof/Machine/ElemFloat.lean ====
section
/-! DEFINITION. The float element operations (R255 to R259). -/

namespace Sys2Proof.Machine

/-- The rounding mode of the element word (R56). -/
def elemRm (e : EWord) : Rm := rmOf e.rnd.toNat

/-- A lane of a rounded result (R55). -/
def resLane (r : FRes) : Lane := ⟨dw r.bits, r.ok⟩

/-- A float operation on two lanes, by its exact result, rounded once (R255). -/
def floatOp2 (e : EWord) (f : FVal → FVal → FVal) (x : Inputs) : Option Fire :=
  lanewise2 e x fun a b =>
    let u := unpack (laneFFmt e.fmt) a
    let v := unpack (laneFFmt e.fmt) b
    resLane (roundSat (laneFFmt e.fmt) (elemRm e) e.sat (u.isInf || v.isInf) (f u v))

def fireFvadd (e : EWord) (x : Inputs) : Option Fire := floatOp2 e (fun a b => fsum (elemRm e) [a, b]) x
def fireFvsub (e : EWord) (x : Inputs) : Option Fire := floatOp2 e (fun a b => fsum (elemRm e) [a, b.negate]) x
def fireFvmul (e : EWord) (x : Inputs) : Option Fire := floatOp2 e FVal.mul x

/-- Round(a × b + c), one rounding (R71). -/
def fmaVal (mode : Rm) (a b c : FVal) : FVal := fsum mode [a.mul b, c]

def fireFvfma (e : EWord) (x : Inputs) : Option Fire :=
  lanewise3 e x fun a b c =>
    let u := unpack (laneFFmt e.fmt) a
    let v := unpack (laneFFmt e.fmt) b
    let w := unpack (laneFFmt e.fmt) c
    resLane (roundSat (laneFFmt e.fmt) (elemRm e) e.sat (u.isInf || v.isInf || w.isInf) (fmaVal (elemRm e) u v w))

/-- Minimum and maximum (R54). -/
def fireFvmin (e : EWord) (x : Inputs) : Option Fire :=
  lanewise2 e x fun a b => okLane (fminBits (laneFFmt e.fmt) (a % 2 ^ laneWidth e.fmt) (b % 2 ^ laneWidth e.fmt))
def fireFvmax (e : EWord) (x : Inputs) : Option Fire :=
  lanewise2 e x fun a b => okLane (fmaxBits (laneFFmt e.fmt) (a % 2 ^ laneWidth e.fmt) (b % 2 ^ laneWidth e.fmt))

/-- A special function of A (R257). -/
def specialOp (e : EWord) (f : FFmt → Rm → Bool → FVal → FRes) (x : Inputs) : Option Fire :=
  lanewise1 e x fun a => resLane (f (laneFFmt e.fmt) (elemRm e) e.sat (unpack (laneFFmt e.fmt) a))

def fireFvexp2 (e : EWord) (x : Inputs) : Option Fire := specialOp e fexp2 x
def fireFvlog2 (e : EWord) (x : Inputs) : Option Fire := specialOp e flog2 x
def fireFvrcp (e : EWord) (x : Inputs) : Option Fire := specialOp e frcp x
def fireFvrsq (e : EWord) (x : Inputs) : Option Fire := specialOp e frsq x
def fireFvtanh (e : EWord) (x : Inputs) : Option Fire := specialOp e ftanh x
def fireFvsigm (e : EWord) (x : Inputs) : Option Fire := specialOp e fsigm x

/-- Comparison: any relation with a NaN gives 0 (R256). -/
def fireFvcmp (e : EWord) (x : Inputs) : Option Fire :=
  inFormat (flagFmt e.fmt) (lanewise2 e x fun a b =>
    let u := unpack (laneFFmt e.fmt) a
    let v := unpack (laneFFmt e.fmt) b
    okLane (if u.isNan || v.isNan then 0 else b2n (relation e.aux.toNat (u.lt v) (u.eq v))))

/-- Segment size of FVDOT and VRED (R258, R266). -/
def segSize (e : EWord) (code : Nat) : Nat := if code = 0 then laneCount e.fmt else 2 ^ code

/-- Dot product per segment, by the tree of R67 (R258). -/
def fireFvdot (e : EWord) (x : Inputs) : Option Fire :=
  let n := segSize e e.aux.toNat
  match x.a, inputB e x with
  | some a, some b =>
    let m := outCount e (if e.k then [a] else [a, b])
    let seg (s : Nat) : Lane :=
      let idx := (List.range n).map (s * n + ·)
      if idx.all (fun i => i < m && a.ok i && b.ok i) then
        let terms := idx.map fun i =>
          (unpack (laneFFmt e.fmt) (a.val i)).mul (unpack (laneFFmt e.fmt) (b.val i))
        okLane (treeSum (elemRm e) terms)
      else Lane.bad
    some (fireAll e { outToken e a ((List.range (ceilDiv m n)).map seg) with fmt := 12 })
  | _, _ => none

/-- The lanes of the recurrence h := a × h + b from a running value (R259). -/
def lrecLanes (e : EWord) (flag : Nat → Bool) : Nat → List (Lane × Lane) → Nat → Bool → List Lane × Nat × Bool
  | _, [], h, hv => ([], h, hv)
  | i, (a, b) :: ls, h, hv =>
    let (h, hv) := if flag i then (0, true) else (h, hv)
    let u := unpack (laneFFmt e.fmt) a.val.toNat
    let v := unpack (laneFFmt e.fmt) b.val.toNat
    let w := unpack (laneFFmt e.fmt) h
    let (h', hv') :=
      if hv && a.ok && b.ok then
        ((roundSat (laneFFmt e.fmt) (elemRm e) e.sat (u.isInf || v.isInf || w.isInf)
          (fmaVal (elemRm e) u w v)).bits, true)
      else (h, false)
    let (rest, hN, hvN) := lrecLanes e flag (i + 1) ls h' hv'
    ((if hv' then okLane h' else Lane.bad) :: rest, hN, hvN)

/-- The recurrence across lanes, continued from token to token (R259). -/
def fireFvlrec (e : EWord) (st : UnitState) (x : Inputs) : Option Fire :=
  match x.a, x.b with
  | some a, some b =>
    if e.c != 0xFF && x.c.isNone then none
    else
      let (h, hv) := match st with
        | .lrec h hv => (h, hv)
        | _ => (0, true)
      let (h, hv) := if a.reset then (0, true) else (h, hv)
      let flag (i : Nat) : Bool := match x.c with
        | some f => f.isTrue i
        | none => false
      let n := outCount e [a, b]
      let (ls, h, hv) := lrecLanes e flag 0 ((List.range n).map fun i => (a.lane i, b.lane i)) h hv
      let (h, hv) := if a.last then (0, true) else (h, hv)
      some (fireAll e (outToken e a ls) (.lrec h hv))
  | _, _ => none

end Sys2Proof.Machine
end

