-- ==== Sys2Proof/Machine/ElemMove.lean ====
section
/-! DEFINITION. Movement, reduction and conversion elements (R260 to R270). -/

namespace Sys2Proof.Machine

/-- Lane i of a token in the element's width; an absent lane is invalid. -/
def laneTo (e : EWord) (t : Token) (i : Nat) : Lane :=
  if t.ok i then okLane (t.val i % 2 ^ laneWidth e.fmt) else Lane.bad

/-- One lane of A into every lane of a full token (R260). -/
def fireVbcast (e : EWord) (x : Inputs) : Option Fire :=
  match x.a with
  | none => none
  | some a =>
    let idx : Option Nat := if e.b == 0xFF then some e.aux.toNat else
      match x.b with
      | some b => if b.ok 0 then some (b.val 0) else none
      | none => none
    if e.b != 0xFF && x.b.isNone then none
    else
      let l := match idx with
        | some i => laneTo e a i
        | none => Lane.bad
      some (fireAll e (outToken e a (List.replicate (laneCount e.fmt) l)))

/-- A gather within a token (R261). -/
def fireVperm (e : EWord) (x : Inputs) : Option Fire :=
  match x.a, x.b with
  | some a, some b =>
    let n := min b.count (laneCount e.fmt)
    some (fireAll e (outToken e a ((List.range n).map fun i => if b.ok i then laneTo e a (b.val i) else Lane.bad)))
  | _, _ => none

/-- The valid lanes of A moved to the front; output 1 holds their number (R262). -/
def fireVpack (e : EWord) (x : Inputs) : Option Fire :=
  match x.a with
  | none => none
  | some a =>
    let ls := ((List.range (outCount e [a])).filter a.ok).map (laneTo e a)
    let t := if ls.isEmpty then { outToken e a [Lane.bad] with kind := .void } else outToken e a ls
    some { fireAll e t with out1 := some (a.control ls.length) }

/-- Lanes of A placed where the mask is true (R263). -/
def unpackLanes (mask : Nat → Bool) : Nat → Nat → List Lane → List Lane
  | _, 0, _ => []
  | i, n + 1, ls =>
    if mask i then (ls.headD Lane.bad) :: unpackLanes mask (i + 1) n ls.tail
    else Lane.bad :: unpackLanes mask (i + 1) n ls

/-- The inverse of VPACK (R263). -/
def fireVunpk (e : EWord) (x : Inputs) : Option Fire :=
  match x.a, x.b with
  | some a, some b =>
    let n := min b.count (laneCount e.fmt)
    let ls := (List.range a.count).map (laneTo e a)
    some (fireAll e (outToken e a (unpackLanes b.isTrue 0 n ls)))
  | _, _ => none

/-- A run of lanes from a start (R264). -/
def fireVslice (e : EWord) (x : Inputs) : Option Fire :=
  match x.a with
  | none => none
  | some a =>
    let s := e.konst.toNat % 2048
    let c := e.konst.toNat / 65536 % 2048
    let n := if c = 0 then laneCount e.fmt - s else c
    some (fireAll e (outToken e a ((List.range n).map fun j => laneTo e a (s + j))))

/-- A square block turned, in a fill phase and an emit phase (R265). -/
def fireCturn (e : EWord) (st : UnitState) (x : Inputs) : Option Fire :=
  let m := e.aux.toNat
  match st with
  | .emit block j =>
    let first := block.headD closedMark
    let t : Token :=
      { kind := first.kind, policy := first.policy, iter := first.iter, fmt := e.fmt,
        reset := j == 0 && first.reset, last := j + 1 == m && (block.getLastD closedMark).last,
        lanes := block.map fun q => laneTo e q j }
    some { out0 := some t, st := if j + 1 == m then .idle else .emit block (j + 1) }
  | st =>
    match x.a with
    | none => none
    | some a =>
      let block := (match st with | .fill b => b | _ => []) ++ [a]
      some { takeA := true, st := if block.length == m || a.last then .emit block 0 else .fill block }

/-- One segment reduced (R266): the result code. -/
def redSegment (e : EWord) (op : Nat) (vs : List Nat) : Nat :=
  match op with
  | 0 =>
    if fmtIsFloat e.fmt then treeSum (elemRm e) (vs.map (unpack (laneFFmt e.fmt)))
    else
      let s := vs.foldl (fun s v => s + laneInt e.fmt v) (0 : Int)
      if e.sat then clampLane e.fmt s else wrapLane e.fmt s
  | 1 =>
    if fmtIsFloat e.fmt then vs.tail.foldl (fmaxBits (laneFFmt e.fmt)) (vs.headD 0)
    else wrapLane e.fmt (vs.tail.foldl (fun s v => max s (laneInt e.fmt v)) (laneInt e.fmt (vs.headD 0)))
  | _ =>
    if fmtIsFloat e.fmt then vs.tail.foldl (fminBits (laneFFmt e.fmt)) (vs.headD 0)
    else wrapLane e.fmt (vs.tail.foldl (fun s v => min s (laneInt e.fmt v)) (laneInt e.fmt (vs.headD 0)))

/-- Reduction per segment (R266). -/
def fireVred (e : EWord) (x : Inputs) : Option Fire :=
  let op := e.aux.toNat / 16
  let n := segSize e (e.aux.toNat % 16)
  match x.a with
  | none => none
  | some a =>
    let m := outCount e [a]
    let seg (s : Nat) : Lane :=
      let idx := (List.range n).map (s * n + ·)
      if idx.all (fun i => i < m && a.ok i) then okLane (redSegment e op (idx.map a.val)) else Lane.bad
    let t := outToken e a ((List.range (ceilDiv m n)).map seg)
    some (fireAll e (if op = 0 && fmtIsFloat e.fmt then { t with fmt := 12 } else t))

/-- A constant token for each trigger (R267). -/
def fireVconst (e : EWord) (x : Inputs) : Option Fire :=
  match x.a with
  | none => none
  | some a =>
    let v := e.konst.toNat
    let n := min a.count (laneCount e.fmt)
    let ls := (List.range n).map fun i => okLane ((v + (if e.aux == 1 then i else 0)) % 2 ^ laneWidth e.fmt)
    some (fireAll e { outToken e a ls with kind := .data })

/-- The rounding mode of CVT and SCALE: RNA by aux[7] (R38). -/
def convRm (e : EWord) : Rm := if e.aux.getLsbD 7 then .rna else elemRm e

/-- CVT and SCALE (R268 to R270): the lanes of one firing, the split, and the overflow port. k is the scale exponent,
none when SCALE's exponent lane is invalid. -/
def convertFire (e : EWord) (st : UnitState) (a : Token) (src : BitVec 4) (k : Option Int) : Option Fire :=
  let total := laneCount e.fmt
  let n := a.count
  let done := match st with
    | .split q => q
    | _ => 0
  let firings := max 1 (ceilDiv n total)
  let final := done + 1 ≥ firings
  let idx := (List.range (min total (n - done * total))).map (done * total + ·)
  let res := idx.map fun i =>
    match k with
    | some k => if a.ok i then some (a.val i, convLane src e.fmt (convRm e) k (a.val i)) else none
    | none => none
  let out := res.map fun r => match r with
    | some (_, c) => if c.ok then okLane c.bits else Lane.bad
    | none => Lane.bad
  let ovs := res.map fun r => match r with
    | some (v, c) => if c.ov then okLane v else Lane.bad
    | none => Lane.bad
  let any := ovs.any Lane.ok
  let hdr : Token := { a with reset := a.reset && done == 0, last := a.last && final }
  let o1 := if !e.aux.getLsbD 0 || any then some { hdr with fmt := src, lanes := ovs } else none
  some { takeA := final, takeB := final && e.b != 0xFF, out0 := some { hdr with fmt := e.fmt, lanes := out },
         out1 := o1, st := if final then .idle else .split (done + 1) }

/-- Conversion (R268). -/
def fireCvt (e : EWord) (st : UnitState) (x : Inputs) : Option Fire :=
  match x.a with
  | none => none
  | some a => convertFire e st a x.aFmt (some 0)

/-- Conversion of a × 2^e (R270). -/
def fireScale (e : EWord) (st : UnitState) (x : Inputs) : Option Fire :=
  match x.a with
  | none => none
  | some a =>
    if e.k then convertFire e st a x.aFmt (some (signedOf 32 e.konst.toNat))
    else
      match x.b with
      | none => none
      | some b => convertFire e st a x.aFmt (if b.ok 0 then some (signedOf 32 (b.val 0)) else none)

end Sys2Proof.Machine
end

