-- ==== Sys2Proof/Machine/Attention.lean ====
section
/-! DEFINITION. Soft-maximum, mask and reducer elements (R279 to R283), and the sums of a matrix row firing (R65, R66). -/

namespace Sys2Proof.Machine

/-- An F32 value of a lane. -/
def f32Val (t : Token) (i : Nat) : FVal := unpack f32 (t.val i)

/-- Rounding to F32 by RNE. -/
def roundF32 (v : FVal) : Nat := (roundVal f32 .rne .byMode v).bits

/-- F32 1.0 and -∞. -/
def one32 : Nat := 0x3F800000
def negInf32 : Nat := 0xFF800000

/-- SMXI: the state of a head from its sink logit, and a zero accumulator (R279). -/
def fireSmxi (e : EWord) (x : Inputs) : Option Fire :=
  x.a.map fun a =>
    let ls := if a.ok 0 then [okLane (a.val 0 % 2 ^ 32), okLane one32, okLane one32]
      else [okLane negInf32, okLane 0, okLane one32]
    let d := if e.aux.toNat = 0 then 64 else e.aux.toNat
    { fireAll e (outToken e a ls) with out1 := some (outToken e a (List.replicate d (okLane 0))) }

/-- The difference x - y of R280, a NaN for ∞ - ∞. -/
def fdiff (x y : FVal) : FVal := fsum .rne [x, y.negate]

/-- SMXU: the state and the weights after one block of scores (R280). -/
def fireSmxu (e : EWord) (x : Inputs) : Option Fire :=
  match x.a, x.b with
  | some a, some b =>
    let n := b.count
    if !a.ok 0 || !a.ok 1 then
      some { fireAll e (outToken e a (List.replicate 3 Lane.bad)) with
             out1 := some (outToken e b (List.replicate n Lane.bad)) }
    else
      let scores := (List.range n).filterMap fun i => if b.ok i then some (b.val i % 2 ^ 32) else none
      let mb := scores.foldl (fmaxBits f32) negInf32
      let mp := fmaxBits f32 (a.val 0 % 2 ^ 32) mb
      let alpha := if mp = negInf32 then one32
        else (fexp2 f32 .rne false (fdiff (f32Val a 0) (unpack f32 mp))).bits
      let p (i : Nat) : Nat :=
        if mp = negInf32 then 0
        else if b.ok i then (fexp2 f32 .rne false (fdiff (f32Val b i) (unpack f32 mp))).bits else 0
      let ps := (List.range n).map p
      let s := treeSum .rne (ps.map (unpack f32))
      let l := roundF32 (fmaVal .rne (f32Val a 1) (unpack f32 alpha) (unpack f32 s))
      some { fireAll e (outToken e a [okLane mp, okLane l, okLane alpha]) with
             out1 := some (outToken e b (ps.map okLane)) }
  | _, _ => none

/-- SMXF: the accumulator divided by the denominator; the header is B's (R279). -/
def fireSmxf (e : EWord) (x : Inputs) : Option Fire :=
  match x.a, x.b with
  | some a, some b =>
    let l := f32Val a 1
    let lane (j : Nat) : Lane :=
      if b.ok j && a.ok 0 && a.ok 1 then
        if l.isNan || (f32Val b j).isNan then okLane f32.nan
        else if l.isZero && !l.negative then okLane 0
        else okLane (roundF32 ((f32Val b j).div l))
      else Lane.bad
    some (fireAll e (outToken e b ((List.range b.count).map lane)))
  | _, _ => none

/-- The fields of a position descriptor (R281). -/
def posOf (v : Nat) : Nat := v % 2 ^ 24
def segOf (v : Nat) : Nat := field v 39 24
def nodeOf (v : Nat) : Nat := field v 45 40

/-- Literal n of a mask program for query descriptor q, its ancestors, key descriptor k and window w (R281). -/
def literal (q anc k w n : Nat) : Bool :=
  let dist : Int := (posOf q : Int) - posOf k
  match n with
  | 0 => posOf k ≤ posOf q
  | 1 => posOf q < posOf k
  | 2 => posOf k = posOf q
  | 3 => dist < (w : Int)
  | 4 => (w : Int) ≤ dist
  | 5 => segOf k = segOf q
  | 6 => segOf k ≠ segOf q
  | 7 => segOf k = 0
  | 8 => nodeOf k = nodeOf q
  | 9 => nodeOf k ≠ nodeOf q
  | 10 => anc.testBit (nodeOf k)
  | _ => !anc.testBit (nodeOf k)

/-- Whether term t of a program is enabled and true (R282). -/
def termTrue (prog q anc k t : Nat) : Bool :=
  let w := if field prog 63 52 = 0 then 4096 else field prog 63 52
  let lits := field prog (12 * t + 11) (12 * t)
  prog.testBit (48 + t) && (List.range 12).all fun n => !lits.testBit n || literal q anc k w n

/-- PRED: one mask token per query and key block (R282). -/
def firePred (e : EWord) (x : Inputs) : Option Fire :=
  match x.a, x.c with
  | some a, some c =>
    let q := a.val 0
    let lane (j : Nat) : Lane :=
      let k := c.val j
      if a.ok 0 && a.ok 1 && c.ok j && q < 2 ^ 46 && k < 2 ^ 46 then
        okLane (b2n ([0, 1, 2, 3].any (termTrue e.konst.toNat q (a.val 1) k)))
      else Lane.bad
    some (fireAll e (outToken e c ((List.range c.count).map lane)))
  | _, _ => none

/-- A lane as a reducer folds it: an integer, or a float's code (R283). -/
def foldLaneOf (e : EWord) (l : Lane) : FoldLane :=
  if fmtIsFloat e.fmt then ⟨(l.val.toNat % 2 ^ 32 : Nat), l.ok⟩ else ⟨laneInt e.fmt l.val.toNat, l.ok⟩

/-- One fold of R69 with op sum, max or min. -/
def foldOp (e : EWord) (p q : FoldLane) : FoldLane :=
  let ok := p.ok && q.ok
  if fmtIsFloat e.fmt then
    let u := p.acc.toNat
    let v := q.acc.toNat
    let r := match e.aux.toNat % 4 with
      | 0 => (roundVal f32 (elemRm e) .byMode (fsum (elemRm e) [unpack f32 u, unpack f32 v])).bits
      | 1 => fmaxBits f32 u v
      | _ => fminBits f32 u v
    ⟨r, ok⟩
  else
    ⟨match e.aux.toNat % 4 with
      | 0 => p.acc + q.acc
      | 1 => max p.acc q.acc
      | _ => min p.acc q.acc, ok⟩

/-- The lanes a token contributes: all, or one reduced across the token (R283). -/
def foldInput (e : EWord) (a : Token) : List FoldLane :=
  let ls := a.lanes.map (foldLaneOf e)
  if e.aux.getLsbD 2 then
    let ok := ls.all (·.ok)
    if fmtIsFloat e.fmt && e.aux.toNat % 4 == 0 then
      [⟨treeSum (elemRm e) (ls.map fun l => unpack f32 l.acc.toNat), ok⟩]
    else
      match ls with
      | [] => []
      | l :: r => [{ r.foldl (foldOp e) l with ok := ok }]
  else ls

/-- The running lanes with a later token folded in: lanes beyond the running count are discarded (R283). -/
def foldIn (e : EWord) : List FoldLane → List FoldLane → List FoldLane
  | r :: rs, t :: ts => foldOp e r t :: foldIn e rs ts
  | rs, [] => rs
  | [], _ => []

/-- A folded lane as it is emitted (R283). -/
def foldOut (e : EWord) (l : FoldLane) : Lane :=
  if !l.ok then Lane.bad
  else if fmtIsFloat e.fmt then okLane l.acc.toNat
  else narrow e e.sat l.acc

/-- RED: a group of tokens folded into one (R283). -/
def fireRed (e : EWord) (st : UnitState) (x : Inputs) : Option Fire :=
  x.a.map fun a =>
    let input := foldInput e a
    let (count, reset, lanes) := match st with
      | .fold count reset lanes => if a.reset then (1, true, input) else (count + 1, reset, foldIn e lanes input)
      | _ => (1, a.reset, input)
    let g := e.aux.toNat / 8 % 16
    if a.last || (g != 0 && count == g) then
      { takeA := true, st := .idle,
        out0 := some { outToken e a (lanes.map (foldOut e)) with reset := reset } }
    else { takeA := true, st := .fold count reset lanes }

/-- One chunk of a float row: the accumulator and its terms summed exactly, then rounded (R65). -/
def chunkSum (acc : FVal) (terms : List FVal) : FVal :=
  unpack f32 (roundF32 (fsum .rne (acc :: terms)))

/-- The column sum of a float row over its chunks (R65). -/
def rowSum (acc : FVal) (chunks : List (List FVal)) : FVal := chunks.foldl chunkSum acc

end Sys2Proof.Machine
end

