-- ==== Sys2Proof/Machine/RegionOps.lean ====
section
/-! DEFINITION. Links of a region (R226 to R230, R237): heads, slots, placing, demand, squash. -/

namespace Sys2Proof.Machine

/-- A link that no configuration declares. -/
def Link.none_ : Link := { fmt := 0, slots := 0 }

def Region.link (r : Region) (i : Nat) : Link := r.links.getD i Link.none_

def Region.setLink (r : Region) (i : Nat) (l : Link) : Region := { r with links := r.links.set i l }

def Region.cell (r : Region) (c : Nat) : Cell := r.cells.getD c {}

def Region.setCell (r : Region) (c : Nat) (x : Cell) : Region := { r with cells := r.cells.set c x }

/-- The squash mask (R237); none set outside a permit loop. -/
def Region.mask (r : Region) : BitVec 8 :=
  match r.permit with
  | some p => p.mask
  | none => 0

/-- A queue without the masked tokens that head it (R237). -/
def dropMasked (mask : BitVec 8) : List (List Token) → List (List Token)
  | [] => []
  | slot :: rest =>
    match slot with
    | [] => dropMasked mask rest
    | t :: _ => if mask.getLsbD t.iter then dropMasked mask rest else slot :: rest

/-- Scope links without masked heads (R237). -/
def Region.squash (r : Region) : Region :=
  { r with links := r.links.map fun (l : Link) => if l.scope then { l with queue := dropMasked r.mask l.queue } else l }

/-- The head token of a link: never a closed mark (R230). -/
def Link.head (l : Link) : Option Token :=
  match l.queue with
  | (t :: _) :: _ => some t
  | _ => none

/-- Whether a closed mark stands at the head (R230). -/
def Link.atClosed (l : Link) : Bool := l.queue.isEmpty && l.closed

/-- The link without its head token; the slot frees with its last piece (R228). -/
def Link.pop (l : Link) : Link :=
  match l.queue with
  | (_ :: []) :: rest => { l with queue := rest }
  | (_ :: ps) :: rest => { l with queue := ps :: rest }
  | [] :: rest => { l with queue := rest }
  | [] => l

/-- The head of a unit's input: none at 0xFF. -/
def Region.headAt (r : Region) (f : BitVec 8) : Option Token := if f = 0xFF then none else (r.link f.toNat).head

/-- A head consumed, and what then heads the link squashed. -/
def Region.take (r : Region) (f : BitVec 8) : Region :=
  if f = 0xFF then r else (r.setLink f.toNat (r.link f.toNat).pop).squash

/-- The links a producer of link i writes: the link and its attached branches (R229). -/
def Region.branches (r : Region) (i : Nat) : List Nat :=
  (List.range r.links.length).filter fun j =>
    let l := r.link j
    (j == i || l.root == some i) && !l.detached

/-- A free slot; a direct link passes its token within the step (R226). -/
def Link.room (l : Link) : Bool := l.slots == 0 || decide (l.queue.length < l.slots)

/-- The element or router word of a unit. -/
def Cell.unitInstr (c : Cell) (router : Bool) : Option Instr := if router then c.router else c.elem

/-- The fields of a unit's word. -/
def instrWord (i : Option Instr) : Option EWord :=
  match i with
  | some i => (elemOp i).map (·.2)
  | none => none

def Region.wordOf (r : Region) (u : UnitRef) : Option EWord := instrWord ((r.cell u.cell).unitInstr u.router)

/-- The output fields of a word that name links. -/
def outLinks (e : EWord) : List Nat := ([e.o0, e.o1].filter (· ≠ 0xFF)).map BitVec.toNat

/-- Unfilled requests on a demand link (R227): one for each free slot, or for each firing its consumer intends where all the
consumer's outputs are demand links, less the tokens that already wait for it. -/
def Region.want (r : Region) : Nat → Nat → Nat
  | 0, _ => 0
  | n + 1, i =>
    let l := r.link i
    let room := if l.slots = 0 then 1 else l.slots - l.queue.length
    match l.cons.bind r.wordOf with
    | none => room
    | some e =>
      let outs := outLinks e
      if outs.isEmpty || outs.any (fun o => !(r.link o).demand) then room
      else min room ((outs.map fun o => r.want n o).foldl min 1024 - l.queue.length)

/-- Whether a step may write a link: a free slot in every attached branch, a request on every demand branch (R226). -/
def Region.mayWrite (r : Region) (i : Nat) : Bool :=
  (r.branches i).all fun j =>
    let l := r.link j
    l.room && (!l.demand || l.slots == 0 || decide (0 < r.want (r.links.length + 1) j))

def Region.mayWriteAt (r : Region) (f : BitVec 8) : Bool := f = 0xFF || r.mayWrite f.toNat

/-- A token as a link holds it: converted as it leaves and as it arrives (R228). -/
def Link.arrive (l : Link) (t : Token) : List Token :=
  let ps := convertToken l.fmt t
  match l.consFmt with
  | none => ps
  | some f => ps.flatMap (convertToken f)

/-- A router's tokens keep their format on a link whose format is theirs; a token is placed at the tail of a link. -/
def Link.put (l : Link) (t : Token) : Link := { l with queue := l.queue ++ [l.arrive t] }

/-- A token put into links. -/
def Region.putAll (r : Region) (t : Token) : List Nat → Region
  | [] => r
  | j :: js => (r.setLink j ((r.link j).put t)).putAll t js

/-- A token placed on a link and its attached branches; the group's stall timer restarts, and the
drain detector counts afresh (R229, R230, R238). -/
def Region.place (r : Region) (i : Nat) (t : Token) : Region :=
  ({ r with stalls := r.stalls.filter (·.1 ≠ i), quiet := 0 }.putAll t (r.branches i)).squash

/-- A token placed on an output, or discarded at 0xFF (R226). -/
def Region.placeAt (r : Region) (f : BitVec 8) (t : Option Token) : Region :=
  match t with
  | none => r
  | some t => if f = 0xFF then r else r.place f.toNat t

/-- A unit of a loaded configuration. -/
structure UnitAt where
  core : Nat
  region : Nat
  cell : Nat
  router : Bool
  deriving DecidableEq, Repr

def State.region (s : State) (core n : Nat) : Option Region := (s.core core).regions.get? n

def State.setRegion (s : State) (core n : Nat) (r : Region) : State :=
  s.modCore core fun c => { c with regions := c.regions.set n r }

def State.modRegion (s : State) (core n : Nat) (f : Region → Region) : State :=
  match s.region core n with
  | some r => s.setRegion core n (f r)
  | none => s

/-- The word of a unit, with its instruction. -/
def State.unitInstr (s : State) (u : UnitAt) : Option Instr :=
  match s.region u.core u.region with
  | none => none
  | some r => (r.cell u.cell).unitInstr u.router

/-- A unit's state. -/
def Cell.unitState (c : Cell) (router : Bool) : UnitState := if router then c.rst else c.est

def Cell.setUnitState (c : Cell) (router : Bool) (st : UnitState) : Cell :=
  if router then { c with rst := st } else { c with est := st }

/-- The heads of a unit's inputs (R245). -/
def Region.inputs (r : Region) (e : EWord) : Inputs :=
  { a := r.headAt e.a, b := if e.k then none else r.headAt e.b, c := r.headAt e.c, aFmt := (r.link e.a.toNat).fmt }

/-- The region after a firing: heads consumed, tokens placed, the unit's state kept. Inputs are consumed before outputs are
placed, so that a unit may feed itself. -/
def Region.applyFire (r : Region) (u : UnitAt) (e : EWord) (f : Fire) : Region :=
  let r1 := if f.takeA then r.take e.a else r
  let r2 := if f.takeB && !e.k then r1.take e.b else r1
  let r3 := if f.takeC then r2.take e.c else r2
  let r4 := r3.setCell u.cell ((r3.cell u.cell).setUnitState u.router f.st)
  (r4.placeAt e.o0 f.out0).placeAt e.o1 f.out1

/-- Whether the outputs a firing writes may be written. -/
def Region.fireRoom (r : Region) (e : EWord) (f : Fire) : Bool :=
  (f.out0.isNone || r.mayWriteAt e.o0) && (f.out1.isNone || r.mayWriteAt e.o1)

/-- What a unit's firing is, from the state, the region, the unit's place and state, and its heads; with what it does beyond
its region. -/
abbrev FireFn := State → UnitAt → Region → UnitState → Inputs → Option (Fire × (State → State))

/-- A unit's step, none where it cannot fire now. -/
abbrev UnitStep := State → UnitAt → Option State

/-- A firing as a step (R226). -/
def State.fireStep (e : EWord) (fn : FireFn) : UnitStep := fun s u =>
  match s.region u.core u.region with
  | none => none
  | some r =>
    match fn s u r ((r.cell u.cell).unitState u.router) (r.inputs e) with
    | none => none
    | some (f, eff) =>
      if r.fireRoom e f then some (eff (s.setRegion u.core u.region (r.applyFire u e f))) else none

/-- A firing that reads and changes only its links and its unit's state. -/
def pureStep (e : EWord) (fire : UnitState → Inputs → Option Fire) : UnitStep :=
  State.fireStep e fun _ _ _ st x => (fire st x).map fun f => (f, id)

/-! ### Port links -/

/-- The loaded region of a context and the link that binds a port (R239). -/
def CoreState.portLink (c : CoreState) (ctx : Nat) (b : Binding) : Option (Nat × Nat) :=
  c.regions.findSome? fun x =>
    if x.2.ctx = ctx then
      ((List.range x.2.links.length).find? fun i => (x.2.link i).binding = b).map fun i => (x.1, i)
    else none

/-- Whether a port is bound by a region of a context that is frozen, its restoration to come: what needs the port waits for it
(R381, R420). -/
def CoreState.portAway (c : CoreState) (ctx : Nat) (b : Binding) : Bool :=
  c.frozen.any fun f => f.ctx = ctx && f.regions.any fun r => r.links.any fun (l : Link) => decide (l.binding = b)

/-- Whether a configuration of a context binds a port, loaded or frozen. -/
def CoreState.binds (c : CoreState) (ctx : Nat) (b : Binding) : Bool := (c.portLink ctx b).isSome || c.portAway ctx b

/-- Requests that a port link leaves for its feeder: its free slots, or its unfilled requests (R149, R227). -/
def Region.portRoom (r : Region) (i : Nat) : Nat :=
  let l := r.link i
  if l.demand then r.want (r.links.length + 1) i else l.slots - l.queue.length

/-- Whether a port may take a token of a feeder: inside a row, only of its own (R239). -/
def Port.accepts (p : Port) (f : Feeder) : Bool := p.feeder.isNone || p.feeder = some f

/-- The port held by a feeder inside a row, free after its last token (R239). -/
def Port.took (p : Port) (f : Feeder) (t : Token) : Port := { p with feeder := if t.last then none else some f }

def CoreState.port (c : CoreState) (n : Nat) : Port := c.ports.getD n {}

def CoreState.setPort (c : CoreState) (n : Nat) (p : Port) : CoreState := { c with ports := c.ports.set n p }

/-- Whether a feeder may place a token now on an input port. -/
def State.feedable (s : State) (core port region link : Nat) (f : Feeder) : Bool :=
  match s.region core region with
  | none => false
  | some r => ((s.core core).port port).accepts f && decide (0 < r.portRoom link)

/-- A token placed on an input port's link by a feeder (R239). -/
def State.feed (s : State) (core port region link : Nat) (f : Feeder) (t : Token) : State :=
  (s.modRegion core region fun r => r.place link t).modCore core fun c => c.setPort port ((c.port port).took f t)

end Sys2Proof.Machine
end

