-- ==== Sys2Proof/Machine/Walk.lean ====
section
/-! DEFINITION. Walks of shape records (R144 to R148): rows, elements, their places in memory, what a walk reads and what its
stores write. -/

namespace Sys2Proof.Machine

/-- Extent j of a shape: 1 above ndims (R144). -/
def Shape.extent (sh : Shape) (j : Nat) : Nat := if j ≤ sh.ndims then sh.ext.getD (j - 1) 0 else 1

/-- Stride j of a shape: 0 above ndims (R144). -/
def Shape.stride (sh : Shape) (j : Nat) : Int := if j ≤ sh.ndims then sh.str.getD (j - 1) 0 else 0

/-- Lanes a token (R144). -/
def Shape.perToken (sh : Shape) : Nat := if sh.lanes = 0 then laneCount sh.fmt else sh.lanes

/-- Base + d modulo 2^64 (R145). -/
def addInt (base : Dword) (d : Int) : Dword := base + dw (lowBits 64 d)

/-- Rows of the walk of R145. -/
def Shape.rows (sh : Shape) : Nat := sh.extent 2 * sh.extent 3 * sh.extent 4 * sh.extent 5

/-- The base of row n, i2 fastest (R145). -/
def Shape.rowBase (sh : Shape) (n : Nat) : Dword :=
  let i2 := n % sh.extent 2
  let i3 := n / sh.extent 2 % sh.extent 3
  let i4 := n / sh.extent 2 / sh.extent 3 % sh.extent 4
  let i5 := n / sh.extent 2 / sh.extent 3 / sh.extent 4
  addInt sh.base (i2 * sh.stride 2 + i3 * sh.stride 3 + i4 * sh.stride 4 + i5 * sh.stride 5)

/-- The row of an index (R154). -/
def Shape.indexRow (sh : Shape) (v : Int) : Dword := addInt sh.base (v * sh.stride 2)

/-- Whether a format is packed in its row (R145). -/
def packedFmt (f : BitVec 4) : Bool := f = 13 || f = 14 || f = 15

/-- Where an element lies: its bytes, its place in them, and whether its row's start is aligned (R145). -/
structure ElemAt where
  va : Dword
  bytes : Nat
  bit : Nat
  width : Nat
  aligned : Bool
  deriving DecidableEq, Repr

/-- What a lane of a walk holds: an element of memory, a padding zero (R148), or an invalid lane (R154). -/
inductive ElemSrc where
  | mem (e : ElemAt)
  | zero
  | bad
  deriving DecidableEq, Repr

/-- Element j of a row at stride 1, or packed (R145). -/
def rowElem (f : BitVec 4) (row : Dword) (stride : Int) (j : Nat) : ElemAt :=
  let w := laneWidth f
  if packedFmt f then
    let ok := row.toNat % 4 = 0
    if f = 14 then ⟨row + dw (4 * (j / 5)), 4, 6 * (j % 5), 6, ok⟩ else ⟨row + dw (j / 2), 1, 4 * (j % 2), 4, ok⟩
  else
    let a := addInt row (j * stride)
    ⟨a, w / 8, 0, w, a.toNat % (w / 8) = 0⟩

/-- Element n of the walk of R145, in iteration order. -/
def Shape.elem (sh : Shape) (n : Nat) : ElemAt :=
  rowElem sh.fmt (sh.rowBase (n / sh.extent 1)) (sh.stride 1) (n % sh.extent 1)

/-- Elements of a row of the virtual A matrix (R148). -/
def Shape.unfoldCols (sh : Shape) : Nat := sh.kh * sh.kw * sh.extent 1

/-- Rows of the virtual A matrix. -/
def Shape.unfoldRows (sh : Shape) : Nat := sh.extent 4 * sh.extent 5

/-- Element n of the virtual A matrix, in row order (R148). -/
def Shape.unfoldElem (sh : Shape) (n : Nat) : ElemSrc :=
  let c1 := sh.extent 1
  let r := n / sh.unfoldCols
  let j := n % sh.unfoldCols
  let oy := r / sh.extent 4
  let ox := r % sh.extent 4
  let c := j % c1
  let kx := j / c1 % sh.kw
  let ky := j / c1 / sh.kw
  let iy : Int := (oy * sh.sy + ky * sh.dy : Nat) - (sh.py : Int)
  let ix : Int := (ox * sh.sx + kx * sh.dx : Nat) - (sh.px : Int)
  if 0 ≤ iy ∧ iy < sh.extent 3 ∧ 0 ≤ ix ∧ ix < sh.extent 2 then
    .mem (rowElem sh.fmt (addInt sh.base (ix * sh.stride 2 + iy * sh.stride 3)) (sh.stride 1) c)
  else .zero

/-- Lanes of the token that begins at position j of a row of n elements (R145). -/
def tokenLanes (perToken n j : Nat) : Nat := min perToken (n - j)

/-- The fault of an element before its translation: cause 0x04 for bits [63:56], 0x02 for alignment (R145). -/
def ElemAt.fault (e : ElemAt) : Option Nat :=
  if 2 ^ 56 ≤ e.va.toNat then some 0x04 else if e.aligned then none else some 0x02

/-- An element translated for an engine: its PA, or the cause. A walk that meets poison gives 0x07 (R386). -/
def State.elemXlat (s : State) (ctx : Nat) (acc : Access) (e : ElemAt) : Except Nat Nat :=
  match e.fault with
  | some c => .error c
  | none => s.engineXlat ctx e.va.toNat acc

/-- A lane located: its element with its PA, or what it holds without memory. -/
inductive Located where
  | at_ (e : ElemAt) (pa : Nat)
  | zero
  | bad
  deriving DecidableEq, Repr

/-- Lanes located in order; or the lane that stops, its cause and VA. -/
def State.locate (s : State) (ctx : Nat) (acc : Access) : Nat → List ElemSrc → Except (Nat × Nat × Dword) (List Located)
  | _, [] => .ok []
  | k, x :: xs =>
    match x with
    | .mem e =>
      match s.elemXlat ctx acc e with
      | .error c => .error (k, c, e.va)
      | .ok pa =>
        match s.locate ctx acc (k + 1) xs with
        | .error f => .error f
        | .ok ls => .ok (.at_ e pa :: ls)
    | .zero =>
      match s.locate ctx acc (k + 1) xs with
      | .error f => .error f
      | .ok ls => .ok (.zero :: ls)
    | .bad =>
      match s.locate ctx acc (k + 1) xs with
      | .error f => .error f
      | .ok ls => .ok (.bad :: ls)

/-- The pieces of located lanes, for residency: (VA, PA, bytes). -/
def locatedPieces (ls : List Located) : List (Nat × Nat × Nat) :=
  ls.filterMap fun l => match l with
    | .at_ e pa => some (e.va.toNat, pa, e.bytes)
    | _ => none

/-- Lines that pieces touch, each once. -/
def piecesLines (ps : List (Nat × Nat × Nat)) : Nat := ((ps.map fun p => p.2.1 / 128).eraseDups).length

/-- A lane as memory gives it: invalid where its line is poisoned (R149). -/
def State.readLane (s : State) (l : Located) : Lane :=
  match l with
  | .zero => ⟨0, true⟩
  | .bad => Lane.bad
  | .at_ e pa =>
    if s.poisoned pa e.bytes then Lane.bad else ⟨dw (field (s.mem.readN pa e.bytes) (e.bit + e.width - 1) e.bit), true⟩

/-- Whether a located lane is poisoned. -/
def State.lanePoisoned (s : State) (l : Located) : Bool :=
  match l with
  | .at_ e pa => s.poisoned pa e.bytes
  | _ => false

/-- One element written at its slice. -/
def State.writeElem (s : State) (w : ElemWrite) : State :=
  s.store w.pa (leBytes w.bytes (setField (s.mem.readN w.pa w.bytes) (w.bit + w.width - 1) w.bit w.code))

def State.writeElems (s : State) : List ElemWrite → State
  | [] => s
  | w :: ws => (s.writeElem w).writeElems ws

/-- The elements that lie in one line with the first. -/
def samePrefix (line : Nat) : List ElemWrite → List ElemWrite
  | [] => []
  | w :: ws => if w.pa / 128 = line then w :: samePrefix line ws else []

/-- The bytes of one line that writes cover. -/
def writesMask (ws : List ElemWrite) : LineMask := ws.foldl (fun m w => m ||| byteMask (w.pa % 128) w.bytes) 0

/-- The oldest of pending stores that R237 does not hold sends its next line to its slice: written where the line is resident,
requested where it is not (R78, R143). Gives the stores that remain. -/
def State.acceptStores (s : State) (ctx : Nat) (blocked : PendStore → Bool) : List PendStore → List PendStore × State
  | [] => ([], s)
  | p :: ps =>
    if blocked p then
      let r := s.acceptStores ctx blocked ps
      (p :: r.1, r.2)
    else
      match p.writes with
      | [] => (ps, s)
      | w :: ws =>
        let line := w.pa / 128
        let now := samePrefix line (w :: ws)
        let va : Dword := dw (w.va.toNat / 128 * 128)
        if !isMain w.pa then
          (let rest := (w :: ws).drop now.length
           if rest.isEmpty then ps else { p with writes := rest } :: ps, s.writeElems now)
        else if s.resident line then
          let rest := (w :: ws).drop now.length
          let s1 := ((s.writeElems now).markDirty line).messageEvent line ctx va (writesMask now)
          (if rest.isEmpty then ps else { p with writes := rest } :: ps, s1)
        else (p :: ps, s.requestLine line ctx va)

end Sys2Proof.Machine
end

