-- ==== Sys2Proof/Machine/Image.lean ====
section
/-! DEFINITION. The configuration image (R221 to R225): its sections, the checks of CFG (R41, R144, R190, R191, R208, R225,
R231, R245, R271, R273), and the region it makes. -/

namespace Sys2Proof.Machine

/-! ### Sections (R221 to R223) -/

/-- The image header's counts and sizes. -/
structure ImgHeader where
  w : Nat
  h : Nat
  k : Nat
  loops : Nat
  bufs : Nat
  ranges : Nat
  subs : Nat
  shapes : Nat
  cells : Nat
  links : Nat
  stall : Nat
  length : Nat
  deriving DecidableEq, Repr

/-- An element or router word of an image: the cell, the offsets of its record and of the word, the word and constant. -/
structure ImgUnit where
  ref : UnitRef
  recOff : Nat
  off : Nat
  word : Dword
  konst : Dword
  deriving DecidableEq, Repr

/-- A cell record: its offset and first doubleword. -/
structure ImgCell where
  off : Nat
  dw0 : Nat
  deriving DecidableEq, Repr

/-- An image cut into its sections, each record with its offset. -/
structure Image where
  hdr : ImgHeader
  subs : List (Nat × Nat)
  links : List (Nat × Nat)
  cells : List ImgCell
  units : List ImgUnit
  /-- 512 bits each -/
  shapes : List (Nat × Nat)
  /-- 256 bits each -/
  ranges : List (Nat × Nat)
  /-- 128 bits each -/
  bufs : List (Nat × Nat)
  loops : List (Nat × Nat)
  deriving DecidableEq, Repr

def within (lo hi x : Nat) : Bool := decide (lo ≤ x) && decide (x ≤ hi)

/-- The header of an image's first eight doublewords, where its counts lie in range and its reserved bits are 0 (R221). -/
def imgHeader (ds : List Nat) : Option ImgHeader :=
  let d (i : Nat) : Nat := ds.getD i 0
  let h : ImgHeader :=
    { w := field (d 0) 19 16, h := field (d 0) 23 20, k := field (d 1) 58 56, loops := field (d 1) 55 48,
      bufs := field (d 1) 47 40, ranges := field (d 1) 39 32, subs := field (d 1) 31 24, shapes := field (d 1) 23 16,
      cells := field (d 1) 15 8, links := field (d 1) 7 0, stall := field (d 2) 15 0, length := field (d 0) 63 32 }
  if field (d 0) 31 24 = 0 && field (d 0) 15 0 = 1 && field (d 1) 63 59 = 0 && field (d 2) 63 16 = 0
      && [3, 4, 5, 6, 7].all (fun i => d i = 0)
      && within 1 8 h.w && within 1 8 h.h && within 0 6 h.loops && within 0 16 h.bufs && within 0 16 h.ranges
      && within 1 8 h.subs && within 0 16 h.shapes && within 1 64 h.cells && within 1 64 h.links then some h
  else none

/-- Doublewords of a list as one number, the first lowest. -/
def packDwords : List Nat → Nat
  | [] => 0
  | d :: t => d % 2 ^ 64 + 2 ^ 64 * packDwords t

/-- n records of k doublewords from an index: (offset, value). -/
def imgRecords (ds : List Nat) (k : Nat) : Nat → Nat → List (Nat × Nat)
  | _, 0 => []
  | i, n + 1 => (8 * i, packDwords ((ds.drop i).take k)) :: imgRecords ds k (i + k) n

/-- n cell records from an index, the units they hold, and the index behind them (R223). -/
def imgCells (ds : List Nat) : Nat → Nat → List ImgCell × List ImgUnit × Nat
  | i, 0 => ([], [], i)
  | i, n + 1 =>
    let d := ds.getD i 0
    let c := field d 5 0
    let hasE := bitN d 8 = 1
    let hasR := bitN d 9 = 1
    let ew := ds.getD (i + 1) 0
    let hasK := hasE && bitN ew 51 = 1
    let ri := i + 1 + b2n hasE + b2n hasK
    let es : List ImgUnit :=
      if hasE then [⟨⟨c, false⟩, 8 * i, 8 * (i + 1), dw ew, if hasK then dw (ds.getD (i + 2) 0) else 0⟩] else []
    let rs : List ImgUnit := if hasR then [⟨⟨c, true⟩, 8 * i, 8 * ri, dw (ds.getD ri 0), 0⟩] else []
    let r := imgCells ds (ri + b2n hasR) n
    (⟨8 * i, d⟩ :: r.1, es ++ rs ++ r.2.1, r.2.2)

/-- The sections of an image, where their sum is its length (R221, R225). -/
def imgSections (ds : List Nat) : Option Image :=
  match imgHeader ds with
  | none => none
  | some h =>
    let i1 := 8 + h.subs
    let i2 := i1 + h.links
    let cs := imgCells ds i2 h.cells
    let i3 := cs.2.2
    let i4 := i3 + 8 * h.shapes
    let i5 := i4 + 4 * h.ranges
    let i6 := i5 + 2 * h.bufs
    if 8 * (i6 + h.loops) = h.length ∧ h.length = 8 * ds.length then
      some { hdr := h, subs := imgRecords ds 1 8 h.subs, links := imgRecords ds 1 i1 h.links, cells := cs.1, units := cs.2.1,
             shapes := imgRecords ds 8 i3 h.shapes, ranges := imgRecords ds 4 i4 h.ranges,
             bufs := imgRecords ds 2 i5 h.bufs, loops := imgRecords ds 1 i6 h.loops }
    else none

/-! ### Records as the machine keeps them -/

def subOf (d : Nat) : SubRegion :=
  { x0 := field d 2 0, y0 := field d 5 3, w := field d 8 6 + 1, h := field d 11 9 + 1,
    kind := match field d 13 12 with
      | 1 => .ag
      | 2 => .reducer
      | _ => .pipeline
    step := field d 16 14 }

/-- A shape record (R144). -/
def shapeOf (v : Nat) : Shape :=
  { base := dw (field v 63 0)
    ext := (List.range 5).map fun j => field v (95 + 32 * j) (64 + 32 * j)
    str := (List.range 5).map fun j => signedOf 40 (field v (295 + 40 * j) (256 + 40 * j))
    lanes := field v 242 232
    ndims := field v 230 228
    fmt := BitVec.ofNat 4 (field v 227 224)
    kw := field v 463 460
    kh := field v 459 456
    sx := field v 471 468
    sy := field v 467 464
    dx := field v 479 476
    dy := field v 475 472
    px := field v 487 484
    py := field v 483 480 }

/-- A shape record's own checks (R144). -/
def shapeOk (v : Nat) : Bool :=
  let sh := shapeOf v
  field v 63 56 = 0 && field v 255 243 = 0 && bitN v 231 = 0 && field v 511 488 = 0 && within 1 5 sh.ndims
    && decide (sh.lanes ≤ laneCount sh.fmt) && (!packedFmt sh.fmt || sh.str.getD 0 0 == 0)

/-- Whether a record may be unfolded (R144, R148). -/
def Shape.unfolds (sh : Shape) : Bool :=
  sh.ndims = 5 && sh.kw ≠ 0 && sh.kh ≠ 0 && sh.sx ≠ 0 && sh.sy ≠ 0 && sh.dx ≠ 0 && sh.dy ≠ 0

/-- The owners of a memory range (R223): the bytes before 0xFF. -/
def ownersOf (d : Nat) : List Nat :=
  (((List.range 8).map fun j => field d (8 * j + 7) (8 * j)).takeWhile (· ≠ 0xFF))

def rangeOf (v : Nat) : MemRange := { base := dw (field v 63 0), length := field v 127 64, owners := ownersOf (field v 191 128) }

def bufOf (v : Nat) : BufRange :=
  { buf := match field v 1 0 with
      | 0 => .w
      | 1 => .a
      | _ => .c
    start := field v 95 64
    length := field v 127 96
    writer := field v 13 8 }

/-- A typed buffer's bytes (R189); state slots are cut from the top of A (R190). -/
def Buf.size (slots : Nat) : Buf → Nat
  | .w => 0x100000
  | .a => 0x80000 - 512 * slots
  | .c => 0x40000

def BufRange.overlaps (x y : BufRange) : Bool :=
  x.buf = y.buf && decide (x.start < y.start + y.length) && decide (y.start < x.start + x.length)

/-! ### Units of an image -/

/-- A unit's word decoded: a router word holds a router operator, an element word none (R41, R231). -/
def ImgUnit.instr (u : ImgUnit) : Option Instr :=
  let op := u.word.toNat / 2 ^ 56
  if within 0x70 0x76 op != u.ref.router then none
  else match decodeElement u.word u.konst with
    | .ok i => some i
    | .error _ => none

def ImgUnit.op (u : ImgUnit) : Nat := u.word.toNat / 2 ^ 56

def ImgUnit.e (u : ImgUnit) : EWord := ewordOf u.word u.konst

/-- The links a word reads and writes: input number or output number, link. -/
def ImgUnit.ins (u : ImgUnit) (nl : Nat) : List (Nat × Nat) :=
  [(0, u.e.a.toNat), (1, u.e.b.toNat), (2, u.e.c.toNat)].filter fun p => decide (p.2 < nl)

def ImgUnit.outs (u : ImgUnit) (nl : Nat) : List Nat := [u.e.o0.toNat, u.e.o1.toNat].filter (· < nl)

/-- Formats of integers (R49). -/
def intFmt (f : BitVec 4) : Bool := !fmtIsFloat f

/-- Inputs read in their own link's format (R231, R245, R261, R270, R271, R154): none where the input is converted, else
what the entry asks of the link's format. -/
def rawInput (op : Nat) (e : EWord) (inp : Nat) (f : BitVec 4) : Option Bool :=
  match op, inp with
  | 0x15, 0 => some (intFmt f && laneWidth f == laneWidth e.fmt)
  | 0x17, 2 => some (intFmt f)
  | 0x2E, 2 => some (intFmt f)
  | 0x43, 1 => some (intFmt f)
  | 0x40, 1 => some (intFmt f)
  | 0x41, 1 => some (f == 5)
  | 0x47, 0 => some true
  | 0x60, 0 => some true
  | 0x61, 0 => some true
  | 0x61, 1 => some (f == 2)
  | 0x70, 0 => some (e.aux == 1 || intFmt f)
  | 0x71, 0 => some (intFmt f)
  | 0x73, 1 => some (intFmt f)
  | 0x74, 1 => some (intFmt f)
  | 0x75, 2 => some (intFmt f)
  | 0x81, 1 => some (f == 6 || f == 7)
  | 0x82, 0 => some (f == 7)
  | 0x83, 0 => some (f == 7)
  | 0x93, _ => some (f == 7)
  | 0xA1, 0 => some (f == 6 || f == 7)
  | 0xA2, 1 => some (f == 6 || f == 7)
  | 0xB0, _ => some true
  | 0xB1, 0 => none
  | 0xB1, _ => some true
  | 0xB2, 0 => some (f == 2 || f == 3 || f == 6 || f == 7)
  | 0xB2, 1 => none
  | 0xB2, _ => some true
  | 0xB3, _ => some true
  | 0xB4, 0 => none
  | 0xB4, _ => some true
  | _, _ => if within 0x70 0x76 op then some true else none

/-- The data links of a router operator (R231). -/
def routerData (op : Nat) (e : EWord) : List Nat :=
  let fs : List (BitVec 8) := match op with
    | 0x70 => if e.aux == 1 then [e.a, e.o0, e.o1] else [e.b, e.o0, e.o1]
    | 0x71 => [e.b, e.c, e.o0]
    | 0x72 => [e.b, e.c, e.o0]
    | 0x73 => [e.a, e.c, e.o0]
    | 0x74 => [e.a, e.o0]
    | 0x75 => [e.a, e.o0]
    | _ => []
  fs.map BitVec.toNat

/-- The data link of an AG that must have its record's format (R144, R153). -/
def agData (op : Nat) (e : EWord) : Option Nat :=
  match op with
  | 0xB0 => some e.o0.toNat
  | 0xB1 => some e.a.toNat
  | 0xB2 => some (if e.aux.getLsbD 4 then e.b.toNat else e.o0.toNat)
  | 0xB3 => some e.o0.toNat
  | _ => none

/-- The sub-region kind an operation must lie in, if any (R224, R271). -/
def subKindOf (op : Nat) : Option SubKind :=
  if within 0xB0 0xB4 op then some .ag
  else if within 0xA0 0xA2 op then some .reducer
  else if within 0x80 0x83 op || within 0x90 0x92 op then some .pipeline
  else none

def SubRegion.has (s : SubRegion) (c : Nat) : Bool :=
  decide (s.x0 ≤ c % 8) && decide (c % 8 < s.x0 + s.w) && decide (s.y0 ≤ c / 8) && decide (c / 8 < s.y0 + s.h)

/-! ### Faults of an image: (offset, status) -/

/-- Status 0x03 at an offset when a condition holds. -/
def linkFault (c : Bool) (off : Nat) : List (Nat × Nat) := if c then [(off, 3)] else []

/-- Status 0x02 at an offset when a condition holds. -/
def wordFault (c : Bool) (off : Nat) : List (Nat × Nat) := if c then [(off, 2)] else []

def Image.linkAt (g : Image) (i : Nat) : Nat := (g.links.getD i (0, 0)).2
def Image.linkOff (g : Image) (i : Nat) : Nat := (g.links.getD i (0, 0)).1
def linkFmt (d : Nat) : BitVec 4 := BitVec.ofNat 4 (field d 3 0)
def linkBinding (d : Nat) : Nat := field d 36 35
def linkTap (d : Nat) : Bool := bitN d 41 = 1

/-- Units that write a link, those of its root for a tap. -/
def Image.producers (g : Image) (i : Nat) : List ImgUnit := g.units.filter fun u => (u.outs g.hdr.links).contains i

/-- Units that read a link. -/
def Image.consumers (g : Image) (i : Nat) : List ImgUnit := g.units.filter fun u => (u.ins g.hdr.links).any (·.2 = i)

/-- How often units name a link as an output, or an input. -/
def Image.writes (g : Image) (i : Nat) : Nat := (g.units.map fun u => ((u.outs g.hdr.links).filter (· = i)).length).sum
def Image.reads (g : Image) (i : Nat) : Nat := (g.units.map fun u => ((u.ins g.hdr.links).filter (·.2 = i)).length).sum

/-- The offset of the last record that a fault of a link and units involves (R225). -/
def lastOff (off : Nat) (us : List ImgUnit) : Nat := us.foldl (fun m u => max m u.recOff) off

/-- Sub-regions: their records, and the tiling (R223, R225). -/
def Image.subFaults (g : Image) : List (Nat × Nat) :=
  let subs := g.subs.map fun p => subOf p.2
  let cells := (List.range g.hdr.h).flatMap fun y => (List.range g.hdr.w).map fun x => 8 * y + x
  let lastSub := (g.subs.getLast?.map (·.1)).getD 0
  (g.subs.flatMap fun p =>
      let s := subOf p.2
      linkFault (field p.2 63 17 ≠ 0 || field p.2 13 12 = 3 || s.step = 7 || decide (g.hdr.w < s.x0 + s.w)
        || decide (g.hdr.h < s.y0 + s.h)) p.1)
    ++ ((List.range g.subs.length).flatMap fun j =>
      let s := subs.getD j (subOf 0)
      linkFault (cells.any fun c => s.has c && (subs.take j).any (·.has c)) ((g.subs.getD j (0, 0)).1))
    ++ linkFault (cells.any fun c => !subs.any (·.has c)) lastSub

/-- Link entries (R222, R225). -/
def Image.linkFaults (g : Image) : List (Nat × Nat) :=
  let nl := g.hdr.links
  (List.range nl).flatMap fun i =>
    let d := g.linkAt i
    let off := g.linkOff i
    let b := linkBinding d
    let tap := linkTap d
    let root := field d 47 42
    let rd := g.linkAt root
    let port := field d 34 31
    let slots := field d 8 4
    let prods := if tap then g.producers root else g.producers i
    let cons := g.consumers i
    let bound := b = 1 || b = 2
    linkFault (field d 63 48 ≠ 0 || field d 30 9 ≠ 0 || decide (16 < slots) || b = 3) off
      ++ linkFault (bound && ((List.range i).any fun j =>
          let e := g.linkAt j
          (linkBinding e = 1 || linkBinding e = 2) && field e 34 31 = port)) off
      ++ linkFault (tap && (decide (nl ≤ root) || bound)) off
      ++ linkFault (tap && decide (root < nl) && (linkTap rd || linkBinding rd = 1 || linkBinding rd = 2)) (max off (g.linkOff root))
      ++ linkFault (!tap && b ≠ 1 && g.writes i = 0) off
      ++ linkFault (b ≠ 2 && g.reads i = 0) off
      ++ linkFault (decide (1 < g.writes i + b2n (b = 1) + b2n tap)) (lastOff off (g.producers i))
      ++ linkFault (decide (1 < g.reads i + b2n (b = 2))) (lastOff off cons)
      ++ linkFault (bitN d 37 = 1 && (b ≠ 1 || (field d 3 0 ≠ 8 && field d 3 0 ≠ 9) || bitN d 39 = 1)) off
      ++ linkFault (bitN d 38 = 1 && g.units.all (·.op ≠ 0x75)) off
      ++ linkFault (slots = 0 && bound) off
      ++ linkFault (slots = 0 && (prods.any fun p => cons.any fun c => p.ref.cell ≠ c.ref.cell || p.ref = c.ref))
          (lastOff off (prods ++ cons))

/-- Whether a direct link leads from one unit of a cell to the other. -/
def Image.directFrom (g : Image) (cell : Nat) (router : Bool) : List Nat :=
  (List.range g.hdr.links).filter fun i =>
    let d := g.linkAt i
    let prods := if linkTap d then g.producers (field d 47 42) else g.producers i
    field d 8 4 = 0 && (prods.any fun p => p.ref = ⟨cell, router⟩) && ((g.consumers i).any fun c => c.ref = ⟨cell, !router⟩)

/-- Cells: their records, the kinds of their sub-regions, cycles without a slot, permits (R223 to R225, R231). -/
def Image.cellFaults (g : Image) : List (Nat × Nat) :=
  let subs := g.subs.map fun p => subOf p.2
  ((List.range g.cells.length).flatMap fun j =>
      let c := g.cells.getD j ⟨0, 0⟩
      let n := field c.dw0 5 0
      linkFault (field c.dw0 63 10 ≠ 0 || field c.dw0 7 6 ≠ 0 || decide (g.hdr.w ≤ n % 8) || decide (g.hdr.h ≤ n / 8)
        || (g.cells.take j).any (fun b => field b.dw0 5 0 = n)) c.off
        ++ linkFault (!(g.directFrom n true).isEmpty && !(g.directFrom n false).isEmpty) c.off)
    ++ (g.units.flatMap fun u =>
      match subKindOf u.op with
      | none => []
      | some k => linkFault (!u.ref.router && !(subs.any fun s => s.has u.ref.cell && s.kind = k)) u.recOff)
    ++ (g.units.flatMap fun u =>
      let fs := ((routerData u.op u.e).filter (· < g.hdr.links)).map fun i => linkFmt (g.linkAt i)
      linkFault (fs.any fun f => f ≠ fs.headD 0) u.recOff)
    ++ (let ps := g.units.filter (·.op = 0x75)
        linkFault ((g.hdr.k = 0) != ps.isEmpty) 0 ++ (ps.drop 1).flatMap fun u => linkFault true u.recOff)

/-- Element words (R41, R153, R245, R271). -/
def Image.wordFaults (g : Image) : List (Nat × Nat) :=
  let nl := g.hdr.links
  g.units.flatMap fun u =>
    let named := [u.e.a, u.e.b, u.e.c, u.e.o0, u.e.o1].filter (· ≠ 0xFF)
    let ag := agData u.op u.e
    let sh := shapeOf (g.shapes.getD (u.e.aux.toNat % 16) (0, 0)).2
    wordFault (u.instr.isNone || named.any fun v => decide (nl ≤ v.toNat)) u.off
      ++ wordFault ((u.ins nl).any fun p => rawInput u.op u.e p.1 (linkFmt (g.linkAt p.2)) == some false) u.off
      ++ wordFault (ag.isSome && (decide (g.shapes.length ≤ u.e.aux.toNat % 16) || sh.fmt ≠ u.e.fmt)) u.off

/-- Shape records (R144). -/
def Image.shapeFaults (g : Image) : List (Nat × Nat) :=
  let nl := g.hdr.links
  let users (j : Nat) : List ImgUnit := g.units.filter fun u => (agData u.op u.e).isSome && u.e.aux.toNat % 16 = j
  (List.range g.shapes.length).flatMap fun j =>
    let p := g.shapes.getD j (0, 0)
    let sh := shapeOf p.2
    linkFault (!shapeOk p.2 || ((users j).any fun u =>
      (match agData u.op u.e with
        | some l => decide (l < nl) && linkFmt (g.linkAt l) ≠ sh.fmt
        | none => false) || (u.op = 0xB3 && !sh.unfolds))) p.1

/-- Memory ranges, typed-buffer ranges, loop rows (R190, R191, R208, R223). -/
def Image.recordFaults (g : Image) (slots : Nat) : List (Nat × Nat) :=
  let op (cell : Nat) : Option (Nat × EWord) := (g.units.find? fun u => u.ref = ⟨cell, false⟩).map fun u => (u.op, u.e)
  (g.ranges.flatMap fun p =>
      let r := rangeOf p.2
      linkFault (field p.2 63 56 ≠ 0 || field p.2 127 104 ≠ 0 || r.length = 0 || r.owners.isEmpty || field p.2 255 192 ≠ 0
        || r.owners.any fun c => match op c with
          | some (0xB1, _) => false
          | some (0xB2, e) => !e.aux.getLsbD 4
          | _ => true) p.1)
    ++ ((List.range g.bufs.length).flatMap fun j =>
      let p := g.bufs.getD j (0, 0)
      let r := bufOf p.2
      let granted := match r.buf, op r.writer with
        | .w, some (0x81, _) => true
        | .a, some (0xA2, _) => true
        | .c, some (0x80, _) => true
        | _, _ => false
      linkFault (field p.2 63 14 ≠ 0 || field p.2 7 2 ≠ 0 || field p.2 1 0 = 3 || r.length = 0
        || (r.buf = .c && (r.start % 4 ≠ 0 || r.length % 4 ≠ 0)) || decide (r.buf.size slots < r.start + r.length) || !granted
        || (g.bufs.take j).any fun q => (bufOf q.2).overlaps r && (bufOf q.2).writer ≠ r.writer) p.1)
    ++ (g.loops.flatMap fun p => linkFault (field p.2 63 32 ≠ 0 || field p.2 31 0 = 0) p.1)

/-- Matrix row engines (R273). -/
def Image.mreFaults (g : Image) : List (Nat × Nat) :=
  let mre (u : ImgUnit) : Nat := u.e.aux.toNat % 4
  let of (o : Nat) : List ImgUnit := g.units.filter fun u => u.op = o && !u.ref.router
  let rows := of 0x80
  ([0x80, 0x81, 0x82, 0x83].flatMap fun o =>
      (List.range (of o).length).flatMap fun j =>
        match (of o)[j]? with
        | none => []
        | some u =>
          let row := rows.find? fun r => mre r = mre u
          let fmtOk := match row with
            | none => true
            | some r => if o = 0x81 then u.e.fmt = r.e.fmt else if o = 0x80 then true
              else u.e.fmt = (if r.e.fmt = 0 then 2 else 12)
          linkFault (((of o).take j).any fun v => mre v = mre u) u.recOff ++ linkFault row.isNone u.recOff
            ++ linkFault (!fmtOk) (max u.recOff ((row.map (·.recOff)).getD 0)))
    ++ (rows.flatMap fun u =>
      let cs := (g.bufs.filter fun p => (bufOf p.2).buf = .c && (bufOf p.2).writer = u.ref.cell)
      let off := cs.foldl (fun m p => max m p.1) u.recOff
      if u.e.aux.toNat / 4 % 4 = 0 then linkFault (!cs.isEmpty) off
      else linkFault (match cs with
        | [p] => (bufOf p.2).length % 256 ≠ 0
        | _ => true) off)

/-- The lower of two faults: offset first, then status (R225). -/
def lowerFault (x y : Nat × Nat) : Nat × Nat := if x.1 < y.1 || (x.1 = y.1 && x.2 ≤ y.2) then x else y

/-- The fault that is reported, if any (R225). -/
def reportFault : List (Nat × Nat) → Option (Nat × Nat)
  | [] => none
  | f :: fs => match reportFault fs with
    | none => some f
    | some g => some (lowerFault f g)

/-- Every fault of an image that does not depend on what is loaded. -/
def Image.faults (g : Image) (slots : Nat) : List (Nat × Nat) :=
  g.subFaults ++ g.linkFaults ++ g.cellFaults ++ g.wordFaults ++ g.shapeFaults ++ g.recordFaults slots ++ g.mreFaults

/-! ### Conflicts with a loaded region (R170, R191, R273) -/

/-- The MREs a region or an image names. -/
def Region.mreNames (r : Region) : List Nat := r.mres.keys

def Image.mreNames (g : Image) : List (Nat × Nat) :=
  (g.units.filter fun u => within 0x80 0x83 u.op && !u.ref.router).map fun u => (u.recOff, u.e.aux.toNat % 4)

/-- The ports that a region binds. -/
def Region.ports (r : Region) : List Nat :=
  r.links.filterMap fun l => match l.binding with
    | .internal => none
    | .input p => some p
    | .output p => some p

def Image.conflicts (g : Image) (r : Region) : List (Nat × Nat) :=
  (g.links.flatMap fun p =>
      linkFault ((linkBinding p.2 = 1 || linkBinding p.2 = 2) && r.ports.contains (field p.2 34 31)) p.1)
    ++ (g.mreNames.flatMap fun p => linkFault (r.mreNames.contains p.2) p.1)
    ++ (g.bufs.flatMap fun p => linkFault (r.bufs.any (·.overlaps (bufOf p.2))) p.1)

/-! ### The region an image makes -/

/-- The format a link's tokens take on arrival at its consumer: none where they are read as they are (R228, R245). -/
def Image.consFmt (g : Image) (i : Nat) : Option (BitVec 4) :=
  match g.consumers i with
  | [] => none
  | u :: _ =>
    match (u.ins g.hdr.links).find? (·.2 = i) with
    | none => none
    | some p => if (rawInput u.op u.e p.1 (linkFmt (g.linkAt i))).isSome then none else some u.e.fmt

def Image.mkLink (g : Image) (i : Nat) : Link :=
  let d := g.linkAt i
  let port := field d 34 31
  let tap := linkTap d
  { fmt := linkFmt d
    slots := field d 8 4
    demand := bitN d 39 = 1
    scope := bitN d 38 = 1
    coded := bitN d 37 = 1
    detach := bitN d 40 = 1
    binding := match linkBinding d with
      | 1 => .input port
      | 2 => .output port
      | _ => .internal
    root := if tap then some (field d 47 42) else none
    prod := ((if tap then g.producers (field d 47 42) else g.producers i).head?).map (·.ref)
    cons := ((g.consumers i).head?).map (·.ref)
    consFmt := g.consFmt i }

def Image.mkCell (g : Image) (c : Nat) : Cell :=
  let at_ (router : Bool) : Option Instr := (g.units.find? fun u => u.ref = ⟨c, router⟩).bind ImgUnit.instr
  { elem := at_ false, router := at_ true }

/-- The shape records of an image. -/
def Image.mkShapes (g : Image) : List Shape := g.shapes.map fun p => shapeOf p.2

def mulAll (xs : List Nat) : Nat := xs.foldl (· * ·) 1

/-- Rounds of a pass for an AG whose go is not connected (R224): one for each combination of its sub-region's step level and
above. -/
def Region.passRounds (r : Region) (cell : Nat) : Nat :=
  match r.subs.find? (·.has cell) with
  | none => 1
  | some s => if s.step = 0 then 1 else mulAll (r.loops.drop (s.step - 1))

/-- Whether a unit is an AG that counts a pass's rounds: AGLD, AGST or AGUF without a go link (R153, R224). -/
def countsRounds (i : Option Instr) : Bool :=
  match i with
  | some (.agld e) => e.a = 0xFF
  | some (.agst e) => e.b = 0xFF
  | some (.aguf e) => e.a = 0xFF
  | _ => false

/-- The rounds of a pass given to its AGs (R224). -/
def Region.startPass (r : Region) : Region :=
  { r with
    status := .running
    quiet := 0
    cells := r.cells.map fun c =>
      (c.1, if countsRounds c.2.elem then { c.2 with ag := { c.2.ag with rounds := r.passRounds c.1 } } else c.2) }

/-- The region an image makes at an origin. -/
def Image.region (g : Image) (x0 y0 ctx task : Nat) (image : Dword) : Region :=
  { number := 8 * y0 + x0, x0 := x0, y0 := y0, w := g.hdr.w, h := g.hdr.h, ctx := ctx, task := task, image := image
    subs := g.subs.map fun p => subOf p.2
    links := (List.range g.hdr.links).map g.mkLink
    cells := g.cells.map fun c => (field c.dw0 5 0, g.mkCell (field c.dw0 5 0))
    shapes := g.mkShapes
    ranges := g.ranges.map fun p => rangeOf p.2
    bufs := g.bufs.map fun p => bufOf p.2
    loops := g.loops.map (·.2)
    stall := g.hdr.stall
    permit := if g.hdr.k = 0 then none else some { k := g.hdr.k, free := g.hdr.k }
    mres := (g.mreNames.map (·.2)).eraseDups.map fun q => (q, {}) }

/-! ### Reading an image (R170) -/

/-- An image read and checked at an address: the image, or the status and value of the rejection (R41, R170, R225). -/
def State.readImage (s : State) (core ctx : Nat) (va : Dword) : Except (Nat × Nat) Image :=
  let unread (e : Nat × Nat) : Nat × Nat := if e.1 = 0x07 then (5, (e.2 - va.toNat) * 2 ^ 8) else (4, e.1)
  let offset (f : Nat × Nat) : Nat × Nat := (f.2, f.1 * 2 ^ 8)
  if va.toNat % 8 ≠ 0 then .error (4, 2)
  else
    match s.engineDwords ctx va.toNat 8 with
    | .error e => .error (unread e)
    | .ok hd =>
      let len := field (hd.getD 0 0).toNat 63 32
      if (imgHeader (hd.map BitVec.toNat)).isNone || len % 8 ≠ 0 || len < 64 || 8192 < len then .error (3, 0)
      else
        match s.engineDwords ctx va.toNat (len / 8) with
        | .error e => .error (unread e)
        | .ok ds =>
          match imgSections (ds.map BitVec.toNat) with
          | none => .error (3, 0)
          | some g =>
            match reportFault (g.faults (s.core core).stateSlots) with
            | some f => .error (offset f)
            | none => .ok g

end Sys2Proof.Machine
end

