-- ==== Sys2Proof/Machine/Matrix.lean ====
section
/-! DEFINITION. Matrix row engines (R65, R66, R271 to R278, R391): MROW, MLDB, MDRN, MCLR, over the typed buffers W and C. -/

namespace Sys2Proof.Machine

/-! ### W and C (R189, R274, R276) -/

/-- The MRE that a word names. -/
def mreOf (e : EWord) : Nat := e.aux.toNat % 4

/-- K of a format: elements a chunk (R65, R274). -/
def chunkLen (f : BitVec 4) : Nat :=
  match f.toNat with
  | 10 => 32
  | 13 => 128
  | _ => 64

/-- Bits of a buffer held as doublewords, from a bit position, within one doubleword. -/
def bufGet (b : Tbl Dword) (pos n : Nat) : Nat := field (b.getD (pos / 64) 0).toNat (pos % 64 + n - 1) (pos % 64)

def bufPut (b : Tbl Dword) (pos n v : Nat) : Tbl Dword :=
  b.set (pos / 64) (dw (setField (b.getD (pos / 64) 0).toNat (pos % 64 + n - 1) (pos % 64) v))

/-- The bit of W at which element i of tiles t onward stands, row by row (R274). -/
def tileBit (f : BitVec 4) (t i : Nat) : Nat := 8 * 4096 * t + laneWidth f * i

/-- Element (k, j) of tile t (R274). -/
def tileElem (w : Tbl Dword) (f : BitVec 4) (t k j : Nat) : Nat := bufGet w (tileBit f t (64 * k + j)) (laneWidth f)

/-- Whether bytes lo to hi lie in ranges. -/
def coveredBy (rs : List BufRange) : Nat → Nat → Nat → Bool
  | 0, lo, hi => decide (hi ≤ lo)
  | n + 1, lo, hi =>
    if hi ≤ lo then true
    else match rs.find? fun r => decide (r.start ≤ lo) && decide (lo < r.start + r.length) with
      | none => false
      | some r => coveredBy rs n (r.start + r.length) hi

/-- The C range of an MRE: first word and rows of 64 words (R273, R276). -/
def Region.cRange (r : Region) (q : Nat) : Nat × Nat :=
  match r.cells.find? fun c => match c.2.elem with
    | some (.mrow e) => mreOf e = q
    | _ => false with
  | none => (0, 0)
  | some c =>
    match r.bufs.find? fun b => b.buf = .c && b.writer = c.1 with
    | none => (0, 0)
    | some b => (b.start / 4, b.length / 256)

def Region.mre (r : Region) (q : Nat) : Mre := r.mres.getD q {}

def Region.setMre (r : Region) (q : Nat) (m : Mre) : Region := { r with mres := r.mres.set q m }

/-- A word of C: its value and validity (R276). -/
def CoreState.cWord (c : CoreState) (i : Nat) : Word × Bool := c.c.getD i (0, true)

/-- 64 words of C from an index. -/
def CoreState.cRow (c : CoreState) (base : Nat) : List (Word × Bool) := (List.range 64).map fun j => c.cWord (base + j)

/-- Words put into C from an index. -/
def putRow (t : Tbl (Word × Bool)) : Nat → List (Word × Bool) → Tbl (Word × Bool)
  | _, [] => t
  | i, w :: ws => putRow (t.set i w) (i + 1) ws

def State.setCRow (s : State) (core base : Nat) (ws : List (Word × Bool)) : State :=
  s.modCore core fun c => { c with c := putRow c.c base ws }

/-- A row of C as lanes. -/
def rowLanes (ws : List (Word × Bool)) : List Lane := ws.map fun w => if w.2 then ⟨w.1.zeroExtend 64, true⟩ else Lane.bad

/-- 64 words of +0, valid (R276). -/
def zeroRow : List (Word × Bool) := List.replicate 64 (0, true)

/-! ### MROW (R276) -/

/-- The set in place, with uses left. -/
def Mre.ready (m : Mre) : Option TileSet :=
  match m.tiles with
  | none => none
  | some t => if t.uses = some 0 then none else some t

/-- The set after a row. -/
def TileSet.used (t : TileSet) : TileSet := { t with uses := t.uses.map (· - 1) }

/-- Column j of a row of element codes against a tile set, from an accumulator (R65, R66). -/
def rowColumn (w : Tbl Dword) (f : BitVec 4) (t : TileSet) (codes : List Nat) (j : Nat) (acc : Word) : Word :=
  let k := chunkLen f
  let n := codes.length
  let b (i : Nat) : Nat := tileElem w f (t.first + i / k % t.count) (i % k) j
  if f = 0 then
    let sum := (List.range n).foldl (fun s i => s + laneInt f (codes.getD i 0) * laneInt f (b i)) (signedOf 32 acc.toNat)
    BitVec.ofNat 32 (lowBits 32 sum)
  else
    let term (i : Nat) : FVal := (laneVal f (codes.getD i 0)).mul (laneVal f (b i))
    let chunks := (List.range (ceilDiv n k)).map fun c => ((List.range (min k (n - c * k))).map fun i => term (c * k + i))
    BitVec.ofNat 32 (roundF32 (rowSum (unpack f32 acc.toNat) chunks))

/-- The format MROW produces (R271). -/
def mrowFmt (f : BitVec 4) : BitVec 4 := if f = 0 then 2 else 12

/-- A row's final tokens on its outputs: the header fields of its first and final token (R276). -/
def mrowOut (e : EWord) (first final : Token) (lanes : List Lane) : Token :=
  { kind := .data, policy := final.policy, iter := final.iter, reset := first.reset, last := true, fmt := mrowFmt e.fmt,
    lanes := lanes }

def mrowMark (final : Token) (base : Nat) : Token := final.control base

/-- One row firing, its tokens all present (R276, R391). -/
def fireMrow (e : EWord) : FireFn := fun s u r st x =>
  match x.a with
  | none => none
  | some a =>
    let had : List Token := match st with
      | .fill ts => ts
      | _ => []
    if !a.last then some ({ takeA := true, st := .fill (had ++ [a]) }, id)
    else
      let q := mreOf e
      match (r.mre q).ready with
      | none => none
      | some t =>
        let row := had ++ [a]
        let first := row.headD a
        let mode := e.aux.toNat / 4
        let c := s.core u.core
        let range := r.cRange q
        let ptr := if first.reset then 0 else (r.mre q).ptr
        let base := range.1 + 64 * ptr
        let lanes := row.flatMap fun k => if k.kind = .void then k.lanes.map fun _ => Lane.bad else k.lanes
        let codes := lanes.map fun l => l.val.toNat % 2 ^ laneWidth e.fmt
        let whole := (lanes.all fun l => l.ok) && t.ok && !Config.residueFails s.fresh
        let old := if mode = 0 then zeroRow else c.cRow base
        let out := (List.range 64).map fun j =>
          let o := old.getD j (0, true)
          (rowColumn c.w e.fmt t codes j o.1, o.2 && whole)
        let eff (s1 : State) : State :=
          let s2 := { s1 with fresh := s1.fresh + 1 }
          let s3 := if mode = 0 then s2 else s2.setCRow u.core base out
          let s4 := s3.modRegion u.core u.region fun r1 =>
            r1.setMre q { r1.mre q with tiles := some t.used, ptr := if mode = 0 then ptr else (ptr + 1) % max range.2 1 }
          if Config.residueFails s.fresh then
            s4.raiseEvent r.ctx (s4.eventOwner r.task { kind := 0x08, core := u.core, region := u.region, detail := q, value := dw base })
          else s4
        some
          ({ takeA := true
             out0 := if mode = 1 then none else some (mrowOut e first a (rowLanes out))
             out1 := if mode = 0 then none else some (mrowMark a base)
             st := .idle }, eff)

def stepMrow (e : EWord) : UnitStep := State.fireStep e (fireMrow e)

/-! ### MLDB (R274, R275) -/

/-- The tile set a control token installs, but for its validity (R274). -/
def tileSetOf (ctl : Nat) (ok : Bool) : TileSet :=
  { first := field ctl 7 0, count := field ctl 10 8 + 1,
    uses := if field ctl 31 16 = 0 then none else some (field ctl 31 16), ok := ok }

/-- Whether a control token installs a valid set (R275). -/
def Region.tilesOk (r : Region) (cell : Nat) (ctl : Token) : Bool :=
  let v := ctl.val 0 % 2 ^ 32
  let t := field v 7 0
  let n := field v 10 8 + 1
  let own := r.bufs.filter fun b => b.buf = .w && (bitN v 11 = 0 || b.writer = cell)
  ctl.ok 0 && field v 15 12 = 0 && decide (t + n ≤ 256)
    && (List.range n).all fun i => coveredBy own (own.length + 1) (4096 * (t + i)) (4096 * (t + i) + 4096)

/-- Lanes written to tiles in order; an invalid lane writes zero, lanes past the last element are discarded (R275). -/
def loadLanes (w : Tbl Dword) (f : BitVec 4) (t total : Nat) : Nat → List Lane → Tbl Dword
  | _, [] => w
  | i, l :: ls =>
    if total ≤ i then w
    else loadLanes (bufPut w (tileBit f t i) (laneWidth f) (if l.ok then l.val.toNat else 0)) f t total (i + 1) ls

/-- MLDB: a control token taken, or a token of tile data (R275). -/
def fireMldb (e : EWord) : FireFn := fun _ u r _ x =>
  let q := mreOf e
  let m := r.mre q
  let put (f : Mre → Mre) (s : State) : State := s.modRegion u.core u.region fun r1 => r1.setMre q (f (r1.mre q))
  match m.load with
  | some l =>
    match x.a with
    | none => none
    | some a =>
      let t := field l.ctl 7 0
      let done := l.done + a.count
      let eff (s : State) : State :=
        let s1 := if l.ok then s.modCore u.core fun c => { c with w := loadLanes c.w e.fmt t l.total l.done a.lanes } else s
        if l.total ≤ done then put (fun m => { m with load := none, tiles := some (tileSetOf l.ctl l.ok) }) s1
        else put (fun m => { m with load := some { l with done := done } }) s1
      some ({ takeA := true }, eff)
  | none =>
    if m.ready.isSome then none
    else
      match x.b with
      | none => none
      | some b =>
        let ok := r.tilesOk u.cell b
        let ctl := b.val 0 % 2 ^ 32
        if bitN ctl 11 = 1 then
          let total := chunkLen e.fmt * 64 * (field ctl 10 8 + 1)
          some ({ takeB := true }, put fun m => { m with load := some ⟨ctl, ok, 0, total⟩ })
        else some ({ takeB := true }, put fun m => { m with tiles := some (tileSetOf ctl ok) })

def stepMldb (e : EWord) : UnitStep := State.fireStep e (fireMldb e)

/-! ### MDRN and MCLR (R277, R278) -/

/-- The rows a trigger names: first and number; none where it touches no word (R277). -/
def triggerRows (t : Token) (rows : Nat) : Option (Nat × Nat) :=
  let v := t.val 0 % 2 ^ 32
  let f := field v 15 0
  let r := field v 31 16
  if !t.ok 0 || rows ≤ f then none else some (f, if r = 0 then rows - f else min r (rows - f))

/-- A unit between rows: the row it takes now, the rows left after it, the trigger, and whether the trigger is taken now. -/
def rowTurn (st : UnitState) (x : Inputs) (rows : Nat) : Option (Option (Nat × Nat × Nat) × Token × Bool) :=
  match st with
  | .rows next left total t => some (some (next, left, total), t, false)
  | _ => x.a.map fun t => ((triggerRows t rows).map fun p => (p.1, p.2, p.2), t, true)

/-- MDRN: one row in a step (R277). -/
def fireMdrn (e : EWord) : FireFn := fun s u r st x =>
  let range := r.cRange (mreOf e)
  match rowTurn st x range.2 with
  | none => none
  | some (none, t, _) =>
    some ({ takeA := true, out0 := some { kind := .void, policy := t.policy, iter := t.iter, last := true, fmt := e.fmt, lanes := [Lane.bad] } }, id)
  | some (some (next, left, total), t, fresh) =>
    let base := range.1 + 64 * next
    let out : Token :=
      { policy := t.policy, iter := t.iter, last := left = 1, fmt := e.fmt, lanes := rowLanes ((s.core u.core).cRow base) }
    some ({ takeA := fresh, out0 := some out, st := if left = 1 then .idle else .rows (next + 1) (left - 1) total t },
      fun s1 => if e.aux.getLsbD 4 then s1.setCRow u.core base zeroRow else s1)

def stepMdrn (e : EWord) : UnitStep := State.fireStep e (fireMdrn e)

/-- MCLR: one row in a step, the done token with the last (R277). -/
def fireMclr (e : EWord) : FireFn := fun _ u r st x =>
  let range := r.cRange (mreOf e)
  match rowTurn st x range.2 with
  | none => none
  | some (none, t, _) => some ({ takeA := true, out0 := some (t.control 0) }, id)
  | some (some (next, left, total), t, fresh) =>
    let base := range.1 + 64 * next
    some ({ takeA := fresh, out0 := if left = 1 then some (t.control total) else none,
            st := if left = 1 then .idle else .rows (next + 1) (left - 1) total t },
      fun s1 => s1.setCRow u.core base zeroRow)

def stepMclr (e : EWord) : UnitStep := State.fireStep e (fireMclr e)

end Sys2Proof.Machine
end

