-- ==== Sys2Proof/Machine/Carried.lean ====
section
/-! DEFINITION. Carried state (R190, R284 to R287): the stream map, state slots, STLD and STST, and what SWS moves. -/

namespace Sys2Proof.Machine

/-! ### State slots and the stream map -/

/-- The first doubleword of a state slot in A (R190). -/
def CoreState.slotDword (c : CoreState) (slot : Nat) : Nat := (0x80000 - 512 * (c.stateSlots - slot)) / 8

/-- The 4,096 bits of a slot. -/
def CoreState.slotBits (c : CoreState) (slot : Nat) : Nat :=
  packDwords ((List.range 64).map fun i => (c.a.getD (c.slotDword slot + i) 0).toNat)

/-- Doublewords put into a buffer. -/
def putDwords (t : Tbl Dword) : Nat → List Dword → Tbl Dword
  | _, [] => t
  | i, d :: ds => putDwords (t.set i d) (i + 1) ds

/-- 4,096 bits put into a slot. -/
def CoreState.putSlot (c : CoreState) (slot bits : Nat) : CoreState :=
  { c with a := putDwords c.a (c.slotDword slot) ((List.range 64).map fun i => dw (bits / 2 ^ (64 * i))) }

def StreamEntry.names (x : StreamEntry) (ctx id : Nat) : Bool := x.ctx = ctx && x.id = id

/-- The map entry of a stream. -/
def CoreState.stream (c : CoreState) (ctx id : Nat) : Option StreamEntry := c.streams.find? (·.names ctx id)

/-- The map with a stream's entry set. -/
def CoreState.setStream (c : CoreState) (x : StreamEntry) : CoreState :=
  { c with streams := x :: c.streams.filter fun y => !y.names x.ctx x.id }

/-- The map without a stream. -/
def CoreState.dropStream (c : CoreState) (ctx id : Nat) : CoreState :=
  { c with streams := c.streams.filter fun y => !y.names ctx id }

/-- The lowest slot that no stream holds (R284). -/
def CoreState.freeSlot (c : CoreState) : Option Nat :=
  (List.range c.stateSlots).find? fun i => !c.streams.any (·.slot = some i)

/-- Whether a stream not in the map may enter it (R284): it holds 4,096 entries. -/
def CoreState.mapRoom (c : CoreState) : Bool := decide (c.streams.length < 4096)

/-- A slot for a stream that holds none: its own entry, or a new one, with a free slot (R285, R286). -/
def CoreState.takeSlot (c : CoreState) (ctx id : Nat) : Option (Nat × CoreState) :=
  match c.stream ctx id with
  | some x => match x.slot with
    | some n => some (n, c)
    | none => match c.freeSlot with
      | some n => some (n, c.setStream { x with slot := some n })
      | none => none
  | none =>
    if c.mapRoom then match c.freeSlot with
      | some n => some (n, c.setStream { ctx := ctx, id := id, slot := some n })
      | none => none
    else none

/-- A stream swapped out to a save area (R176). -/
def CoreState.swapOut (c : CoreState) (x : StreamEntry) (save : Dword) : CoreState :=
  c.setStream { x with slot := none, save := save }

/-! ### STLD (R285) -/

/-- The token STLD emits: a slot's bits, or zeros. -/
def stateToken (e : EWord) (idTok : Token) (bits : Nat) : Token :=
  { idTok with kind := .data, fmt := e.fmt, lanes := lanesOf e.fmt bits (laneCount e.fmt) }

/-- Whether an id token asks for zeros (R284). -/
def Token.isFresh (t : Token) : Bool := t.ok 1 && t.val 1 % 2 = 1

/-- One chunk's state read (R285). A stream that was swapped out waits for its swap-in. -/
def fireStld (e : EWord) : FireFn := fun s u r _ x =>
  match x.a with
  | none => none
  | some t =>
    if !t.ok 0 then
      some ({ takeA := true,
              out0 := some { t with kind := .void, fmt := e.fmt, lanes := List.replicate (laneCount e.fmt) Lane.bad } }, id)
    else
      let sid := t.val 0 % 2 ^ 32
      let c := s.core u.core
      let opens (c : CoreState) : CoreState :=
        if e.aux.getLsbD 1 then c
        else match c.stream r.ctx sid with
          | some y => c.setStream { y with isOpen := true }
          | none => c
      let fire (bits : Nat) (f : CoreState → CoreState) : Option (Fire × (State → State)) :=
        some ({ takeA := true, out0 := some (stateToken e t (if t.isFresh then 0 else bits)) },
          fun s1 => s1.modCore u.core fun k => opens (f k))
      match c.stream r.ctx sid with
      | some y =>
        if y.isOpen then none
        else match y.slot with
          | some n => fire (c.slotBits n) id
          | none => none
      | none =>
        match c.takeSlot r.ctx sid with
        | none => none
        | some (n, _) =>
          fire 0 fun k => match k.takeSlot r.ctx sid with
            | some (_, k1) => k1.putSlot n 0
            | none => k

def stepStld (e : EWord) : UnitStep := State.fireStep e (fireStld e)

/-! ### STST (R286) -/

/-- Lanes as a slot holds them; the bits of an invalid lane are a free value. -/
def slotLanes (n : Nat) : Nat → List Lane → List Lane
  | _, [] => []
  | i, l :: ls => (if l.ok then l else ⟨Config.freeWord (n + i), true⟩) :: slotLanes n (i + 1) ls

/-- One chunk's state written, or its stream retired (R286). -/
def fireStst (e : EWord) : FireFn := fun s u r _ x =>
  match x.a, x.b with
  | some t, some idt =>
    let done (l : Lane) : Token := { t with kind := .control, fmt := 7, lanes := [l] }
    if !idt.ok 0 then some ({ takeA := true, takeB := true, out0 := some (done Lane.bad) }, id)
    else
      let sid := idt.val 0 % 2 ^ 32
      if e.aux.getLsbD 0 then
        some ({ takeA := true, takeB := true, out0 := some (done ⟨allOnes, true⟩) },
          fun s1 => s1.modCore u.core fun k => k.dropStream r.ctx sid)
      else
        match (s.core u.core).takeSlot r.ctx sid with
        | none => none
        | some (n, _) =>
          let lanes := slotLanes s.fresh 0 (t.lanes.take (laneCount e.fmt))
          let eff (s1 : State) : State :=
            { s1 with fresh := s1.fresh + t.lanes.length }.modCore u.core fun k =>
              match k.takeSlot r.ctx sid with
              | none => k
              | some (_, k1) =>
                let k2 := k1.putSlot n (packFrom e.fmt 0 lanes)
                match k2.stream r.ctx sid with
                | some y => k2.setStream { y with isOpen := false, save := 0 }
                | none => k2
          some ({ takeA := true, takeB := true, out0 := some (done ⟨dw n, true⟩) }, eff)
  | _, _ => none

def stepStst (e : EWord) : UnitStep := State.fireStep e (fireStst e)

/-- The id of the stream that heads an STLD's link and must be swapped in, with its save area (R285). -/
def State.swapInWanted (s : State) (u : UnitAt) (r : Region) (e : EWord) : Option (Nat × Dword) :=
  match r.headAt e.a with
  | none => none
  | some t =>
    if !t.ok 0 then none
    else match (s.core u.core).stream r.ctx (t.val 0 % 2 ^ 32) with
      | some y => if y.slot.isNone && !y.isOpen then some (y.id, y.save) else none
      | none => none

/-- 512 bytes put into a free slot of a stream, whose entry is in the map or is made (R176, R285). -/
def CoreState.swapIn (c : CoreState) (ctx id : Nat) (bytes : List Byte) : Option CoreState :=
  (c.takeSlot ctx id).map fun p => p.2.putSlot p.1 (leNat bytes)

end Sys2Proof.Machine
end

