-- ==== Sys2Proof/Machine/Firn.lean ====
section
/-! DEFINITION. The episode engines (chapter 7): stores, records, handles, and each operation as one step at its engine. -/

namespace Sys2Proof.Machine

/-- Why an episode operation does not end normally (R125 to R129). -/
inductive EpFail where
  /-- 0x09 or 0x0A, with the offending id or handle -/
  | handle (code : Nat) (v : Dword)
  | refuse (code : Nat)
  /-- status 0x06: the engine code and value bits [63:16] -/
  | engine (code : Nat) (v : Nat)
  | poison (va : Dword)
  /-- a payload read refused: 0x03 or 0x04, and the payload VA (R133) -/
  | payload (code : Nat) (va : Dword)
  /-- a posted form's completion with a status and value bits [63:8] -/
  | status (st : Nat) (v : Nat)
  deriving DecidableEq, Repr

/-- The slot index that stands for none (R102). -/
def noSlot : Nat := 0xFF_FFFF_FFFF

/-- A record header (R102). -/
structure Rec where
  prev : Nat := noSlot
  next : Nat := noSlot
  seq : Nat := 0
  episode : Nat := 0
  gen : Nat := 0
  length : Nat := 0
  sat : Bool := false
  tail : Bool := false
  kind : Nat := 0
  salience : Nat := 0
  deriving DecidableEq, Repr

/-- The four header words (R102). -/
def Rec.words (r : Rec) : List Dword :=
  [dw r.prev, dw r.next, dw (r.seq % 2 ^ 32 * 2 ^ 32 + r.episode % 2 ^ 32),
   dw (r.gen % 2 ^ 16 * 2 ^ 48 + r.length % 2 ^ 32 * 2 ^ 16 + b2n r.sat * 2 ^ 13 + b2n r.tail * 2 ^ 12 + r.kind % 16 * 2 ^ 8
      + r.salience % 256)]

def wordsBytes (ws : List Dword) : List Byte := ws.flatMap fun w => leBytes 8 w.toNat

/-- A header read from its 32 bytes. -/
def recOf (bs : List Byte) : Rec :=
  let w (i : Nat) : Nat := leNat ((bs.drop (8 * i)).take 8)
  { prev := field (w 0) 39 0, next := field (w 1) 39 0, seq := field (w 2) 63 32, episode := field (w 2) 31 0
    gen := field (w 3) 63 48, length := field (w 3) 47 16, sat := bitN (w 3) 13 = 1, tail := bitN (w 3) 12 = 1
    kind := field (w 3) 11 8, salience := field (w 3) 7 0 }

/-- An episode record's payload (R104). -/
structure EpRec where
  tail : Nat
  items : Nat
  next : Nat
  branches : Nat
  parent : Nat
  deriving DecidableEq, Repr

def EpRec.bytes (e : EpRec) : List Byte :=
  wordsBytes [dw e.tail, dw (e.items % 2 ^ 32 * 2 ^ 32 + e.next % 2 ^ 32), dw (e.branches % 2 ^ 32 * 2 ^ 32 + e.parent % 2 ^ 32), 0]

def epRecOf (bs : List Byte) : EpRec :=
  let w (i : Nat) : Nat := leNat ((bs.drop (8 * i)).take 8)
  { tail := field (w 0) 39 0, items := field (w 1) 63 32, next := field (w 1) 31 0, branches := field (w 2) 63 32
    parent := field (w 2) 31 0 }

/-! ### Stores (R99, R100, R105, R106) -/

def Store.slotVa (st : Store) (i : Nat) : Nat := st.base.toNat + i * 2 ^ st.k

def Store.used (st : Store) (i : Nat) : Bool := decide (i < st.high) && !st.free.contains i

def Store.gen (st : Store) (i : Nat) : BitVec 16 := st.gens.getD i 0

/-- A slot taken (R100). -/
def Store.alloc (st : Store) : Option (Nat × Store) :=
  match st.free with
  | f :: fs => some (f, { st with free := fs })
  | [] => if st.high < st.capacity then some (st.high, { st with high := st.high + 1 }) else none

/-- A slot's reuse count raised (R105). -/
def Store.bumpGen (st : Store) (i : Nat) : Store := { st with gens := st.gens.set i (st.gen i + 1) }

/-- Slots freed in order, each pushed onto the head (R100). -/
def Store.release (st : Store) : List Nat → Store
  | [] => st
  | i :: is => ({ st.bumpGen i with free := i :: st.free }).release is

/-- The next number of a counter that is neither 0 nor live (R106). -/
def freeNumber (live : Tbl Nat) : Nat → Nat → Option Nat
  | 0, _ => none
  | n + 1, c =>
    let c := c % 2 ^ 32
    if c = 0 || (live.get? c).isSome then freeNumber live n (c + 1) else some c

def Store.number (st : Store) : Option Nat := freeNumber st.live (st.live.length + 2) st.counter

/-- An item handle: store, generation, slot (R105). -/
def handleOf (id : Nat) (st : Store) (i : Nat) : Dword := dw (id * 2 ^ 48 + (st.gen i).toNat % 256 * 2 ^ 40 + i)

def State.storeOf (s : State) (id : Nat) : Option Store := s.firn.stores.get? id

def State.setStore (s : State) (id : Nat) (st : Store) : State :=
  s.setFirn { s.firn with stores := s.firn.stores.set id st }

/-- A store of the context (R99). -/
def State.myStore (s : State) (ctx id : Nat) (v : Dword) : Except EpFail Store :=
  match s.storeOf id with
  | some st => if st.ctx = ctx then .ok st else .error (.handle 0x09 v)
  | none => .error (.handle 0x09 v)

/-- A handle checked: its store's id, the store, the slot (R105). -/
def State.checkHandle (s : State) (ctx : Nat) (h : Dword) : Except EpFail (Nat × Store × Nat) := do
  let id := field h.toNat 63 48
  let i := field h.toNat 39 0
  let st ← s.myStore ctx id h
  if st.capacity ≤ i then .error (.handle 0x09 h)
  else if !st.used i || (st.gen i).toNat % 256 ≠ field h.toNat 47 40 then .error (.handle 0x0A h)
  else .ok (id, st, i)

/-- Whether a cursor's pos names a record in use of a store of its context (R126). -/
def State.posLive (s : State) (c : Cursor) : Bool := (s.checkHandle c.ctx c.pos).isOk

/-- An episode id checked: its store's id, the store, the number, its episode record's slot (R106). -/
def State.checkEpisode (s : State) (ctx : Nat) (e : Dword) : Except EpFail (Nat × Store × Nat × Nat) := do
  let id := field e.toNat 63 48
  let st ← s.myStore ctx id e
  match st.live.get? (field e.toNat 31 0) with
  | some i => if field e.toNat 47 32 = 0 then .ok (id, st, field e.toNat 31 0, i) else .error (.handle 0x09 e)
  | none => .error (.handle 0x09 e)

/-- A cursor of the context (R109). -/
def State.checkCursor (s : State) (ctx : Nat) (v : Dword) : Except EpFail (Nat × Cursor) :=
  match s.firn.cursors.get? v.toNat with
  | some c => if c.ctx = ctx then .ok (v.toNat, c) else .error (.handle 0x09 v)
  | none => .error (.handle 0x09 v)

def State.setCursor (s : State) (c : Nat) (x : Cursor) : State :=
  s.setFirn { s.firn with cursors := s.firn.cursors.set c x }

/-! ### Records in memory -/

/-- A failed access to a record (R129, R130). -/
def recordFail (slot : Nat) (e : Nat × Nat) : EpFail :=
  if e.1 = 0x07 then .poison (dw e.2) else .engine (if e.1 = 0x03 then 0x14 else 0x15) slot

def State.readRec (s : State) (st : Store) (i : Nat) : Except EpFail Rec :=
  match s.engineRead st.ctx (st.slotVa i) 32 with
  | .error e => .error (recordFail i e)
  | .ok bs => .ok (recOf bs)

/-- A header written, its generation the slot's. -/
def State.writeRec (s : State) (st : Store) (i : Nat) (r : Rec) : Except EpFail State :=
  match s.agentWrite st.ctx (st.slotVa i) (wordsBytes { r with gen := (st.gen i).toNat }.words) with
  | .error e => .error (recordFail i e)
  | .ok s1 => .ok s1

def State.modRec (s : State) (st : Store) (i : Nat) (f : Rec → Rec) : Except EpFail State := do
  let r ← s.readRec st i
  s.writeRec st i (f r)

def State.readEp (s : State) (st : Store) (i : Nat) : Except EpFail EpRec :=
  match s.engineRead st.ctx (st.slotVa i + 32) 32 with
  | .error e => .error (recordFail i e)
  | .ok bs => .ok (epRecOf bs)

def State.writeEp (s : State) (st : Store) (i : Nat) (e : EpRec) : Except EpFail State :=
  match s.agentWrite st.ctx (st.slotVa i + 32) e.bytes with
  | .error f => .error (recordFail i f)
  | .ok s1 => .ok s1

/-- The record a link names: in use, below the capacity, of the episode expected (R101). -/
def State.linked (s : State) (st : Store) (holder i episode : Nat) : Except EpFail Rec := do
  if st.capacity ≤ i || !st.used i then .error (.engine 0x10 holder)
  else
    let r ← s.readRec st i
    if r.episode = episode then .ok r else .error (.engine 0x10 holder)

/-! ### Operations that need a slot -/

/-- ENEW (R132): the slot and the number are taken at the store's engine, then the head is written; where the head cannot be
written, what was taken stands (R127). -/
def State.epNew (s : State) (ctx : Nat) (g : Dword) : Except EpFail (Dword × State) × State :=
  if 2 ^ 16 ≤ g.toNat then (.error (.handle 0x09 g), s)
  else
    match s.myStore ctx g.toNat g with
    | .error e => (.error e, s)
    | .ok st =>
      match st.alloc, st.number with
      | none, _ => (.error (.refuse 0x80), s)
      | _, none => (.error (.refuse 0x83), s)
      | some (i, st1), some e =>
        let st2 := { st1 with counter := (e + 1) % 2 ^ 32 }
        let s1 := s.setStore g.toNat st2
        let zeros : List Byte := List.replicate (2 ^ st.k - 64) 0
        let body := { tail := i, items := 0, next := 1, branches := 0, parent := 0xFFFF_FFFF : EpRec }.bytes
        let hdr : Rec := { episode := e, kind := 1, tail := true, gen := (st2.gen i).toNat }
        match s1.agentWrite ctx (st.slotVa i) (wordsBytes hdr.words ++ body ++ zeros) with
        | .error f => (.error (recordFail i f), s1)
        | .ok s2 => (.ok (dw (g.toNat * 2 ^ 48 + e), s2.setStore g.toNat { st2 with live := st2.live.set e i }), s1)

/-- An append (R107): one indivisible operation. The payload is at a VA, or gathered by an AGEP (R155), padded or cut. -/
def State.epAppend (s : State) (ctx : Nat) (ep payload : Dword) (salience : Nat) (gathered : Option (List Byte)) :
    Except EpFail (Dword × State) := do
  let (id, st, num, ei) ← s.checkEpisode ctx ep
  match st.alloc with
  | none => .error (.refuse 0x80)
  | some (i, st1) =>
    let e ← s.readEp st ei
    if e.next = 0 then .error (.refuse 0x81)
    else
      let n := 2 ^ st.k - 32
      let bs ← match gathered with
        | some bs => .ok ((bs ++ List.replicate (n - bs.length) 0).take n)
        | none =>
          match s.engineRead ctx payload.toNat n with
          | .error f => if f.1 = 0x07 then .error (.poison payload) else .error (.payload f.1 payload)
          | .ok bs => .ok bs
      let q ← s.linked st ei e.tail num
      let hdr : Rec := { prev := e.tail, episode := num, seq := e.next, salience := salience, tail := true,
                         gen := (st.gen i).toNat }
      let s1 ← match s.agentWrite ctx (st.slotVa i) (wordsBytes hdr.words ++ bs) with
        | .error f => .error (recordFail i f)
        | .ok s1 => .ok s1
      let s2 ← s1.writeRec st e.tail { q with next := i, tail := false }
      let s3 ← s2.writeEp st ei { e with tail := i, items := e.items + 1, next := e.next + 1 }
      .ok (handleOf id st i, s3.setStore id st1)

/-- EBRANCH (R114, R138): the branch record at the store's engine, in the episode of the branch point. -/
def State.epBranch (s : State) (ctx : Nat) (g : Dword) : Except EpFail (Dword × State) := do
  let (_, c) ← s.checkCursor ctx g
  let sid := field c.pos.toNat 63 48
  match s.storeOf sid with
  | none => .error (.refuse 0x8A)
  | some st =>
    let a := st.alloc
    let b := st.number
    if st.ctx = ctx && a.isNone then .error (.refuse 0x80)
    else if st.ctx = ctx && b.isNone then .error (.refuse 0x83)
    else
      match s.checkHandle ctx c.pos, a, b with
      | .ok (_, _, pi), some (i, st1), some num =>
        let p ← s.readRec st pi
        if p.kind = 2 || p.kind = 4 then .error (.refuse 0x87)
        else
          match st.live.get? p.episode with
          | none => .error (.engine 0x10 pi)
          | some ei =>
            let e ← s.readEp st ei
            let body := { tail := i, items := 0, next := p.seq + 1, branches := 0, parent := p.episode : EpRec }.bytes
            let zeros : List Byte := List.replicate (2 ^ st.k - 64) 0
            let hdr : Rec := { prev := pi, episode := num, seq := p.seq, kind := 3, tail := true, gen := (st1.gen i).toNat }
            let s1 ← match s.agentWrite ctx (st.slotVa i) (wordsBytes hdr.words ++ body ++ zeros) with
              | .error f => .error (recordFail i f)
              | .ok s1 => .ok s1
            let s2 ← s1.writeEp st ei { e with branches := e.branches + 1 }
            .ok (dw (sid * 2 ^ 48 + num * 2 ^ 16),
                 s2.setStore sid { st1 with counter := (num + 1) % 2 ^ 32, live := st1.live.set num i })
      | _, _, _ => .error (.refuse 0x8A)

/-! ### Removing ranges (R115 to R117) -/

/-- A chain of an episode from a slot through another, forward, in order with its headers; none where the other is not met. -/
def State.chain (s : State) (st : Store) (episode : Nat) : Nat → Nat → Nat → Nat → Except EpFail (Option (List (Nat × Rec)))
  | 0, _, _, _ => .ok none
  | n + 1, holder, i, stop => do
    let r ← s.linked st holder i episode
    if i = stop then .ok (some [(i, r)])
    else if r.next = noSlot then .ok none
    else
      match ← s.chain st episode n i r.next stop with
      | none => .ok none
      | some l => .ok (some ((i, r) :: l))

/-- Items, and records absorbed, of a range, saturated (R115). -/
def rangeLength (l : List (Nat × Rec)) : Nat × Bool :=
  let sum := l.foldl (fun n x => n + if x.2.kind = 0 then 1 else x.2.length) 0
  (min sum 0xFFFF_FFFF, decide (0xFFFF_FFFF < sum) || l.any (·.2.sat))

/-- A position moved off a range (R116): its new handle and whether it is armed. first and last are the range's ends in
chain order. -/
def movePos (handles : List Dword) (first last repl pos : Dword) (back armed : Bool) : Option (Dword × Bool) :=
  if handles.contains pos then some (repl, armed || !(pos == if back then first else last)) else none

/-- A cursor and its play moved off a range (R116). -/
def Cursor.moved (c : Cursor) (handles : List Dword) (first last repl : Dword) : Cursor :=
  let back := bitN c.cfg.toNat 8 = 1
  let c1 := match movePos handles first last repl c.pos back c.armed with
    | some (p, a) => { c with pos := p, armed := a, e := false }
    | none => c
  match c.play with
  | none => c1
  | some p =>
    let p1 := match movePos handles first last repl p.cur back p.armed with
      | some (q, a) => { p with cur := q, armed := a }
      | none => p
    { c1 with play := some { p1 with last := if handles.contains p1.last then repl else p1.last } }

/-- Every cursor moved off a range. -/
def State.moveCursors (s : State) (handles : List Dword) (repl : Dword) : State :=
  let first := handles.headD 0
  let last := handles.getLastD 0
  s.setFirn { s.firn with cursors := s.firn.cursors.map fun c => (c.1, c.2.moved handles first last repl) }

/-- Branch records whose prev lay in a range turned to the slot that replaces it (R115). -/
def State.redirect (s : State) (st : Store) (gone : List Nat) (to_ : Nat) : List (Nat × Nat) → Except EpFail State
  | [] => .ok s
  | (_, i) :: t => do
    let r ← s.readRec st i
    let s1 ← if r.kind = 3 && gone.contains r.prev then s.writeRec st i { r with prev := to_ } else .ok s
    s1.redirect st gone to_ t

/-- A range in the own chain of an episode replaced by one record in its first slot: links, tail, branch records, cursors and
plays, and the slots freed. items tells how many items the episode loses. -/
def State.replaceRange (s : State) (id : Nat) (ei : Nat) (l : List (Nat × Rec)) (kind items : Nat) :
    Except EpFail State := do
  match s.storeOf id, l, l.getLast? with
  | some st, (a, ra) :: rest, some (_, rb) =>
    let (len, sat) := rangeLength l
    let handles := l.map fun x => handleOf id st x.1
    let gone := rest.map (·.1)
    let st1 := (st.bumpGen a).release gone
    let new : Rec := { prev := ra.prev, next := rb.next, episode := ra.episode, seq := ra.seq, length := len, sat := sat,
                       kind := kind, tail := rb.tail }
    let zeros : List Byte := List.replicate (2 ^ st.k - 32) 0
    let s1 ← match s.agentWrite st.ctx (st.slotVa a) (wordsBytes { new with gen := (st1.gen a).toNat }.words ++ zeros) with
      | .error f => .error (recordFail a f)
      | .ok s1 => .ok s1
    let s2 ← if rb.next = noSlot then .ok s1 else s1.modRec st rb.next fun r => { r with prev := a }
    let e ← s2.readEp st ei
    let s3 ← s2.writeEp st ei { e with tail := if rb.tail then a else e.tail, items := e.items - items }
    let s4 ← s3.redirect st gone a st.live
    .ok ((s4.setStore id st1).moveCursors handles (handleOf id st1 a))
  | _, _, _ => .error (.refuse 0x86)

/-- Items of a range. -/
def rangeItems (l : List (Nat × Rec)) : Nat := (l.filter (·.2.kind = 0)).length

/-- A crevasse merged with the crevasse before it, if there is one; the slot that then holds it (R115, step 8). -/
def State.mergePrev (s : State) (id ei i : Nat) : Except EpFail (Nat × State) := do
  match s.storeOf id with
  | none => .ok (i, s)
  | some st =>
    let r ← s.readRec st i
    if r.prev = noSlot then .ok (i, s)
    else
      let p ← s.readRec st r.prev
      if p.kind = 2 then .ok (r.prev, ← s.replaceRange id ei [(r.prev, p), (i, r)] 2 0) else .ok (i, s)

/-- A crevasse merged with the crevasse behind it, if there is one. -/
def State.mergeNext (s : State) (id ei i : Nat) : Except EpFail State := do
  match s.storeOf id with
  | none => .ok s
  | some st =>
    let r ← s.readRec st i
    if r.next = noSlot then .ok s
    else
      let n ← s.readRec st r.next
      if n.kind = 2 then s.replaceRange id ei [(i, r), (r.next, n)] 2 0 else .ok s

/-- The completion of a calve or splice: the slot and generation of the replacing record (R140). -/
def replacedWord (s : State) (id i : Nat) : Dword :=
  match s.storeOf id with
  | some st => dw (i * 2 ^ 16 + (st.gen i).toNat % 256 * 2 ^ 8)
  | none => 0

/-- Both handles of a calve or splice, checked in order (R140). -/
def State.checkPair (s : State) (ctx : Nat) (a b : Dword) : Except EpFail (Nat × Store × Nat × Nat) := do
  let (ia, st, x) ← s.checkHandle ctx a
  let (ib, _, y) ← s.checkHandle ctx b
  if ia = ib then .ok (ia, st, x, y) else .error (.refuse 0x86)

/-- Kinds that a range may hold (R115). -/
def rangeKind (k : Nat) : Bool := k = 0 || k = 2 || k = 4

/-- ECALVE (R115, R140). -/
def State.epCalve (s : State) (ctx : Nat) (a b : Dword) : Except EpFail (Dword × State) := do
  let (id, st, x, y) ← s.checkPair ctx a b
  let ra ← s.readRec st x
  match st.live.get? ra.episode with
  | none => .error (.engine 0x10 x)
  | some ei =>
    match ← s.chain st ra.episode (st.high + 1) x x y with
    | none => .error (.refuse 0x86)
    | some l =>
      if l.all fun z => rangeKind z.2.kind then
        let s1 ← s.replaceRange id ei l 2 (rangeItems l)
        let (k, s2) ← s1.mergePrev id ei x
        let s3 ← s2.mergeNext id ei k
        .ok (replacedWord s3 id k, s3)
      else .error (.refuse 0x86)

/-- ESPLICE (R117, R140): the records strictly between. -/
def State.epSplice (s : State) (ctx : Nat) (x y : Dword) : Except EpFail (Dword × State) := do
  let (id, st, i, j) ← s.checkPair ctx x y
  let rx ← s.readRec st i
  match st.live.get? rx.episode with
  | none => .error (.engine 0x10 i)
  | some ei =>
    match ← s.chain st rx.episode (st.high + 1) i i j with
    | none => .error (.refuse 0x86)
    | some l =>
      let inner := (l.drop 1).dropLast
      match inner.head?, l.getLast? with
      | some (f, _), some (_, ry) =>
        if (inner.all fun z => rangeKind z.2.kind) && rangeKind ry.kind && decide (2 ≤ l.length) then
          let s1 ← s.replaceRange id ei inner 4 (rangeItems inner)
          .ok (replacedWord s1 id f, s1)
        else .error (.refuse 0x86)
      | _, _ => .error (.refuse 0x86)

/-! ### Cursors (R108, R109, R134 to R136, R139, R141) -/

/-- The lowest free id of an engine, or of the package (R109). -/
def freeCursor (used : Tbl Cursor) (engine : Nat) : Nat → Nat → Option Nat
  | 0, _ => none
  | n + 1, i => if (used.get? (engine + 16 * i)).isSome then freeCursor used engine n (i + 1) else some (engine + 16 * i)

def State.cursorId (s : State) (engine : Nat) : Option Nat :=
  let t := s.firn.cursors
  match freeCursor t engine (min 4096 (t.length + 1)) 0 with
  | some c => some c
  | none =>
    let all := (List.range 16).filterMap fun e => freeCursor t e (min 4096 (t.length + 1)) 0
    all.foldl (fun m c => match m with | some x => some (min x c) | none => some c) none

/-- A target VA that may be set (R134, R136). -/
def targetOk (va : Dword) : Bool := decide (va.toNat < 2 ^ 56) && va.toNat % 32 = 0

/-- ECUR (R134). -/
def State.epCursor (s : State) (ctx core : Nat) (ep dest : Dword) : Except EpFail (Dword × State) := do
  let (id, st, num, ei) ← s.checkEpisode ctx ep
  match s.cursorId (num % 16) with
  | none => .error (.refuse 0x82)
  | some c =>
    if targetOk dest then
      .ok (dw c, s.setCursor c { ctx := ctx, pos := handleOf id st ei, dest := dest, owner := core })
    else .error (.refuse 0x8B)

/-- ESEEK (R135): the handle is checked before the cursor (R127). -/
def State.epSeek (s : State) (ctx : Nat) (g h : Dword) : Except EpFail (Dword × State) := do
  let _ ← s.checkHandle ctx h
  let (n, c) ← s.checkCursor ctx g
  .ok (0, s.setCursor n { c with pos := h, armed := true, e := false })

/-- Whether a configuration word has a reserved bit set (R108). -/
def cfgReserved (cfg : Dword) : Bool :=
  field cfg.toNat 63 48 ≠ 0 || field cfg.toNat 23 20 ≠ 0 || field cfg.toNat 14 10 ≠ 0 || field cfg.toNat 7 0 ≠ 0

/-- ECFG (R136). -/
def State.epConfig (s : State) (ctx core : Nat) (g cfg va : Dword) : Except EpFail (Dword × State) := do
  let (n, c) ← s.checkCursor ctx g
  let port := bitN cfg.toNat 15 = 1
  if cfgReserved cfg || (!port && !targetOk va) then .error (.refuse 0x8B)
  else if port then .ok (0, s.setCursor n { c with cfg := cfg, dest := dw (field cfg.toNat 19 16), owner := core })
  else .ok (0, s.setCursor n { c with cfg := cfg, dest := va, off := 0, owner := core })

/-- ECOPY (R139). -/
def State.epCopy (s : State) (ctx : Nat) (g : Dword) : Except EpFail (Dword × State) := do
  let (n, c) ← s.checkCursor ctx g
  match s.cursorId (n % 16) with
  | none => .error (.refuse 0x82)
  | some m => if s.posLive c then .ok (dw (m * 2 ^ 8), s.setCursor m { c with play := none }) else .error (.refuse 0x8A)

/-- EPOS (R141). -/
def State.epPos (s : State) (ctx : Nat) (g sel : Dword) : Except EpFail (Dword × State) := do
  let (_, c) ← s.checkCursor ctx g
  match sel.toNat % 8 with
  | 0 => .ok (c.pos, s)
  | 1 =>
    match s.checkHandle ctx c.pos with
    | .error _ => .ok (dw (0xF00 + 4 * b2n c.e + 2 * b2n c.armed), s)
    | .ok (_, st, i) =>
      let r ← s.readRec st i
      .ok (dw (r.seq * 2 ^ 32 + r.kind * 2 ^ 8 + 4 * b2n c.e + 2 * b2n c.armed), s)
  | 2 => .ok (c.cfg, s)
  | 3 => .ok (c.dest, s)
  | 4 => .ok (dw c.off, s)
  | _ => .ok (0, s)

/-- Slots of an own chain from a record to its end. -/
def State.ownChain (s : State) (st : Store) (episode : Nat) : Nat → Nat → Nat → Except EpFail (List Nat)
  | 0, _, _ => .ok []
  | n + 1, holder, i => do
    let r ← s.linked st holder i episode
    if r.next = noSlot then .ok [i] else .ok (i :: (← s.ownChain st episode n i r.next))

/-- EFREE (R142). -/
def State.epRelease (s : State) (ctx : Nat) (g kind : Dword) : Except EpFail (Dword × State) := do
  match kind.toNat with
  | 0 =>
    let (n, _) ← s.checkCursor ctx g
    .ok (0, s.setFirn { s.firn with cursors := s.firn.cursors.erase n })
  | 1 =>
    let (id, st, num, ei) ← s.checkEpisode ctx g
    let e ← s.readEp st ei
    if e.branches ≠ 0 then .error (.refuse 0x88)
    else
      let l ← s.ownChain st num (st.high + 1) ei ei
      let s1 ← match st.live.get? e.parent with
        | some pi =>
          if e.parent = 0xFFFF_FFFF then .ok s
          else
            let p ← s.readEp st pi
            s.writeEp st pi { p with branches := p.branches - 1 }
        | none => .ok s
      .ok (0, s1.setStore id { st.release l with live := st.live.erase num })
  | 2 =>
    if 2 ^ 16 ≤ g.toNat then .error (.handle 0x09 g)
    else
      let st ← s.myStore ctx g.toNat g
      if st.live.isEmpty then .ok (0, s.setFirn { s.firn with stores := s.firn.stores.erase g.toNat })
      else .error (.refuse 0x89)
  | _ => .error (.refuse 0x8C)

/-! ### Registration (R99, R131) -/

/-- The refusal word (R125). -/
def refusalWord (code engine : Nat) : Dword := dw (engine % 256 * 2 ^ 48 + code % 256 * 2 ^ 40 + noSlot)

/-- A descriptor that R99 refuses for another reason than a duplicate id. -/
def descBad (d : List Dword) : Bool :=
  let base := (d.getD 0 0).toNat
  let w1 := (d.getD 1 0).toNat
  let k := field w1 4 0
  let cap := (d.getD 2 0).toNat
  k < 6 || 16 < k || base % 2 ^ k ≠ 0 || cap < 2 || 2 ^ 40 - 1 < cap || 2 ^ 56 < base + cap * 2 ^ k || 0xF < field w1 15 8
    || field w1 63 32 ≠ 0 || field w1 7 5 ≠ 0 || (d.drop 3).any (· ≠ 0)

/-- A store registered from its descriptor: the word EREG writes (R131). -/
def State.register (s : State) (ctx : Nat) (d : List Dword) : Dword × State :=
  let w1 := (d.getD 1 0).toNat
  let id := field w1 31 16
  if descBad d then (refusalWord 0x84 0, s)
  else if (s.storeOf id).isSome then (refusalWord 0x85 0, s)
  else
    (dw id, s.setStore id { ctx := ctx, base := d.getD 0 0, capacity := (d.getD 2 0).toNat, k := field w1 4 0
                            fmt := BitVec.ofNat 4 (field w1 11 8) })

end Sys2Proof.Machine
end

