-- ==== Sys2Proof/Machine/Grammar.lean ====
section
/-! DEFINITION. The grammar automaton units (R306 to R311): images, steps, masks, contexts, snapshots. -/

namespace Sys2Proof.Machine

/-- A compiled image's header (R306). -/
structure GramHdr where
  base : Nat
  v : Nat
  start : Nat
  n : Nat
  states : Nat
  trans : Nat
  masks : Nat
  checks : Nat
  length : Nat
  deriving DecidableEq, Repr

/-- A transition record. -/
structure Transition where
  token : Nat
  next : Nat
  pop : Nat
  push1 : Nat
  push2 : Nat
  deriving DecidableEq, Repr

/-- A state record. -/
structure GramState where
  first : Nat
  count : Nat
  check : Nat
  checks : Nat
  deriving DecidableEq, Repr

/-- Why a step or a mask is not given: a rejection code, a malformed record, or a failed read. -/
inductive GramErr where
  | reject (code : Nat)
  | malformed
  | memory (code : Nat) (va : Nat)
  deriving DecidableEq, Repr

/-- No symbol. -/
def noSymbol : Nat := 0xFFFF

/-- Doublewords of the image. -/
def State.gramRead (s : State) (ctx va n : Nat) : Except GramErr (List Dword) :=
  match s.engineDwords ctx va n with
  | .error e => .error (.memory e.1 e.2)
  | .ok ds => .ok ds

/-- The header of an image; none where a field lies outside its range (R306). -/
def gramHdrOf (base : Nat) (d : List Dword) : Option GramHdr :=
  let w (i : Nat) : Nat := (d.getD i 0).toNat
  let h : GramHdr :=
    { base := base, v := field (w 0) 34 16, start := field (w 1) 47 32, n := field (w 1) 16 0
      states := w 2, trans := w 3, masks := w 4, checks := w 5, length := w 6 }
  if field (w 0) 63 35 = 0 && field (w 0) 15 0 = 1 && 1 ≤ h.v && h.v ≤ 262144 && field (w 1) 63 48 = 0 && field (w 1) 31 17 = 0
      && 1 ≤ h.n && h.n ≤ 65536 && h.start < h.n && w 7 = 0 && h.states + 16 * h.n ≤ h.length && h.trans ≤ h.length
      && h.masks + h.n * (ceilDiv h.v 4096 * 512) ≤ h.length && h.checks ≤ h.length then some h
  else none

def State.gramHdr (s : State) (ctx base : Nat) : Except GramErr GramHdr := do
  let d ← s.gramRead ctx base 8
  match gramHdrOf base d with
  | some h => .ok h
  | none => .error .malformed

def State.gramState (s : State) (ctx : Nat) (h : GramHdr) (st : Nat) : Except GramErr GramState := do
  let d ← s.gramRead ctx (h.base + h.states + 16 * st) 2
  let a := (d.getD 0 0).toNat
  let b := (d.getD 1 0).toNat
  let r : GramState := { first := field a 31 0, count := field a 63 32, check := field b 31 0, checks := field b 47 32 }
  if st < h.n && h.trans + 16 * (r.first + r.count) ≤ h.length && h.checks + 4 * (r.check + r.checks) ≤ h.length then .ok r
  else .error .malformed

def State.gramTrans (s : State) (ctx : Nat) (h : GramHdr) (i : Nat) : Except GramErr Transition := do
  let d ← s.gramRead ctx (h.base + h.trans + 16 * i) 2
  let b := (d.getD 1 0).toNat
  let t : Transition := { token := field (d.getD 0 0).toNat 17 0, next := field b 15 0, pop := field b 31 16
                          push1 := field b 47 32, push2 := field b 63 48 }
  if t.token < h.v && t.next < h.n then .ok t else .error .malformed

/-- The check list of a state: transition indices (R306). -/
def State.gramChecks (s : State) (ctx : Nat) (h : GramHdr) (g : GramState) : Except GramErr (List Nat) :=
  match s.engineRead ctx (h.base + h.checks + 4 * g.check) (4 * g.checks) with
  | .error e => .error (.memory e.1 e.2)
  | .ok bs =>
    let l := (List.range g.checks).map fun i => leNat ((bs.drop (4 * i)).take 4)
    if l.all fun i => g.first ≤ i && i < g.first + g.count then .ok l else .error .malformed

/-- The transition of a state on a token, by binary search among [lo, hi) (R307). -/
def State.findTrans (s : State) (ctx : Nat) (h : GramHdr) (t : Nat) : Nat → Nat → Nat → Except GramErr (Nat × Transition)
  | 0, _, _ => .error (.reject 0x90)
  | n + 1, lo, hi =>
    if hi ≤ lo then .error (.reject 0x90)
    else do
      let mid := (lo + hi) / 2
      let x ← s.gramTrans ctx h mid
      if x.token = t then .ok (mid, x)
      else if x.token < t then s.findTrans ctx h t n (mid + 1) hi
      else s.findTrans ctx h t n lo mid

def Transition.pops (x : Transition) : Bool := x.pop ≠ noSymbol

def Transition.pushes (x : Transition) : List Nat := [x.push1, x.push2].filter (· ≠ noSymbol)

/-- Whether the pop matches the stack, top first (R307). -/
def Transition.matches (x : Transition) (stack : List Nat) : Bool := !x.pops || stack.head? = some x.pop

/-- Whether the stack stays within 256 (R307). -/
def Transition.fits (x : Transition) (stack : List Nat) : Bool :=
  decide (stack.length + x.pushes.length ≤ 256 + b2n x.pops)

def Transition.enabled (x : Transition) (stack : List Nat) : Bool := x.matches stack && x.fits stack

/-- The stack after a transition: push 1, then push 2. -/
def Transition.apply (x : Transition) (stack : List Nat) : List Nat :=
  x.pushes.reverse ++ (if x.pops then stack.tail else stack)

/-- GSTEP with a token (R307): the context after it. -/
def State.gramStep (s : State) (g : Gram) (t : Nat) : Except GramErr Gram := do
  if g.broken then .error .malformed
  else
    let h ← s.gramHdr g.ctx g.image.toNat
    if h.v ≤ t then .error (.reject 0x93)
    else
      let st ← s.gramState g.ctx h g.state
      let (i, x) ← s.findTrans g.ctx h t 33 st.first (st.first + st.count)
      let listed ← if x.pops || !x.pushes.isEmpty then (s.gramChecks g.ctx h st).map (·.contains i) else .ok true
      if !listed then .error .malformed
      else if !x.matches g.stack then .error (.reject 0x91)
      else if !x.fits g.stack then .error (.reject 0x92)
      else .ok { g with state := x.next, stack := x.apply g.stack, position := g.position + 1 }

/-- Bits of check-listed transitions that are not enabled, cleared from a mask (R307). -/
def State.maskChecks (s : State) (g : Gram) (h : GramHdr) : Nat → List Nat → Except GramErr Nat
  | m, [] => .ok m
  | m, i :: is => do
    let x ← s.gramTrans g.ctx h i
    s.maskChecks g h (if !x.enabled g.stack && m.testBit x.token then m - 2 ^ x.token else m) is

/-- The mask of a context, bit t for token t, with the vocabulary (R307). -/
def State.gramMask (s : State) (g : Gram) : Except GramErr (Nat × Nat) := do
  if g.broken then .error .malformed
  else
    let h ← s.gramHdr g.ctx g.image.toNat
    let st ← s.gramState g.ctx h g.state
    let n := ceilDiv h.v 4096 * 512
    let row ← match s.engineRead g.ctx (h.base + h.masks + n * g.state) n with
      | .error e => .error (.memory e.1 e.2)
      | .ok bs => .ok (leNat bs % 2 ^ h.v)
    let l ← s.gramChecks g.ctx h st
    let m ← s.maskChecks g h row l
    .ok (m, h.v)

/-! ### Contexts and snapshots -/

def State.setGram (s : State) (i : Nat) (g : Gram) : State := s.setGen { s.gen with grams := s.gen.grams.set i g }

/-- A context of the requester (R311). -/
def State.myGram (s : State) (ctx : Nat) (a : Dword) : Except EpFail (Nat × Gram) :=
  match s.gen.grams.get? a.toNat with
  | some g => if g.ctx = ctx then .ok (a.toNat, g) else .error (.refuse 0x94)
  | none => .error (.refuse 0x94)

/-- The lowest free index at or above a base. -/
def lowestFreeFrom {α : Type} (t : Tbl α) (base : Nat) : Nat → Nat → Option Nat
  | 0, _ => none
  | n + 1, i => if (t.get? (base + i)).isSome then lowestFreeFrom t base n (i + 1) else some (base + i)

/-- A free context id: on the die, else on the other (R311). -/
def State.freeGram (s : State) (die : Nat) : Option Nat :=
  let t := s.gen.grams
  let n := min 4096 (t.length + 1)
  match lowestFreeFrom t (4096 * die) n 0 with
  | some i => some i
  | none => lowestFreeFrom t (4096 * (1 - die)) n 0

/-- A snapshot handle: generation and index (R309). -/
def State.snapHandle (s : State) (i : Nat) : Dword := dw (s.gen.snapGens.getD i 0 % 256 * 2 ^ 16 + i)

/-- A snapshot taken: its handle (R309). -/
def State.gramSnap (s : State) (g : Gram) : Option (Dword × State) :=
  match lowestFreeFrom s.gen.snaps 0 (min 65536 (s.gen.snaps.length + 1)) 0 with
  | none => none
  | some i =>
    let x : Snap := { ctx := g.ctx, image := g.image, state := g.state, stack := g.stack, position := g.position }
    some (s.snapHandle i, s.setGen { s.gen with snaps := s.gen.snaps.set i x })

/-- The snapshot a handle names (R311). -/
def State.mySnap (s : State) (ctx : Nat) (h : Dword) : Except EpFail (Nat × Snap) :=
  let i := field h.toNat 15 0
  match s.gen.snaps.get? i with
  | some x => if x.ctx = ctx && h = s.snapHandle i then .ok (i, x) else .error (.refuse 0x98)
  | none => .error (.refuse 0x98)

/-- The tokens of a mask (R311). -/
def maskTokens (m v : Nat) : List Token :=
  let n := ceilDiv v 4096
  (List.range n).map fun k =>
    { fmt := 7, last := k + 1 == n, lanes := (List.range 64).map fun j => ⟨dw (field m (4096 * k + 64 * j + 63) (4096 * k + 64 * j)), true⟩ }

/-- What a GRAM form comes to: at once, with the state where it fails, or later. -/
inductive GramRes where
  | now (r : Except EpFail (Dword × State)) (s : State)
  | later (s : State)

/-- A step's answer: a rejection as a refusal, a broken context kept (R307). -/
def State.gramStepOp (s : State) (ctx : Nat) (a t : Dword) : GramRes :=
  match s.myGram ctx a with
  | .error e => .now (.error e) s
  | .ok (i, g) =>
    match s.gramStep g t.toNat with
    | .ok g1 => .now (.ok (dw (g1.stack.length * 2 ^ 16 + g1.state), s.setGram i g1)) s
    | .error (.reject c) => .now (.error (.refuse c)) s
    | .error .malformed => .now (.error (.refuse 0x95)) (s.setGram i { g with broken := true })
    | .error (.memory _ _) => .now (.error (.refuse 0x95)) s

/-- GMASK (R311). -/
def State.gramMaskOp (s : State) (ctx core task : Nat) (asker : Asker) (a b : Dword) : GramRes :=
  match s.myGram ctx a with
  | .error e => .now (.error e) s
  | .ok (i, g) =>
    match s.gramMask g with
    | .error (.reject c) => .now (.error (.refuse c)) s
    | .error .malformed => .now (.error (.refuse 0x95)) (s.setGram i { g with broken := true })
    | .error (.memory 0x07 _) => .now (.error (.status 0x05 0)) s
    | .error (.memory c _) => .now (.error (.status 0x04 c)) s
    | .ok (m, v) =>
      let allowed := bitsSet m v
      if b.getLsbD 63 then
        let port := b.toNat % 16
        if field b.toNat 62 4 ≠ 0 then .now (.error (.status 0x01 0)) s
        else
          if !(s.core core).binds ctx (.input port) then .now (.error (.engine 0x20 0)) s
          else
            .later (s.modCore core fun (c : CoreState) =>
              { c with
                feeds := c.feeds ++
                  [⟨c.nextFeed, port, ctx, task, .mask ⟨asker, core, ctx, task, allowed⟩, maskTokens m v⟩],
                nextFeed := c.nextFeed + 1 })
      else if b.toNat % 512 ≠ 0 then .now (.error (.status 0x04 0x02)) s
      else
        match s.agentWrite ctx b.toNat (leBytes (ceilDiv v 4096 * 512) m) with
        | .error e => .now (.error (.status 0x04 e.1)) s
        | .ok s1 => .now (.ok (dw (allowed * 2 ^ 8), s1)) s

/-- GINIT (R311). -/
def State.gramInitOp (s : State) (ctx core : Nat) (a : Dword) : GramRes :=
  if a.toNat % 64 ≠ 0 then .now (.error (.refuse 0x99)) s
  else
    match s.gramHdr ctx a.toNat with
    | .error (.memory 0x07 _) => .now (.error (.status 0x05 0)) s
    | .error (.memory c _) => .now (.error (.status 0x04 c)) s
    | .error _ =>
      -- the lowest code is reported where both apply
      .now (.error (.refuse (if (s.freeGram (dieOf core)).isNone then 0x96 else 0x99))) s
    | .ok h =>
      match s.freeGram (dieOf core) with
      | none => .now (.error (.refuse 0x96)) s
      | some i => .now (.ok (dw (i * 2 ^ 8), s.setGram i { ctx := ctx, image := a, state := h.start })) s

/-- GFORK and GSNAP on a broken context fault (R311). -/
def brokenFault (a : Dword) : EpFail := .handle 0x0B a

/-- A GRAM form at its unit (R310, R311). -/
def State.gramOp (s : State) (ctx core task : Nat) (asker : Asker) (fn : Nat) (a b : Dword) : GramRes :=
  match fn with
  | 1 => s.gramInitOp ctx core a
  | 2 => s.gramStepOp ctx a b
  | 3 => s.gramMaskOp ctx core task asker a b
  | 4 =>
    match s.myGram ctx a with
    | .error e => .now (.error e) s
    | .ok (_, g) =>
      if g.broken then .now (.error (brokenFault a)) s
      else
        match s.freeGram (dieOf core) with
        | none => .now (.error (.refuse 0x96)) s
        | some j => .now (.ok (dw j, s.setGram j g)) s
  | 5 =>
    match s.myGram ctx a with
    | .error e => .now (.error e) s
    | .ok (_, g) =>
      if g.broken then .now (.error (brokenFault a)) s
      else
        match s.gramSnap g with
        | none => .now (.error (.refuse 0x96)) s
        | some r => .now (.ok r) s
  | 6 =>
    match s.myGram ctx a with
    | .error e => .now (.error e) s
    | .ok (i, g) =>
      match s.mySnap ctx b with
      | .error e => .now (.error e) s
      | .ok (_, x) =>
        if x.image = g.image then
          .now (.ok (0, s.setGram i { g with state := x.state, stack := x.stack, position := x.position })) s
        else .now (.error (.refuse 0x97)) s
  | _ =>
    match b.toNat with
    | 0 =>
      match s.myGram ctx a with
      | .error e => .now (.error e) s
      | .ok (i, _) => .now (.ok (0, s.setGen { s.gen with grams := s.gen.grams.erase i })) s
    | 1 =>
      match s.mySnap ctx a with
      | .error e => .now (.error e) s
      | .ok (i, _) =>
        .now (.ok (0, s.setGen { s.gen with snaps := s.gen.snaps.erase i, snapGens := s.gen.snapGens.set i (s.gen.snapGens.getD i 0 + 1) })) s
    | _ => .now (.error (.refuse 0x8C)) s

end Sys2Proof.Machine
end

