-- ==== Sys2Proof/Machine/Engine.lean ====
section
/-! DEFINITION. Requests to the episode engines and grammar units: their order (R110, R118, R124), their answers (R123 to
R129), and plays (R111 to R113, R137). -/

namespace Sys2Proof.Machine

/-! ### Answers -/

/-- A completion word (R46): the ops of posted forms give bits [63:8] in place. -/
def postedWord : Except EpFail Dword → Dword
  | .ok v => v
  | .error (.handle c _) => response 0x06 c
  | .error (.refuse c) => dw c
  | .error (.engine c v) => response 0x06 (c + v * 2 ^ 8)
  | .error (.poison _) => response 0x05 0
  | .error (.payload c _) => response 0x04 c
  | .error (.status st v) => response st v

/-- The result of a long-latency form: a value, or a fault with its tval (R127). -/
def longWord : Except EpFail Dword → Dword × Option (Nat × Dword)
  | .ok v => (v, none)
  | .error (.handle c v) => (0, some (c, v))
  | .error (.refuse c) => (refusalWord c 0, none)
  | .error (.engine c _) => (refusalWord 0x8D c, none)
  | .error (.poison va) => (0, some (0x07, va))
  | .error (.payload c va) => (0, some (c, va))
  | .error (.status _ _) => (refusalWord 0x8D 0, none)

/-- Whether a function code of a list is a long-latency form, or EREG (R122, R310). -/
def EpOp.isLong : EpOp → Bool
  | .new _ => true
  | .append _ _ _ => true
  | .cursor _ _ => true
  | .pos _ _ => true
  | .register _ => true
  | .gram fn _ _ => fn = 2 || fn = 4 || fn = 5
  | _ => false

/-- The code a failed entry of a request list leaves (R422); none for an entry that ended well. -/
def listCode (long : Bool) (r : Except EpFail Dword) : Option Nat :=
  match r with
  | .ok _ => none
  | .error (.refuse c) => some c
  | .error (.engine _ _) => some (if long then 0x8D else 0x22)
  | .error (.status st _) => some (if 0x80 ≤ st then st else 0x22)
  | .error (.handle c _) => some (if long then c else 0x22)
  | .error (.poison _) => some (if long then 0x07 else 0x22)
  | .error (.payload c _) => some c

/-- An entry of a task's list answered: its results word, and the list's end at a failure (R358). -/
def State.answerTask (s : State) (tid : Nat) (long : Bool) (r : Except EpFail Dword) : State :=
  match s.task tid with
  | none => s
  | some t =>
    let word : Option Dword := if long then (match longWord r with
      | (v, none) => some v
      | (_, some _) => none) else some (postedWord r)
    let s1 := match word with
      | some w =>
        if t.results = 0 then s
        else
          match s.agentWrite t.ctx (t.results.toNat + 8 * t.done) (leBytes 8 w.toNat) with
          | .ok s1 => s1
          | .error _ => s
      | none => s
    match listCode long r with
    | none => s1.setTask tid { t with done := t.done + 1, issued := false }
    | some code =>
      let s2 := s1.setFirn { s1.firn with reqs := s1.firn.reqs.filter (·.asker ≠ .task tid) }
      s2.taskKilled tid t code

/-- The handle token of an AGEP's row (R155). -/
def handleToken (r : Except EpFail Dword) : Token :=
  let t (v : Dword) (ok : Bool) : Token := { fmt := 7, lanes := [⟨v, ok⟩] }
  match r with
  | .ok v => t v true
  | .error (.refuse c) => t (refusalWord c 0) true
  | .error (.engine c _) => t (refusalWord 0x8D c) true
  | _ => t 0 false

/-- Whether an AGEP's append sets the append-failed bit: its episode id failed, or its data was refused or poisoned. -/
def appendFailed (r : Except EpFail Dword) : Bool :=
  match r with
  | .ok _ => false
  | .error (.refuse _) => false
  | .error (.engine _ _) => false
  | _ => true

/-- An operation answered. -/
def State.answer (s : State) (asker : Asker) (long : Bool) (r : Except EpFail Dword) : State :=
  match asker with
  | .long core sid tag =>
    let w := longWord r
    s.sendCompletion { core := core, sid := sid, space := 2, tag := tag, value := w.1, fault := w.2 }
  | .posted core sid tag => s.windowPut core sid tag (postedWord r)
  | .agep core region cell =>
    s.modRegion core region fun x =>
      let c := x.cell cell
      { x.setCell cell { c with ag := { c.ag with append := none, handles := c.ag.handles ++ [handleToken r] } } with
        sumAppend := x.sumAppend || appendFailed r }
  | .nobody _ => s
  | .task tid => s.answerTask tid long r

/-! ### Order -/

/-- The cursor a request names (R110). -/
def EpOp.cursorOf : EpOp → Option Nat
  | .seek c _ => some c.toNat
  | .config c _ _ => some c.toNat
  | .play c _ => some c.toNat
  | .branch c => some c.toNat
  | .copy c => some c.toNat
  | .pos c _ => some c.toNat
  | .release g k => if k = 0 then some g.toNat else none
  | _ => none

/-- Operations with a step of their own at an engine (R107, R114, R115, R117). -/
def EpOp.evented : EpOp → Bool
  | .append _ _ _ => true
  | .calve _ _ => true
  | .splice _ _ => true
  | .branch _ => true
  | _ => false

/-- The engine a handle's record is served by: its episode's (R106). -/
def State.handleEngine (s : State) (ctx : Nat) (h : Dword) : Nat :=
  match s.checkHandle ctx h with
  | .error _ => 0
  | .ok (_, st, i) =>
    match s.readRec st i with
    | .ok r => r.episode % 16
    | .error _ => 0

/-- The engine that serves an operation (R100, R106, R108); 16 for a grammar unit. -/
def State.engineOf (s : State) (ctx : Nat) (op : EpOp) : Nat :=
  match op with
  | .new g => g.toNat % 16
  | .append e _ _ => e.toNat % 16
  | .cursor e _ => e.toNat % 16
  | .splice x _ => s.handleEngine ctx x
  | .calve a _ => s.handleEngine ctx a
  | .release g _ => g.toNat % 16
  | .register _ => 0
  | .gram _ _ _ => 16
  | op => op.cursorOf.getD 0 % 16

/-- Whether two requests come from one strand, one AGEP or one list. -/
def sameSource (a b : Asker) : Bool :=
  match a, b with
  | .task x, .task y => x = y
  | .nobody x, .nobody y => x = y
  | .agep c r e, .agep c' r' e' => c = c' && r = r' && e = e'
  | .long c x _, .long c' x' _ => c = c' && x = x'
  | .long c x _, .posted c' x' _ => c = c' && x = x'
  | .posted c x _, .long c' x' _ => c = c' && x = x'
  | .posted c x _, .posted c' x' _ => c = c' && x = x'
  | _, _ => false

def Asker.isTask : Asker → Bool
  | .task _ => true
  | _ => false

/-- Whether a cursor's play is in progress. -/
def State.playing (s : State) (c : Nat) : Bool :=
  match s.firn.cursors.get? c with
  | some x => x.play.isSome
  | none => false

/-- A request behind an earlier operation on its cursor (R110). -/
def State.behindCursor (s : State) (before : List EpReq) (r : EpReq) : Bool :=
  match r.op.cursorOf with
  | none => false
  | some c => s.playing c || before.any (·.op.cursorOf = some c)

/-- Whether a request must wait: for its cursor, for an earlier request of its source at its engine, for the release of its
issue, for its context's return (R110, R119, R124, R358, R380). -/
def State.waits (s : State) (before : List EpReq) (r : EpReq) : Bool :=
  s.behindCursor before r || !s.drained r.core r.after || s.stopped r.core r.ctx ||
    (before.any fun q => sameSource q.asker r.asker &&
      (q.asker.isTask ||
        (s.engineOf q.ctx q.op == s.engineOf r.ctx r.op && !s.behindCursor (before.takeWhile (·.id ≠ q.id)) q))) ||
    (match r.asker with
      | .task t => s.firn.cursors.any fun c => match c.2.play with
        | some p => p.asker = .task t
        | none => false
      | _ => false)

/-- The first request that may be taken, of those a predicate admits. -/
def State.firstReq (s : State) (p : EpReq → Bool) : List EpReq → List EpReq → Option EpReq
  | _, [] => none
  | before, r :: rs => if p r && !s.waits before r then some r else s.firstReq p (before ++ [r]) rs

def State.dropReq (s : State) (id : Nat) : State :=
  s.setFirn { s.firn with reqs := s.firn.reqs.filter (·.id ≠ id) }

/-! ### Operations -/

/-- EREG of a list: its descriptor read by the engine (R131, R358). -/
def State.registerAt (s : State) (ctx : Nat) (va : Dword) : Except EpFail (Dword × State) :=
  if va.toNat % 64 ≠ 0 then .error (.handle 0x02 va)
  else
    match s.engineDwords ctx va.toNat 8 with
    | .error e => .error (if e.1 = 0x07 then .poison (dw e.2) else .payload e.1 (dw e.2))
    | .ok d =>
      let r := s.register ctx d
      if field r.1.toNat 39 0 = noSlot then .error (.refuse (field r.1.toNat 47 40)) else .ok r

/-- A play begins (R111, R137); a count of 0 examines nothing. -/
def State.epPlay (s : State) (task : Nat) (ctx : Nat) (asker : Asker) (g n : Dword) : State :=
  match s.checkCursor ctx g with
  | .error e => s.answer asker false (.error e)
  | .ok (k, c) =>
    if 2 ^ 32 ≤ n.toNat then s.answer asker false (.error (.refuse (if s.posLive c then 0x8C else 0x8A)))
    else if !s.posLive c then s.answer asker false (.error (.refuse 0x8A))
    else if n = 0 then s.answer asker false (.ok 0)
    else
      s.setCursor k { c with
        play := some { asker := asker, task := task, n := n.toNat, cur := c.pos, armed := c.armed, last := c.pos } }

/-- An operation that succeeds answers its value; one that fails leaves the state given. -/
def State.concluded (s : State) (asker : Asker) (long : Bool) (r : Except EpFail (Dword × State)) : State :=
  match r with
  | .ok (v, s1) => s1.answer asker long (.ok v)
  | .error e => s.answer asker long (.error e)

/-- One request carried out. -/
def State.performReq (s : State) (r : EpReq) : State :=
  let s := s.dropReq r.id
  let fin := s.concluded r.asker r.op.isLong
  match r.op with
  | .new g =>
    match s.epNew r.ctx g with
    | (.ok (v, s1), _) => s1.answer r.asker true (.ok v)
    | (.error e, s1) => s1.answer r.asker true (.error e)
  | .append e p sal => fin (s.epAppend r.ctx e p sal r.inline_)
  | .cursor e d => fin (s.epCursor r.ctx r.core e d)
  | .seek c h => fin (s.epSeek r.ctx c h)
  | .config c w va => fin (s.epConfig r.ctx r.core c w va)
  | .play c n => s.epPlay r.task r.ctx r.asker c n
  | .branch c => fin (s.epBranch r.ctx c)
  | .copy c => fin (s.epCopy r.ctx c)
  | .splice x y => fin (s.epSplice r.ctx x y)
  | .calve a b => fin (s.epCalve r.ctx a b)
  | .pos c sel => fin (s.epPos r.ctx c sel)
  | .release g k => fin (s.epRelease r.ctx g k)
  | .register va => fin (s.registerAt r.ctx va)
  | .gram fn a b =>
    match s.gramOp r.ctx r.core r.task r.asker fn a b with
    | .later s1 => s1
    | .now (.ok (v, s1)) _ => s1.answer r.asker r.op.isLong (.ok v)
    | .now (.error e) s1 => s1.answer r.asker r.op.isLong (.error e)

/-- Requests without a step of their own, carried out as soon as they may be, in order. -/
def State.drainReqs : Nat → State → State
  | 0, s => s
  | n + 1, s =>
    match s.firstReq (fun r => !r.op.evented) [] s.firn.reqs with
    | none => s
    | some r => State.drainReqs n (s.performReq r)

def State.drainEp (s : State) : State := State.drainReqs s.firn.reqs.length s

/-- A request issued. -/
def State.pushReq (s : State) (r : EpReq) : State :=
  (s.setFirn { s.firn with reqs := s.firn.reqs ++ [{ r with id := s.firn.nextId }], nextId := s.firn.nextId + 1 }).drainEp

/-- One of the evented operations takes its step at its engine. -/
def State.atEngine (s : State) (id : Nat) (p : EpOp → Bool) : State :=
  match s.firstReq (fun r => r.id = id && p r.op) [] s.firn.reqs with
  | none => s
  | some r => (s.performReq r).drainEp

/-! ### Plays -/

/-- The step of a cursor's direction from a record (R111): the next record's slot and header, or none. -/
def State.stepFrom (s : State) (id : Nat) (st : Store) (i : Nat) (back : Bool) : Except EpFail (Option (Dword × Rec)) := do
  let r ← s.readRec st i
  if back then
    if r.prev = noSlot then .ok none
    else
      let home ← if r.kind = 3 then (s.readEp st i).map (·.parent) else .ok r.episode
      let p ← s.linked st i r.prev home
      .ok (some (handleOf id st r.prev, p))
  else if r.next = noSlot then .ok none
  else
    let n ← s.linked st i r.next r.episode
    .ok (some (handleOf id st r.next, n))

/-- Tokens of an item's payload, 512 bytes each (R112). -/
def payloadTokens (fmt : BitVec 4) (bs : List Byte) : List Token :=
  let parts := chunksOf 512 (bs.length + 1) bs
  let n := parts.length
  (List.range n).map fun i =>
    let p := parts.getD i []
    { fmt := fmt, last := i + 1 == n, lanes := lanesOf fmt (leNat p) (lanesIn fmt (8 * p.length)) }

/-- A header as a token of its kind (R112). -/
def headerToken (kind : Kind) (last : Bool) (ws : List Dword) : Token :=
  { kind := kind, last := last, fmt := 7, lanes := ws.map fun w => ⟨w, true⟩ }

/-- A play's completion (R137). -/
def playWord (count : Nat) (e : Bool) : Dword := dw (b2n e * 2 ^ 40 + count % 2 ^ 32 * 2 ^ 8)

/-- A play ended well: at its count, or past the end (R111). -/
def State.playEnd (s : State) (k : Nat) (c : Cursor) (p : Play) (pos : Dword) (e : Bool) : State :=
  ((s.setCursor k { c with pos := pos, e := e, armed := false, play := none }).answer p.asker false (.ok (playWord p.count e))).drainEp

/-- A play stopped by a failure: pos is the last record emitted (R137). -/
def State.playFail (s : State) (k : Nat) (c : Cursor) (p : Play) (f : EpFail) : State :=
  ((s.setCursor k { c with armed := false, play := none }).answer p.asker false (.error f)).drainEp

/-- The end of a record's emission: it becomes pos, and the play may be at its count (R111). -/
def State.emitted (s : State) (k : Nat) (c : Cursor) (p : Play) : State :=
  let c1 := { c with pos := p.cur }
  let p1 := { p with out := [], emitting := false }
  if p1.count = p1.n then s.playEnd k c1 p1 p1.cur false else s.setCursor k { c1 with play := some p1 }

/-- Whether pace lets the play emit its next item now (R113). -/
def paceOk (cfg : Dword) (tns t0 count : Nat) : Bool :=
  let pace := field cfg.toNat 47 32
  pace = 0 || 4096 < pace || decide (t0 * pace + 16000 * count ≤ tns * pace)

/-- Whether a record is sent, by kind and mode (R111). -/
def sends (cfg : Dword) (r : Rec) : Bool :=
  let skim := bitN cfg.toNat 9 = 1
  r.kind = 2 || (r.kind = 4 && !skim) || (r.kind = 0 && (!skim || decide (field cfg.toNat 31 24 ≤ r.salience)))

/-- The link of a cursor's port target (R112, R137). -/
def State.playLink (s : State) (c : Cursor) : Option (Nat × Nat) :=
  (s.core c.owner).portLink c.ctx (.input c.dest.toNat)

/-- Whether the region that binds a cursor's port target is frozen: the play waits for it (R420). -/
def State.playAway (s : State) (c : Cursor) : Bool := (s.core c.owner).portAway c.ctx (.input c.dest.toNat)

/-- A record met by a play's step: sent, or passed (R111, R112). -/
def State.playMeet (s : State) (k : Nat) (c : Cursor) (p : Play) (st : Store) (h : Dword) (r : Rec) : State :=
  let i := field h.toNat 39 0
  let t0 := if p.begun then p.t0 else s.tns
  if sends c.cfg r && r.kind = 0 && !paceOk c.cfg s.tns t0 p.count then
    -- the item's time has not come (R113)
    (if p.begun then s else s.setCursor k { c with play := some { p with begun := true, t0 := t0 } })
  else
    let p1 := { p with cur := h, armed := false, begun := true, t0 := t0, last := if r.kind = 1 then p.last else h }
    if !sends c.cfg r then s.setCursor k { c with play := some p1 }
    else
      let p2 := if r.kind = 0 then { p1 with count := p1.count + 1 } else p1
      let hdr := { r with gen := (st.gen i).toNat : Rec }.words
      let n := if r.kind = 0 then 2 ^ st.k else 32
      match s.engineRead c.ctx (st.slotVa i) n with
      | .error e => s.playFail k c p (recordFail i e)
      | .ok bs =>
        if bitN c.cfg.toNat 15 = 1 then
          match s.playLink c with
          | none => if s.playAway c then s else s.playFail k c p (.engine 0x20 0)
          | some _ =>
            let out := match r.kind with
              | 0 => headerToken .item false hdr :: payloadTokens st.fmt (bs.drop 32)
              | 2 => [headerToken .crevasse true hdr]
              | _ => [headerToken .splice true hdr]
            s.setCursor k { c with play := some { p2 with out := out, emitting := true } }
        else if 2 ^ 32 - 1 < c.off + n then s.playFail k c p (.engine 0x13 c.off)
        else
          match s.agentWrite c.ctx (c.dest.toNat + c.off) bs with
          | .error e =>
            if e.1 = 0x07 then s.playFail k c p (.poison (dw e.2))
            else s.playFail k c p (.engine (if e.1 = 0x03 then 0x11 else 0x12) c.off)
          | .ok s1 => s1.emitted k { c with off := c.off + n } p2

/-- The next record of a play, examined in one step (R111, R137). -/
def State.playExamine (s : State) (k : Nat) (c : Cursor) (p : Play) : State :=
  match s.checkHandle c.ctx p.cur with
  | .error _ =>
    -- at the first step the play is refused and the cursor unchanged
    if p.begun then s.playFail k c p (.refuse 0x8A)
    else ((s.setCursor k { c with play := none }).answer p.asker false (.error (.refuse 0x8A))).drainEp
  | .ok (id, st, i) =>
    if p.armed then
      match s.readRec st i with
      | .error f => s.playFail k c p f
      | .ok r => s.playMeet k c p st p.cur r
    else
      match s.stepFrom id st i (bitN c.cfg.toNat 8 = 1) with
      | .error f => s.playFail k c p f
      | .ok none => s.playEnd k c p p.last true
      | .ok (some (h, r)) => s.playMeet k c p st h r

/-- A token of the record in emission placed on the port (R112); its end. -/
def State.playPlace (s : State) (k : Nat) (c : Cursor) (p : Play) (t : Token) (rest : List Token) : State :=
  match s.playLink c with
  | none => if s.playAway c then s else s.playFail k c p (.engine 0x20 0)
  | some (region, link) =>
    let port := c.dest.toNat
    if s.feedable c.owner port region link (.play k) then
      let s1 := s.feed c.owner port region link (.play k) t
      if rest.isEmpty then s1.emitted k c p else s1.setCursor k { c with play := some { p with out := rest } }
    else s

/-- One step of a cursor's play. -/
def State.playStep (s : State) (k : Nat) : State :=
  match s.firn.cursors.get? k with
  | none => s
  | some c =>
    match c.play with
    | none => s
    | some p =>
      match p.out with
      | t :: rest => s.playPlace k c p t rest
      | [] => if p.emitting then s.emitted k c p else s.playExamine k c p

end Sys2Proof.Machine
end

