-- ==== Sys2Proof/Machine/Rows.lean ====
section
/-! DEFINITION. What the generation boundary keeps of an iteration's rows (R290 to R297): outcomes, and the kernel rows that an
event of their region voids (R295). -/

namespace Sys2Proof.Machine

/-- The running iteration of a core is the first of its iterations (R289). -/
def CoreState.setIter (c : CoreState) (it : Iter) : CoreState := { c with iters := it :: c.iters.tail }

def State.iter (s : State) (core : Nat) : Option Iter := (s.core core).iters.head?

def State.setIter (s : State) (core : Nat) (it : Iter) : State := s.modCore core fun c => c.setIter it

/-- The doublewords of a slot's policy record (R292). -/
def Iter.policy (it : Iter) (slot i : Nat) : Nat := ((it.policies.getD slot []).getD i 0).toNat

def Iter.slot (it : Iter) (i : Nat) : SampSlot := it.slots.getD i {}

def Iter.setSlot (it : Iter) (i : Nat) (x : SampSlot) : Iter := { it with slots := it.slots.set i x }

def Iter.seq (it : Iter) (j : Nat) : SeqState := it.seqs.getD j { words := none }

def Iter.setSeq (it : Iter) (j : Nat) (x : SeqState) : Iter := { it with seqs := it.seqs.set j x }

/-- The first row of an index without an outcome has come out (R293 to R296). -/
def setOutcome (i : Nat) (o : RowOutcome) : List RowEntry → List RowEntry
  | [] => []
  | r :: rs => if r.index = i && r.outcome.isNone then { r with outcome := some o } :: rs else r :: setOutcome i o rs

def Iter.outcome (it : Iter) (row : GenRow) (o : RowOutcome) : Iter :=
  it.setSeq row.entry { it.seq row.entry with got := setOutcome row.index o (it.seq row.entry).got }

/-- The return and the send port of a slot's kernel (R292). -/
def Iter.returnPort (it : Iter) (slot : Nat) : Nat := field (it.policy slot 4) 7 4
def Iter.sendPort (it : Iter) (slot : Nat) : Nat := field (it.policy slot 4) 3 0

/-- A slot's kernel row voided (R295): of a row of which no token has been sent nothing returns, of any other every token up to
the kernel's next last mark is dropped. -/
def Iter.voidKernel (it : Iter) (slot status : Nat) : Iter :=
  let x := it.slot slot
  match x.kernel with
  | none => it
  | some k => (it.setSlot slot { x with kernel := none, dropping := k.ends.isSome }).outcome k.row (.void status)

/-- A kernel's row that is still to be sent whole is not sent (R295). -/
def CoreState.unsend (c : CoreState) (ctx slot : Nat) : CoreState :=
  { c with feeds := c.feeds.filter fun f => !(f.ctx = ctx && f.for_ = .kernel slot) }

def State.voidKernel (s : State) (core slot status : Nat) : State :=
  match s.iter core with
  | none => s
  | some it =>
    match (it.slot slot).kernel with
    | none => s
    | some k =>
      (s.setIter core (it.voidKernel slot status)).modCore core fun c => if k.ends.isNone then c.unsend it.ctx slot else c

/-- Whether a slot's kernel row is out in a region. -/
def State.kernelIn (s : State) (core region slot : Nat) : Bool :=
  match s.iter core with
  | none => false
  | some it =>
    let at_ (b : Binding) : Bool := ((s.core core).portLink it.ctx b).map (·.1) = some region
    (it.slot slot).kernel.isSome && (at_ (.input (it.sendPort slot)) || at_ (.output (it.returnPort slot)))

/-- Kernel rows that are out in a region which reports a stream fault or a stalled multicast, voided (R295). -/
def State.voidKernels (s : State) (core region : Nat) : State :=
  ((List.range 8).filter (s.kernelIn core region)).foldl (fun (a : State) slot => a.voidKernel core slot 2) s

end Sys2Proof.Machine
end

