-- ==== Sys2Proof/Machine/Ag.lean ====
section
/-! DEFINITION. Address generators (R145 to R156, R208, R224, R237): AGLD, AGST, AGGA, AGUF, AGEP. An AG's own step takes
tokens and places those that have been fetched; its line requests are answered by STREAM_REPLY. -/

namespace Sys2Proof.Machine

/-! ### Fetching lanes, for AGs and port commands -/

/-- What a token's fetch comes to: a fault at a lane, lines asked for and not resident, or the lanes with the lines they came
from and the first poisoned one. -/
inductive Fetched where
  | fault (lane : Nat) (cause : Nat) (va : Dword)
  | waiting (s : State)
  | ready (lanes : List Lane) (lines : Nat) (poison : Option Nat)

/-- The place of the first element a predicate holds of. -/
def firstIdx {α : Type} (p : α → Bool) : Nat → List α → Option Nat
  | _, [] => none
  | i, x :: xs => if p x then some i else firstIdx p (i + 1) xs

/-- The lanes of a token read from memory, or their lines requested (R145, R149). -/
def State.fetchLanes (s : State) (ctx : Nat) (srcs : List ElemSrc) : Fetched :=
  match s.locate ctx .read 0 srcs with
  | .error (k, c, va) => .fault k c va
  | .ok ls =>
    let ps := locatedPieces ls
    if s.allResident ps then .ready (ls.map s.readLane) (piecesLines ps) (firstIdx s.lanePoisoned 0 ls)
    else .waiting (s.requestLines ctx ps)

/-! ### Kinds of AG -/

/-- What an AG moves (R153). -/
inductive AgOp where
  | load
  | store
  | gather
  | scatter
  /-- rows of an unfolding, from memory or from the A buffer -/
  | unfold (fromA : Bool)
  deriving DecidableEq, Repr

/-- The AG operation of an element. -/
def agOpOf (i : Option Instr) : Option (AgOp × EWord) :=
  match i with
  | some (.agld e) => some (.load, e)
  | some (.agst e) => some (.store, e)
  | some (.agga e) => some (if e.aux.getLsbD 4 then .scatter else .gather, e)
  | some (.aguf e) => some (.unfold (e.aux.getLsbD 4), e)
  | _ => none

/-- Its go input, 0xFF for none (R153). -/
def AgOp.go (op : AgOp) (e : EWord) : BitVec 8 :=
  match op with
  | .store => e.b
  | .gather => 0xFF
  | .scatter => 0xFF
  | _ => e.a

/-- Its done output. -/
def AgOp.doneOut (op : AgOp) (e : EWord) : BitVec 8 :=
  match op with
  | .store => e.o0
  | .scatter => e.o0
  | _ => e.o1

/-- Its data input, for a storing AG. -/
def AgOp.dataIn (op : AgOp) (e : EWord) : BitVec 8 :=
  match op with
  | .scatter => e.b
  | _ => e.a

def AgOp.indexed : AgOp → Bool
  | .gather => true
  | .scatter => true
  | _ => false

def AgOp.stores : AgOp → Bool
  | .store => true
  | .scatter => true
  | _ => false

/-- Elements of a round that the record alone fixes. -/
def AgOp.total (op : AgOp) (sh : Shape) : Nat :=
  match op with
  | .unfold _ => sh.unfoldRows * sh.unfoldCols
  | _ => sh.rows * sh.extent 1

/-- Whether every element of the round has been handled. -/
def AgState.over (ag : AgState) (op : AgOp) (sh : Shape) : Bool := if op.indexed then ag.ended else decide (op.total sh ≤ ag.pos)

def Region.ag (r : Region) (cell : Nat) : AgState := (r.cell cell).ag

def Region.setAg (r : Region) (cell : Nat) (a : AgState) : Region := r.setCell cell { r.cell cell with ag := a }

def State.setAg (s : State) (u : UnitAt) (a : AgState) : State := s.modRegion u.core u.region fun r => r.setAg u.cell a

/-- The shape record an AG names. -/
def Region.shapeAt (r : Region) (e : EWord) : Shape := r.shapes.getD (e.aux.toNat % 16) {}

/-! ### Between rounds (R147, R154) -/

/-- A field of a record replaced (R44, R147): base, or an extent; none where the value does not fit or the field is none. -/
def Shape.patch (sh : Shape) (f v : Nat) : Option Shape :=
  if f = 0 then (if v < 2 ^ 56 then some { sh with base := dw v } else none)
  else if f ≤ 5 then (if v < 2 ^ 32 then some { sh with ext := sh.ext.set (f - 1) v } else none)
  else none

/-- A record of the configuration's copy replaced. -/
def Region.patchShape (r : Region) (i f v : Nat) : Option Region :=
  match r.shapes[i]? with
  | none => none
  | some sh => (sh.patch f v).map fun sh1 => { r with shapes := r.shapes.set i sh1 }

/-- A parameter token applied, or discarded with the bad-parameter bit (R147). -/
def Region.param (r : Region) (t : Token) : Region :=
  let sel := t.val 0
  match (if t.ok 0 && t.ok 1 && decide (sel < 256) then r.patchShape (sel % 16) (sel / 16) (t.val 1) else none) with
  | some r1 => r1
  | none => { r with sumParam := true }

/-- The next index lane of an indexed round; behind the last of a token with the last mark, the round ends. -/
def AgState.nextIndex (ag : AgState) : AgState :=
  match ag.index with
  | some (t, k) =>
    if k + 1 < t.count then { ag with index := some (t, k + 1), pos := 0 }
    else { ag with index := none, pos := 0, ended := t.last }
  | none => ag

/-- An index token taken: no row of it is walked where rows are empty. -/
def AgState.takeIndex (ag : AgState) (sh : Shape) (t : Token) : AgState :=
  let a := { ag with iter := t.iter, policy := t.policy, pos := 0 }
  if t.count = 0 || sh.extent 1 = 0 then { a with index := none, ended := t.last } else { a with index := some (t, 0) }

/-- A round begun with the record's present values; the go token is consumed, its data ignored (R147, R154). -/
def Region.startRound (r : Region) (cell : Nat) (op : AgOp) (e : EWord) : Option Region :=
  let ag := r.ag cell
  let sh := r.shapeAt e
  let a0 := { ag with round := some sh, pos := 0, moved := 0, iter := 0, policy := 0, ended := false }
  if op.indexed then
    match r.headAt e.a with
    | none => none
    | some t => some ((r.take e.a).setAg cell (a0.takeIndex sh t))
  else
    let go := op.go e
    if go = 0xFF then
      if ag.rounds = 0 then none else some (r.setAg cell { a0 with rounds := ag.rounds - 1 })
    else
      match r.headAt go with
      | none => none
      | some t => some ((r.take go).setAg cell { a0 with iter := t.iter, policy := t.policy })

/-- Parameters first, then a round (R147). -/
def Region.between (r : Region) (cell : Nat) (op : AgOp) (e : EWord) : Option Region :=
  match r.headAt e.c with
  | some t => some ((r.take e.c).param t)
  | none => r.startRound cell op e

/-! ### Faults (R156, R376) -/

/-- An AG held at an element: the event once, containment where FK is set, a retry after 10 µs. -/
def State.holdAg (s : State) (u : UnitAt) (again : Bool) (cause : Nat) (va : Dword) : State :=
  match s.region u.core u.region with
  | none => s
  | some r =>
    let s1 := s.setAg u { r.ag u.cell with fault := some ⟨cause, va, s.tns + 10000⟩ }
    if again then s1
    else
      let s2 := (s1.modRegion u.core u.region fun x => { x with sumFault := true }).voidKernels u.core u.region
      let ev (code : Nat) : CtxEvent := { kind := 0x01, core := u.core, region := u.region, detail := cause, code := code, value := va }
      if (s.ctx r.ctx).fk then s2.contain r.ctx r.task false (ev 0x0C) else s2.raiseEvent r.ctx (s2.eventOwner r.task (ev 0))

/-! ### Fetching AGs (R145, R148, R149, R154) -/

/-- The A buffer's bytes of an element (R190, AGUF with aux[4] = 1): its lane, or none outside plain A. -/
def CoreState.aLane (c : CoreState) (x : ElemSrc) : Option Lane :=
  match x with
  | .zero => some ⟨0, true⟩
  | .bad => some Lane.bad
  | .mem e =>
    if Buf.a.size c.stateSlots < e.va.toNat + e.bytes then none
    else some ⟨dw (bufGet c.a (8 * e.va.toNat + e.bit) e.width), true⟩

/-- The next token of a fetching AG: its lanes' places, and whether it ends its row. -/
def AgState.nextToken (ag : AgState) (op : AgOp) (sh : Shape) : Option (List ElemSrc × Bool) :=
  match op with
  | .gather =>
    match ag.index with
    | none => none
    | some (t, k) =>
      let n := tokenLanes sh.perToken (sh.extent 1) ag.pos
      let row := sh.indexRow (laneInt t.fmt (t.val k))
      let src (j : Nat) : ElemSrc := if t.ok k then .mem (rowElem sh.fmt row (sh.stride 1) (ag.pos + j)) else .bad
      some ((List.range n).map src, decide (ag.pos + n = sh.extent 1))
  | .unfold _ =>
    if sh.unfoldRows * sh.unfoldCols ≤ ag.pos then none
    else
      let j := ag.pos % sh.unfoldCols
      let n := tokenLanes sh.perToken sh.unfoldCols j
      some ((List.range n).map fun k => sh.unfoldElem (ag.pos + k), decide (j + n = sh.unfoldCols))
  | _ =>
    if sh.rows * sh.extent 1 ≤ ag.pos then none
    else
      let j := ag.pos % sh.extent 1
      let n := tokenLanes sh.perToken (sh.extent 1) j
      some ((List.range n).map fun k => .mem (sh.elem (ag.pos + k)), decide (j + n = sh.extent 1))

/-- The AG behind a token it has fetched. -/
def AgState.fetched (ag : AgState) (op : AgOp) (sh : Shape) (t : Token) (lines : Nat) : AgState :=
  let a := { ag with ahead := ag.ahead ++ [(t, lines)], pos := ag.pos + t.count, fault := none }
  if op.indexed && decide (sh.extent 1 ≤ a.pos) then a.nextIndex else a

/-- Whether an AG may ask for another token: 64 line requests, and on a demand link the consumer's requests (R149, R227). -/
def Region.mayFetch (r : Region) (ag : AgState) (e : EWord) : Bool :=
  let l := r.link e.o0.toNat
  (ag.ahead.isEmpty || decide ((ag.ahead.map (·.2)).sum < 64))
    && (!l.demand || decide (ag.ahead.length < r.want (r.links.length + 1) e.o0.toNat))

/-- The reply that gives a fetching AG its next token (R149). -/
def State.agFetch (s : State) (u : UnitAt) (r : Region) (op : AgOp) (sh : Shape) (again : Bool) : State :=
  let ag := r.ag u.cell
  match ag.nextToken op sh with
  | none => s
  | some (srcs, last) =>
    let token (lanes : List Lane) : Token := { policy := ag.policy, iter := ag.iter, last := last, fmt := sh.fmt, lanes := lanes }
    if op = .unfold true then
      let c := s.core u.core
      match firstIdx (fun x => (c.aLane x).isNone) 0 srcs with
      | some k => s.holdAg u again 0x04 (match srcs[k]? with
        | some (.mem x) => x.va
        | _ => 0)
      | none => s.setAg u (ag.fetched op sh (token (srcs.map fun x => (c.aLane x).getD Lane.bad)) 0)
    else
      match s.fetchLanes r.ctx srcs with
      | .fault _ cause va => s.holdAg u again cause va
      | .waiting s1 => s1.setAg u { ag with fault := none }
      | .ready lanes lines poison =>
        let s1 := s.setAg u (ag.fetched op sh (token lanes) lines)
        if poison.isSome then s1.modRegion u.core u.region fun x => { x with sumPoison := true } else s1

/-! ### Storing AGs (R154, R208, R237) -/

/-- Whether a cell owns the bytes of an element (R208). -/
def Region.owns (r : Region) (cell : Nat) (e : ElemAt) : Bool :=
  r.ranges.any fun m => m.owners[m.owner]? = some cell && decide (m.base.toNat ≤ e.va.toNat)
    && decide (e.va.toNat + e.bytes ≤ m.base.toNat + m.length)

/-- The place of a storing AG's next element: none where its round has no more, or waits for an index token; a skipped row's
element has no place. -/
def AgState.nextElem (ag : AgState) (op : AgOp) (sh : Shape) : Option (Option ElemAt) :=
  if op.indexed then
    match ag.index with
    | none => none
    | some (t, k) =>
      some (if t.ok k then some (rowElem sh.fmt (sh.indexRow (laneInt t.fmt (t.val k))) (sh.stride 1) ag.pos) else none)
  else if op.total sh ≤ ag.pos then none
  else some (some (sh.elem ag.pos))

/-- The AG behind one element. -/
def AgState.stepElem (ag : AgState) (op : AgOp) (sh : Shape) (counts : Bool) : AgState :=
  let a := { ag with pos := ag.pos + 1, moved := ag.moved + b2n counts }
  if op.indexed && decide (sh.extent 1 ≤ a.pos) then a.nextIndex else a

/-- Lanes k and on of a data token stored to the next elements: the AG, the elements written, the lane that stops and the fault
that stops it (none where the AG waits for an index token). -/
def State.storeLanes (s : State) (r : Region) (cell : Nat) (op : AgOp) (sh : Shape) :
    Nat → List Lane → AgState → List ElemWrite → AgState × List ElemWrite × Option (Nat × Option (Nat × Dword))
  | _, [], ag, ws => (ag, ws, none)
  | k, l :: ls, ag, ws =>
    match ag.nextElem op sh with
    | none => if op.indexed && !ag.ended then (ag, ws, some (k, none)) else (ag, ws, none)
    | some none => s.storeLanes r cell op sh (k + 1) ls (ag.stepElem op sh false) ws
    | some (some x) =>
      match x.fault with
      | some c => (ag, ws, some (k, some (c, x.va)))
      | none =>
        if !l.ok then s.storeLanes r cell op sh (k + 1) ls (ag.stepElem op sh true) ws
        else if !r.owns cell x then (ag, ws, some (k, some (0x04, x.va)))
        else
          match s.engineXlat r.ctx x.va.toNat .write with
          | .error c => (ag, ws, some (k, some (c, x.va)))
          | .ok pa =>
            s.storeLanes r cell op sh (k + 1) ls (ag.stepElem op sh true)
              (ws ++ [⟨x.va, pa, x.bytes, x.bit, x.width, l.val.toNat % 2 ^ x.width⟩])

/-- A sequence's age among those a PERMIT has admitted: 0 for the newest (R236). -/
def PermitState.age (p : PermitState) (q : Nat) : Nat := (p.next + 7 - q) % 8

/-- Whether a store is held for the sequences admitted before its own (R237). -/
def Region.blocks (r : Region) (p : PendStore) : Bool :=
  match r.permit with
  | none => false
  | some m => p.inScope && m.inflight.any fun q => decide (m.age p.iter < m.age q)

/-- Whether a store belongs to a squashed sequence (R237). -/
def Region.squashed (r : Region) (p : PendStore) : Bool := p.inScope && r.mask.getLsbD p.iter

/-- Lanes of the data token held, stored as far as they go (R154, R208). -/
def State.agStore (s : State) (u : UnitAt) (r : Region) (op : AgOp) (e : EWord) (sh : Shape) (again : Bool) : State :=
  let ag := r.ag u.cell
  match ag.token with
  | none => s
  | some (t, k) =>
    let res := s.storeLanes r u.cell op sh k (t.lanes.drop k) { ag with fault := none } []
    let p : PendStore := { writes := res.2.1, iter := t.iter, inScope := (r.link (op.dataIn e).toNat).scope }
    let a1 := if p.writes.isEmpty || r.squashed p then res.1 else { res.1 with stores := res.1.stores ++ [p] }
    match res.2.2 with
    | none => s.setAg u { a1 with token := none }
    | some (j, none) => s.setAg u { a1 with token := some (t, j) }
    | some (j, some f) => (s.setAg u { a1 with token := some (t, j) }).holdAg u again f.1 f.2

/-- A storing AG's next store sent to its slice (R143, R237). -/
def State.agAccept (s : State) (u : UnitAt) (r : Region) : State :=
  let ag := r.ag u.cell
  let res := s.acceptStores r.ctx r.blocks (ag.stores.filter fun p => !r.squashed p)
  res.2.setAg u { ag with stores := res.1 }

/-! ### The steps -/

/-- A fetching AG's token placed, or its round ended with the done token (R154). -/
def Region.agPlace (r : Region) (cell : Nat) (op : AgOp) (e : EWord) : Option Region :=
  let ag := r.ag cell
  match ag.ahead, ag.round with
  | (t, _) :: rest, _ =>
    if r.mayWriteAt e.o0 then some ((r.setAg cell { ag with ahead := rest, moved := ag.moved + t.count }).placeAt e.o0 (some t))
    else none
  | [], some sh =>
    if ag.over op sh && ag.token.isNone && ag.stores.isEmpty && r.mayWriteAt (op.doneOut e) then
      some ((r.setAg cell { ag with round := none }).placeAt (op.doneOut e)
        (some { controlToken ag.moved with iter := ag.iter, policy := ag.policy }))
    else none
  | [], none => none

/-- What an AG of a kind does next: a token placed, a parameter, a round begun or ended, an index or data token taken. -/
def stepAg (op : AgOp) (e : EWord) : UnitStep := fun s u =>
  match s.region u.core u.region with
  | none => none
  | some r =>
    let ag := r.ag u.cell
    match r.agPlace u.cell op e with
    | some r1 => some (s.setRegion u.core u.region r1)
    | none =>
      match ag.round with
      | none => (r.between u.cell op e).map (s.setRegion u.core u.region)
      | some sh =>
        if ag.over op sh then
          -- lanes beyond the round's elements are discarded
          if ag.token.isSome && ag.fault.isNone then some (s.setAg u { ag with token := none }) else none
        else if op.indexed && ag.index.isNone then
          (r.headAt e.a).map fun t => s.setRegion u.core u.region ((r.take e.a).setAg u.cell (ag.takeIndex sh t))
        else if op.stores && ag.fault.isNone then
          match ag.token with
          | some _ => some (s.agStore u r op e sh false)
          | none =>
            if 64 ≤ ag.stores.length then none
            else
              match r.headAt (op.dataIn e) with
              | none => none
              | some t =>
                let a1 := if op = .store then { ag with token := some (t, 0), iter := t.iter, policy := t.policy }
                  else { ag with token := some (t, 0) }
                let r1 := (r.take (op.dataIn e)).setAg u.cell a1
                some ((s.setRegion u.core u.region r1).agStore u r1 op e sh false)
        else none

def stepAgld (e : EWord) : UnitStep := stepAg .load e
def stepAgst (e : EWord) : UnitStep := stepAg .store e
def stepAgga (e : EWord) : UnitStep := stepAg (if e.aux.getLsbD 4 then .scatter else .gather) e
def stepAguf (e : EWord) : UnitStep := stepAg (.unfold (e.aux.getLsbD 4)) e

/-! ### AGEP (R155) -/

/-- The bytes of a row's lanes in order; an invalid lane's bits are a free value. -/
def rowBytes (f : BitVec 4) (n : Nat) (lanes : List Lane) : List Byte :=
  leBytes (ceilDiv (dataBits f lanes.length) 8) (packFrom f 0 (slotLanes n 0 lanes))

/-- AGEP: a handle token placed, a payload token taken, and with a row's last token an append sent. -/
def stepAgep (e : EWord) : UnitStep := fun s u =>
  match s.region u.core u.region with
  | none => none
  | some r =>
    let ag := r.ag u.cell
    match ag.handles with
    | h :: rest =>
      if r.mayWriteAt e.o0 then some (s.setRegion u.core u.region ((r.setAg u.cell { ag with handles := rest }).placeAt e.o0
        (some { h with iter := ag.iter, policy := ag.policy })))
      else none
    | [] =>
      if ag.append.isSome then none
      else
        match r.headAt e.a with
        | none => none
        | some t =>
          let lanes := ag.payload ++ t.lanes.map fun l => if t.kind = .void then Lane.bad else l
          if !t.last then some (s.setRegion u.core u.region ((r.take e.a).setAg u.cell { ag with payload := lanes }))
          else
            let sal : Option Token := r.headAt e.c
            if e.c ≠ 0xFF && sal.isNone then none
            else
              let salience := match sal with
                | some x => if x.ok 0 then x.val 0 % 256 else (Config.freeWord (s.fresh + lanes.length)).toNat % 256
                | none => 0
              let r1 := ((r.take e.a).take e.c).setAg u.cell
                { ag with payload := [], append := some s.firn.nextId, iter := t.iter, policy := t.policy }
              let s1 := { s.setRegion u.core u.region r1 with fresh := s.fresh + lanes.length + 1 }
              some (s1.pushReq { id := 0, ctx := r.ctx, task := r.task, core := u.core, asker := .agep u.core u.region u.cell,
                                 op := .append e.konst 0 salience, inline_ := some (rowBytes e.fmt s.fresh lanes) })

/-! ### STLD's swap-in (R285) -/

/-- A stream's 512 bytes read from its save area, once they are resident, or the fault that holds the STLD. -/
def State.stldSwap (s : State) (u : UnitAt) (r : Region) (e : EWord) (again : Bool) : State :=
  match s.swapInWanted u r e with
  | none => s
  | some (id, save) =>
    if ((s.core u.core).takeSlot r.ctx id).isNone then s
    else
      match s.engineRange r.ctx save.toNat 512 .read with
      | .error (c, va) => s.holdAg u again c (dw va)
      | .ok ps =>
        if !s.allResident ps then s.requestLines r.ctx ps
        else
          match s.engineRead r.ctx save.toNat 512 with
          | .error (c, va) => s.holdAg u again c (dw va)
          | .ok bs =>
            (s.modCore u.core fun k => (k.swapIn r.ctx id bs).getD k).setAg u { r.ag u.cell with fault := none }

/-! ### Replies and retries -/

/-- What a reply does at a cell (R143, R149, R285). -/
def State.cellReply (s : State) (u : UnitAt) : State :=
  match s.region u.core u.region with
  | none => s
  | some r =>
    let c := r.cell u.cell
    match c.elem with
    | some (.stld e) => if c.ag.fault.isSome then s else s.stldSwap u r e false
    | i =>
      match agOpOf i with
      | none => s
      | some (op, e) =>
        if op.stores then s.agAccept u r
        else
          match c.ag.round with
          | none => s
          | some sh => if c.ag.fault.isNone && r.mayFetch c.ag e then s.agFetch u r op sh false else s

/-- A held AG's element tried again (R156, R376). -/
def State.cellRetry (s : State) (u : UnitAt) : State :=
  match s.region u.core u.region with
  | none => s
  | some r =>
    let c := r.cell u.cell
    match c.ag.fault with
    | none => s
    | some f =>
      if s.tns < f.retryAt then s
      else
        match c.elem with
        | some (.stld e) => s.stldSwap u r e true
        | i =>
          match agOpOf i, c.ag.round with
          | some (op, e), some sh => if op.stores then s.agStore u r op e sh true else s.agFetch u r op sh true
          | _, _ => s

end Sys2Proof.Machine
end

