-- ==== Sys2Proof/Machine/StreamIssue.lean ====
section
/-! DEFINITION. SCMD, SCML and RESP (R150 to R159), and PWR, PRD and ACLR (R239 to R242). -/

namespace Sys2Proof.Machine

/-! ### Commands issued and collected -/

/-- A command appended to the strand's stream under a tag (R150, R157). -/
def State.pushCommand (s : State) (st : Strand) (tag : BitVec 16) (bits : BitVec 128) (src : Option (Dword × Nat × Nat))
    (after : List Nat) : State :=
  { s with
    cmds := s.cmds ++ [{ uid := s.nextUid, core := st.core, sid := some st.sid, stream := st.stream, ctx := st.ctx,
                         task := st.task, tag := tag, bits := bits, src := src, after := after, stvs := s.slice.nextId }]
    nextUid := s.nextUid + 1 }

/-- SCMD (R157). A scout's issues nothing and writes all ones (R159). -/
def execScmd (d a b : BitVec 5) (s : State) : Out :=
  let st := s.me
  if st.scout then .next (s.result d allOnes)
  else
    let (tag, st1) := st.issueTag true
    let ids := s.drainPoint st.core 2
    .next (((s.complete (st1.setG d (tag.zeroExtend 64))).startDrain st.core ids).pushCommand st tag (st.g b ++ st.g a) none ids)

/-- n tags taken, each put into the window (R15, R152). -/
def Strand.issueTags (st : Strand) : Nat → Strand
  | 0 => st
  | n + 1 => (st.issueTag true).2.issueTags n

/-- Entries i and on of a list, n of them, appended unread (R158). -/
def State.pushEntries (s : State) (st : Strand) (t0 : BitVec 16) (va : Dword) (list : Nat) (after : List Nat) :
    Nat → Nat → State
  | _, 0 => s
  | i, n + 1 =>
    (s.pushCommand st (t0 + BitVec.ofNat 16 i) 0 (some (va + dw (16 * i), i, list)) after).pushEntries st t0 va list after (i + 1) n

/-- SCML (R158). -/
def execScml (d a b : BitVec 5) (s : State) : Out :=
  let st := s.me
  let va := st.g a
  let n := (st.g b).toNat
  if st.scout then .next (s.result d allOnes)
  else if va.toNat % 16 ≠ 0 then .next (s.fault 0x02 va)
  else if n = 0 ∨ 1024 < n then .next (s.result d allOnes)
  else
    let ids := s.drainPoint st.core 2
    .next (((s.complete ((st.issueTags n).setG d (st.tagCtr.zeroExtend 64))).startDrain st.core ids).pushEntries st st.tagCtr va
      s.nextUid ids 0 n)

/-- A tag retired (R152). -/
def Strand.retireTag (st : Strand) (tag : BitVec 16) : Strand := { st with window := st.window.filter (·.tag ≠ tag) }

/-- Whether a completion carries a deferred fault (R128). -/
def deferredFault (r : Dword) : Option Nat :=
  let code := field r.toNat 15 8
  if field r.toNat 7 0 = 0x06 ∧ (code = 0x09 ∨ code = 0x0A) then some code else none

/-- The deferred fault of a collected completion, raised behind the RESP (R128). -/
def State.raiseDeferred (s : State) (k : Nat) (tag : BitVec 16) (r : Dword) : State :=
  match deferredFault r with
  | some code => s.takeTrap k (s.strand k) code (tag.zeroExtend 64)
  | none => s

/-- RESP whose response is not present: a record that waits for the command's tag (R159, R321). -/
def State.waitResponse (s : State) (d : BitVec 5) (tag : BitVec 16) : State :=
  let st := s.me
  match s.slotFor st.core st.ctx st.depositor with
  | some p =>
    s.deposit s.meKey st.retire
      { kind := .resume, space := 1, tag := tag, dest := d, act := .resp tag, ownPc := st.pc, place := p }
  | none => s.overflow

/-- RESP (R159). -/
def execResp (d a : BitVec 5) (s : State) : Out :=
  let st := s.me
  let tag := (st.g a).truncate 16
  if st.scout then .next (s.result d allOnes)
  else
    match st.window.find? (·.tag = tag) with
    | none => .next (s.result d allOnes)
    | some w =>
      match w.resp with
      | none => .next (s.waitResponse d tag)
      | some r => .next (((s.complete ((st.retireTag tag).setG d r)).acquire st.core 2).raiseDeferred s.meKey tag r)

/-! ### Ports -/

/-- The region and link of a port bound for the strand's context in a direction; none is the stream fault (R240). -/
def State.strandPort (s : State) (b : Binding) : Option (Nat × Nat) := (s.core s.me.core).portLink s.me.ctx b

/-- Whether such a port's region is frozen, so that the strand waits for it (R420). -/
def State.strandAway (s : State) (b : Binding) : Bool := (s.core s.me.core).portAway s.me.ctx b

/-- A PORT form whose port is not bound: fault 0x0E (R240). -/
def State.unbound (s : State) (port : BitVec 4) : State := s.fault 0x0E (port.zeroExtend 64)

/-- The value of doublewords, the first lowest. -/
def dwordsNat : List Dword → Nat
  | [] => 0
  | w :: ws => w.toNat + 2 ^ 64 * dwordsNat ws

/-- The token of an assembly buffer (R241). -/
def assembled (fmt : BitVec 4) (ws : List Dword) (last : Bool) : Token :=
  { fmt := fmt, last := last, lanes := lanesOf fmt (dwordsNat ws) (min (lanesIn fmt (64 * ws.length)) (laneCount fmt)) }

/-- PWR in its three forms (R241). A scout's has no effect. -/
def State.pwr (s : State) (a : BitVec 5) (port : BitVec 4) (send last : Bool) : Out :=
  let st := s.me
  if st.scout then .next s.done
  else
    match s.strandPort (.input port.toNat) with
    | none =>
      if s.strandAway (.input port.toNat) then .next (s.retry (.portRoom port.toNat) fun s1 _ => s1) else .next (s.unbound port)
    | some (region, link) =>
      let p := (s.core st.core).port port.toNat
      let ws := p.assembly ++ [st.g a]
      if !send && ws.length < 64 then
        .next (s.modCore st.core fun c => c.setPort port.toNat { p with assembly := ws }).done
      else if s.feedable st.core port.toNat region link .pwr then
        let fmt := match s.region st.core region with
          | some r => (r.link link).fmt
          | none => 0
        let s1 := s.modCore st.core fun c => c.setPort port.toNat { p with assembly := [] }
        .next (s1.feed st.core port.toNat region link .pwr (assembled fmt ws last)).done
      else .next (s.retry (.portRoom port.toNat) fun s1 _ => s1)

/-- PWR (R241). -/
def execPwr (a : BitVec 5) (port : BitVec 4) (s : State) : Out := s.pwr a port false false

/-- PWR with S (R241). -/
def execPwrS (a : BitVec 5) (port : BitVec 4) (s : State) : Out := s.pwr a port true false

/-- PWR with S and L (R241). -/
def execPwrSl (a : BitVec 5) (port : BitVec 4) (s : State) : Out := s.pwr a port true true

/-- A port with its assembly buffer empty, its hold for PWR released (R241). -/
def Port.clear (p : Port) : Port := { p with assembly := [], feeder := if p.feeder = some .pwr then none else p.feeder }

/-- The same of a port saved with a frozen region. -/
def CoreState.clearAway (c : CoreState) (ctx port : Nat) : CoreState :=
  { c with frozen := c.frozen.map fun (f : Frozen) =>
      if f.ctx = ctx then { f with ports := f.ports.modify port Port.clear } else f }

/-- ACLR (R241). -/
def execAclr (port : BitVec 4) (s : State) : Out :=
  let st := s.me
  if st.scout then .next s.done
  else
    match s.strandPort (.input port.toNat) with
    | none =>
      if s.strandAway (.input port.toNat) then .next (s.modCore st.core fun c => c.clearAway st.ctx port.toNat).done
      else .next (s.unbound port)
    | some _ => .next (s.modCore st.core fun c => c.setPort port.toNat (c.port port.toNat).clear).done

/-- Data doublewords of a token (R242). -/
def Token.dwords (t : Token) : Nat := ceilDiv (dataBits t.fmt t.count) 64

/-- The descriptor PRD returns first (R242). -/
def Token.descriptor (t : Token) (d : Nat) : Dword :=
  dw (d * 2 ^ 48 + (t.lanes.filter Lane.ok).length * 2 ^ 32 + t.header)

/-- The next item of an output port (R242), and the state once it is read; none where the port is empty. -/
def State.readPort (s : State) (core port region link : Nat) : Option (Dword × State) :=
  match s.region core region with
  | none => none
  | some r =>
    let l := r.link link
    match l.head with
    | some t =>
      let pos := ((s.core core).port port).readPos
      let v := if pos = 0 then t.descriptor t.dwords else dw (field t.data (64 * pos - 1) (64 * (pos - 1)))
      let gone := decide (t.dwords ≤ pos)
      let s1 := s.modCore core fun c => c.setPort port { c.port port with readPos := if gone then 0 else pos + 1 }
      some (v, if gone then s1.setRegion core region ((r.setLink link l.pop).squash) else s1)
    | none => if l.atClosed then some (closedMark.descriptor 0, s) else none

/-- Records of a core that wait for an item of an output port, in the order in which they came (R239). -/
def State.portWaiters (s : State) (core port : Nat) : List (Nat × Record) :=
  s.records.filter fun x => x.1 / 65536 = core && x.2.wait = .portToken port && !x.2.ready

/-- PRD (R242). -/
def execPrd (d : BitVec 5) (port : BitVec 4) (s : State) : Out :=
  let st := s.me
  if st.scout then .next (s.result d 0)
  else
    match s.strandPort (.output port.toNat) with
    | none =>
      if s.strandAway (.output port.toNat) then .next (s.suspend st d (.portToken port.toNat) .nothing fun s1 _ => s1)
      else .next (s.unbound port)
    | some (region, link) =>
      match (if (s.portWaiters st.core port.toNat).isEmpty then s.readPort st.core port.toNat region link else none) with
      | some (v, s1) => .next (s1.result d v)
      | none => .next (s.suspend st d (.portToken port.toNat) .nothing fun s1 _ => s1)

end Sys2Proof.Machine
end

