-- ==== Sys2Proof/Machine/PortCmds.lean ====
section
/-! DEFINITION. The port commands LDS, STS, GTH, SCT and UNF (R145, R146, R160 to R165), coded streams (R62 to R64). A command's
own turn starts it, places the tokens it has fetched and takes those it stores; STREAM_REPLY answers its line requests. -/

namespace Sys2Proof.Machine

/-! ### The command that takes the step -/

/-- The command a turn executes. -/
def State.myCommand (s : State) : Option Command :=
  match s.actor with
  | .command uid => s.cmds.find? (·.uid = uid)
  | _ => none

/-- A command's progress, the command running. -/
def State.setProg (s : State) (uid : Nat) (p : CmdProg) : State :=
  { s with cmds := s.cmds.map fun (c : Command) => if c.uid = uid then { c with stage := .running, prog := p } else c }

/-- A command with its turn's meaning, where it is neither finished nor gone. -/
def State.runCommand (s : State) (k : Command → State) : Out :=
  match s.myCommand with
  | none => .next s
  | some c => match c.stage with
    | .done _ => .next s
    | _ => .next (k c)

/-- A command answered with a status and the value of bits [63:8]. -/
def State.answerCmd (s : State) (c : Command) (status value : Nat) : State := s.finishCommand c.uid (response status value)

/-- A command answered with a status to which the spec gives no value: bits [63:8] are a free value. -/
def State.answerOpen (s : State) (c : Command) (status : Nat) : State :=
  let d := s.draw
  d.2.answerCmd c status (d.1.toNat / 2 ^ 8)

/-- A stream fault's answer: cause in [15:8], restart point in [63:16] (R160). -/
def State.faultCmd (s : State) (c : Command) (cause restart : Nat) : State :=
  if cause = 0x07 then s.answerCmd c 0x05 (restart * 2 ^ 8) else s.answerCmd c 0x04 (cause + restart * 2 ^ 8)

/-- An engine fault's answer (R161). -/
def State.engineCmd (s : State) (c : Command) (code : Nat) : State := s.answerCmd c 0x06 code

/-- The fields of a command as it was issued. -/
def Command.fields (c : Command) : Cmd := cmdOf c.bits

/-! ### Kinds -/

/-- The five port commands. -/
inductive PortOp where
  | lds
  | sts
  | gth
  | sct
  | unf
  deriving DecidableEq, Repr

def PortOp.opcode : PortOp → Nat
  | .lds => 1
  | .sts => 2
  | .gth => 3
  | .sct => 4
  | .unf => 5

def PortOp.drains : PortOp → Bool
  | .sts => true
  | .sct => true
  | _ => false

/-- The port command of an opcode. -/
def portOpOf (n : Nat) : Option PortOp :=
  match n with
  | 1 => some .lds
  | 2 => some .sts
  | 3 => some .gth
  | 4 => some .sct
  | 5 => some .unf
  | _ => none

/-- A flat walk: one row of count elements, packed or at the element size (R146). -/
def flatShape (f : BitVec 4) (count : Nat) (base : Dword) : Shape :=
  { base := base, ext := [count], str := [if packedFmt f then 0 else ((laneWidth f / 8 : Nat) : Int)], ndims := 1, fmt := f }

/-- The index count of GTH and SCT (R164). -/
def indexCount (c : Cmd) : Nat := c.operand.toNat / 16

/-- The shape a command walks, or none for engine code 0x21 (R146, R161). -/
def PortOp.shape (op : PortOp) (c : Cmd) (l : Link) (shapes : List Shape) : Option Shape :=
  let named (i : Nat) : Option Shape :=
    match shapes[i]? with
    | none => none
    | some sh => if sh.fmt = l.fmt && !l.coded then some sh else none
  match op with
  | .gth => named (c.operand.toNat % 16)
  | .sct => named (c.operand.toNat % 16)
  | .unf => (named (c.operand.toNat % 16)).bind fun sh => if sh.unfolds then some { sh with base := c.addr } else none
  | _ =>
    if c.s then (named (c.operand.toNat % 16)).map fun sh => { sh with base := if c.addr = 0 then sh.base else c.addr }
    else some (flatShape l.fmt c.operand.toNat c.addr)

/-- Elements of the whole walk. -/
def PortOp.total (op : PortOp) (c : Cmd) (sh : Shape) : Nat :=
  match op with
  | .gth => indexCount c * sh.extent 1
  | .sct => indexCount c * sh.extent 1
  | .unf => sh.unfoldRows * sh.unfoldCols
  | _ => sh.rows * sh.extent 1

/-- The done value of a walk that has come to an end (R163 to R165). -/
def PortOp.value (op : PortOp) (sh : Shape) (p : CmdProg) : Nat :=
  match op with
  | .gth => p.entry
  | .sct => p.entry
  | .unf => sh.unfoldRows
  | _ => p.moved

/-! ### The end of a command -/

/-- A command that a stream fault stops: its state stays at the port (R160). -/
def State.stopPort (s : State) (f : Cmd) (c : Command) (op : PortOp) (cause restart : Nat) (token : Option Token) : State :=
  let sv : SavedCmd := { opcode := op.opcode, operand := f.operand, addr := f.addr, restart := restart, token := token,
                         block := c.prog.tokBlock, blockAt := c.prog.tokAt }
  (s.modCore c.core fun k => k.setPort f.dest.toNat { k.port f.dest.toNat with saved := some sv }).faultCmd c cause restart

/-- The walk at its end: malformed blocks, poison, or done (R64, R162, R163). -/
def State.endPort (s : State) (c : Command) (op : PortOp) (sh : Shape) : State :=
  let p := c.prog
  match p.poison, p.badBlock with
  | some i, _ => s.answerCmd c 0x05 (i * 2 ^ 8)
  | none, some b => s.answerCmd c 0x06 (0x01 + b * 2 ^ 8)
  | none, none => s.answerCmd c 0x00 (op.value sh p)

/-! ### The start -/

/-- A port command begun (R146, R160, R161). -/
def State.startPort (s : State) (f : Cmd) (c : Command) (op : PortOp) : State :=
  let port := f.dest.toNat
  let saved := ((s.core c.core).port port).saved
  let rst := f.flags.getLsbD 1
  let same (v : SavedCmd) : Bool := v.opcode = op.opcode && v.operand = f.operand && v.addr = f.addr
  let resumed : Option SavedCmd := saved.filter same
  if rst && resumed.isNone then s.answerOpen c 0x01
  else
    let s1 := s.modCore c.core fun k => k.setPort port { k.port port with saved := none }
    let b : Binding := if op.drains then .output port else .input port
    match (s.core c.core).portLink c.ctx b with
    | none => if (s.core c.core).portAway c.ctx b then s else s1.engineCmd c 0x20
    | some (region, link) =>
      match s.region c.core region with
      | none => s1.engineCmd c 0x20
      | some r =>
        let l := r.link link
        match op.shape f l r.shapes with
        | none => s1.engineCmd c 0x21
        | some sh =>
          let indexed := op = .gth || op = .sct
          if (indexed || l.coded) && f.addr.toNat % 4 ≠ 0 then s1.faultCmd c 0x02 0
          else
            let from_ := if rst then resumed else none
            let at_ := (from_.map (·.restart)).getD 0
            let ext := sh.extent 1
            let p : CmdProg :=
              { pos := at_, moved := at_, entry := if indexed && ext ≠ 0 then at_ / ext else if indexed then indexCount f else 0,
                rowPos := if indexed && ext ≠ 0 then at_ % ext else 0,
                token := (from_.bind (·.token)).map fun t => (t, 0),
                block := (from_.map (·.block)).getD 0, blockAt := (from_.map (·.blockAt)).getD 0,
                tokBlock := (from_.map (·.block)).getD 0, tokAt := (from_.map (·.blockAt)).getD 0,
                shape := some sh, region := region, link := link }
            if op.total f sh ≤ at_ then s1.endPort { c with prog := p } op sh else s1.setProg c.uid p

/-! ### Feeding -/

/-- A feeding command's turn: the next fetched token placed, or the end (R149, R160). -/
def State.feedPort (s : State) (f : Cmd) (c : Command) (op : PortOp) (sh : Shape) : State :=
  let p := c.prog
  match p.ahead with
  | (t, _) :: rest =>
    if s.feedable c.core f.dest.toNat p.region p.link .stream then
      let n := min t.count (op.total f sh - p.moved)
      let p1 := { p with ahead := rest, moved := p.moved + n }
      (s.feed c.core f.dest.toNat p.region p.link .stream t).setProg c.uid p1
    else s
  | [] =>
    match p.stop with
    | some (cause, restart) => s.stopPort f c op cause restart none
    | none => if op.total f sh ≤ p.pos then s.endPort c op sh else s

/-- Whether the command may ask for another token (R149, R227). -/
def State.cmdMayFetch (s : State) (c : Command) : Bool :=
  match s.region c.core c.prog.region with
  | none => false
  | some r =>
    let l := r.link c.prog.link
    (c.prog.ahead.isEmpty || decide ((c.prog.ahead.map (·.2.2)).sum < 64))
      && (!l.demand || decide (c.prog.ahead.length < r.portRoom c.prog.link))

/-- Lanes of poison noted (R162). -/
def CmdProg.notePoison (p : CmdProg) (i : Option Nat) : CmdProg :=
  match p.poison, i with
  | none, some k => { p with poison := some k }
  | _, _ => p

/-- An index of GTH or SCT read (R164). -/
def State.readIndex (s : State) (c : Command) (sh : Shape) : State :=
  let f := c.fields
  let p := c.prog
  match s.engineRange c.ctx (f.addr + dw (4 * p.entry)).toNat 4 .read with
  | .error (cause, _) => s.setProg c.uid { p with stop := some (cause, p.pos) }
  | .ok ps =>
    if !s.allResident ps then s.requestLines c.ctx ps
    else if ps.any (fun x => s.poisoned x.2.1 x.2.2) then
      s.setProg c.uid ({ p with row := some none }.notePoison (some p.pos))
    else
      let v := leNat ((ps.map fun x => s.mem.bytes x.2.1 x.2.2).flatten)
      s.setProg c.uid { p with row := some (some (sh.indexRow v)) }

/-- The next token of a feeding walk: its lanes' places, and whether it ends its row. -/
def CmdProg.nextToken (p : CmdProg) (op : PortOp) (sh : Shape) : List ElemSrc × Bool :=
  match op with
  | .gth =>
    let n := tokenLanes sh.perToken (sh.extent 1) p.rowPos
    let src (j : Nat) : ElemSrc := match p.row with
      | some (some row) => .mem (rowElem sh.fmt row (sh.stride 1) (p.rowPos + j))
      | _ => .bad
    ((List.range n).map src, decide (p.rowPos + n = sh.extent 1))
  | .unf =>
    let j := p.pos % sh.unfoldCols
    let n := tokenLanes sh.perToken sh.unfoldCols j
    ((List.range n).map fun k => sh.unfoldElem (p.pos + k), decide (j + n = sh.unfoldCols))
  | _ =>
    let j := p.pos % sh.extent 1
    let n := tokenLanes sh.perToken (sh.extent 1) j
    ((List.range n).map fun k => .mem (sh.elem (p.pos + k)), decide (j + n = sh.extent 1))

/-- A command behind a token it has fetched. -/
def CmdProg.fetched (p : CmdProg) (op : PortOp) (sh : Shape) (t : Token) (lines : Nat) : CmdProg :=
  let p1 := { p with ahead := p.ahead ++ [(t, p.pos, lines)], pos := p.pos + t.count }
  if op = .gth then
    if sh.extent 1 ≤ p.rowPos + t.count then { p1 with entry := p.entry + 1, row := none, rowPos := 0 }
    else { p1 with rowPos := p.rowPos + t.count }
  else p1

/-- NL: the command's final token has no last mark (R163). -/
def lastMark (f : Cmd) (last final : Bool) : Bool := last && !(f.flags.getLsbD 0 && final)

/-- The reply that gives a feeding command its next token (R149, R163 to R165). -/
def State.fetchPort (s : State) (c : Command) (op : PortOp) (sh : Shape) : State :=
  let f := c.fields
  let p := c.prog
  if op = .gth && p.row.isNone then s.readIndex c sh
  else
    let nt := p.nextToken op sh
    let final := decide (op.total f sh ≤ p.pos + nt.1.length)
    match s.fetchLanes c.ctx nt.1 with
    | .fault _ cause _ => s.setProg c.uid { p with stop := some (cause, p.pos) }
    | .waiting s1 => s1
    | .ready lanes lines poison =>
      let t : Token := { last := lastMark f nt.2 final, fmt := sh.fmt, lanes := lanes }
      s.setProg c.uid ((p.fetched op sh t lines).notePoison (poison.map (· + p.pos)))

/-! ### Coded streams (R62 to R64) -/

/-- Zeros before the next 1 from a bit, at most n + 1 of them looked at. -/
def leadingZeros (bits : Nat) : Nat → Nat → Nat
  | 0, _ => 0
  | n + 1, pos => if bits.testBit pos then 0 else leadingZeros bits n (pos + 1) + 1

/-- n bits from a position, the first the most significant. -/
def msbFirst (bits : Nat) : Nat → Nat → Nat
  | _, 0 => 0
  | pos, n + 1 => b2n (bits.testBit pos) * 2 ^ n + msbFirst bits (pos + 1) n

/-- The exponents of a coded block: n codes from a bit position, from a running exponent; the exponents and the bit behind them,
or none where the block is malformed (R63, R64). -/
def codedExponents (bits limit top zmax : Nat) : Nat → Nat → Int → Option (List Nat × Nat)
  | 0, pos, _ => some ([], pos)
  | n + 1, pos, e =>
    let z := leadingZeros bits (zmax + 1) pos
    if zmax < z then none
    else
      let stop := pos + 2 * z + 1
      let v := msbFirst bits (pos + z) (z + 1) - 1
      let d : Int := if v % 2 = 1 then -(((v + 1) / 2 : Nat) : Int) else ((v / 2 : Nat) : Int)
      let e1 := e + d
      if limit < stop then none
      else if 0 ≤ e1 ∧ e1 ≤ top then
        (codedExponents bits limit top zmax n stop e1).map fun r => (e1.toNat :: r.1, r.2)
      else none

/-- The 64 codes of a block of len words, none where it is malformed (R62 to R64). -/
def decodeBlock (e5 : Bool) (bits len : Nat) : Option (List Nat) :=
  let variant := bitN bits 9 = 1
  let raw := bitN bits 8 = 1
  let base := field bits 7 0
  if variant != e5 then none
  else if raw then
    if len = 17 && base = 0 && field bits 543 528 = 0 then
      some ((List.range 64).map fun i => field bits (16 + 8 * i + 7) (16 + 8 * i))
    else none
  else
    let m := if e5 then 2 else 3
    let top := if e5 then 31 else 15
    let zmax := if e5 then 5 else 4
    if top < base then none
    else
      match codedExponents bits (32 * len) top zmax 64 (16 + 64 * (m + 1)) base with
      | none => none
      | some (es, stop) =>
        if ceilDiv stop 32 = len && bits / 2 ^ stop = 0 then
          some ((List.range 64).map fun i =>
            let f := field bits (16 + (m + 1) * i + m) (16 + (m + 1) * i)
            bitN f m * 2 ^ 7 + es.getD i 0 * 2 ^ m + f % 2 ^ m)
        else none

/-- Decoded lanes cut into tokens of the link's full lane count. -/
def CmdProg.cutCoded (p : CmdProg) (f : Cmd) (fmt : BitVec 4) (lines : Nat) : CmdProg :=
  let full := laneCount fmt
  let total := ceilDiv f.operand.toNat 64 * 64
  let got := p.pos + p.lanes.length
  if full ≤ p.lanes.length || total ≤ got then
    let ls := p.lanes.take full
    let keep := ls.zipIdx.map fun x => if p.pos + x.2 < f.operand.toNat then x.1 else Lane.bad
    let final := decide (total ≤ p.pos + ls.length)
    let t : Token := { last := lastMark f final final, fmt := fmt, lanes := keep }
    { p with ahead := p.ahead ++ [(t, p.pos, lines)], pos := p.pos + ls.length, lanes := p.lanes.drop full,
             tokBlock := p.block, tokAt := p.blockAt }
  else p

/-- A block's lanes behind those decoded before. -/
def CmdProg.blockLanes (p : CmdProg) (f : Cmd) (fmt : BitVec 4) (ls : List Lane) (len : Nat) (bad : Bool) : CmdProg :=
  { p with
    lanes := p.lanes ++ ls, block := p.block + 1, blockAt := p.blockAt + 4 * len
    badBlock := if bad && p.badBlock.isNone then some p.block else p.badBlock }.cutCoded f fmt (ceilDiv len 32 + 1)

/-- The next block of a coded stream read and decoded (R62 to R64). -/
def State.fetchCoded (s : State) (c : Command) (sh : Shape) : State :=
  let f := c.fields
  let p := c.prog
  let va := (f.addr + dw p.blockAt).toNat
  let invalid : List Lane := List.replicate 64 Lane.bad
  let faulted (cause : Nat) : State := s.setProg c.uid { p with stop := some (cause, p.pos), lanes := [] }
  if p.blockEnd then s.setProg c.uid (p.blockLanes f sh.fmt invalid 0 false)
  else
    match s.engineRange c.ctx va 4 .read with
    | .error (cause, _) => faulted cause
    | .ok ps =>
      if !s.allResident ps then s.requestLines c.ctx ps
      else if ps.any (fun x => s.poisoned x.2.1 x.2.2) then
        s.setProg c.uid (({ p with blockEnd := true }.notePoison (some (p.pos + p.lanes.length))).blockLanes f sh.fmt invalid 0 false)
      else
        let len := field (leNat ((ps.map fun x => s.mem.bytes x.2.1 x.2.2).flatten)) 15 10
        if len = 0 then s.setProg c.uid ({ p with blockEnd := true }.blockLanes f sh.fmt invalid 0 true)
        else
          match s.engineRange c.ctx va (4 * len) .read with
          | .error (cause, _) => faulted cause
          | .ok qs =>
            if !s.allResident qs then s.requestLines c.ctx qs
            else if qs.any (fun x => s.poisoned x.2.1 x.2.2) then
              s.setProg c.uid ((p.notePoison (some (p.pos + p.lanes.length))).blockLanes f sh.fmt invalid len false)
            else
              let bits := leNat ((qs.map fun x => s.mem.bytes x.2.1 x.2.2).flatten)
              match decodeBlock (sh.fmt = 9) bits len with
              | none => s.setProg c.uid (p.blockLanes f sh.fmt invalid len true)
              | some codes => s.setProg c.uid (p.blockLanes f sh.fmt (codes.map fun v => ⟨dw v, true⟩) len false)

/-! ### Draining -/

/-- A command behind one element stored or passed. -/
def CmdProg.stepElem (p : CmdProg) (op : PortOp) (sh : Shape) : CmdProg :=
  let p1 := { p with pos := p.pos + 1, moved := p.moved + 1 }
  if op = .sct then
    if sh.extent 1 ≤ p.rowPos + 1 then { p1 with entry := p.entry + 1, row := none, rowPos := 0 } else { p1 with rowPos := p.rowPos + 1 }
  else p1

/-- Lanes k and on stored to the next elements (R154, R163, R164): the progress, the elements written, the lane that stops and
its cause (none where an index is awaited). -/
def State.putLanes (s : State) (ctx : Nat) (op : PortOp) (sh : Shape) (total : Nat) :
    Nat → List Lane → CmdProg → List ElemWrite → CmdProg × List ElemWrite × Option (Nat × Option Nat)
  | _, [], p, ws => (p, ws, none)
  | k, l :: ls, p, ws =>
    if total ≤ p.pos then (p, ws, none)
    else
      let place : Option (Option ElemAt) :=
        if op = .sct then p.row.map fun r => r.map fun row => rowElem sh.fmt row (sh.stride 1) p.rowPos
        else some (some (sh.elem p.pos))
      match place with
      | none => (p, ws, some (k, none))
      | some none => s.putLanes ctx op sh total (k + 1) ls (p.stepElem op sh) ws
      | some (some x) =>
        match x.fault with
        | some cause => (p, ws, some (k, some cause))
        | none =>
          if !l.ok then s.putLanes ctx op sh total (k + 1) ls (p.stepElem op sh) ws
          else
            match s.engineXlat ctx x.va.toNat .write with
            | .error cause => (p, ws, some (k, some cause))
            | .ok pa =>
              s.putLanes ctx op sh total (k + 1) ls (p.stepElem op sh)
                (ws ++ [⟨x.va, pa, x.bytes, x.bit, x.width, l.val.toNat % 2 ^ x.width⟩])

/-- The token in hand stored as far as it goes. -/
def State.drainToken (s : State) (f : Cmd) (c : Command) (op : PortOp) (sh : Shape) (t : Token) (k : Nat) : State :=
  let p := c.prog
  let res := s.putLanes c.ctx op sh (op.total f sh) k (t.lanes.drop k) p []
  let p1 := if res.2.1.isEmpty then res.1 else { res.1 with stores := res.1.stores ++ [{ writes := res.2.1 }] }
  match res.2.2 with
  | none => s.setProg c.uid { p1 with token := none }
  | some (j, none) => s.setProg c.uid { p1 with token := some (t, j) }
  | some (j, some cause) => s.setProg c.uid { p1 with token := some (t, j), stop := some (cause, p1.pos) }

/-- A draining command's turn: a token taken and stored, or the end (R154, R160, R163, R242). -/
def State.drainPort (s : State) (f : Cmd) (c : Command) (op : PortOp) (sh : Shape) : State :=
  let p := c.prog
  match p.stop with
  | some (cause, restart) =>
    if p.stores.isEmpty then s.stopPort f c op cause restart (p.token.map fun x => { x.1 with lanes := x.1.lanes.drop x.2 }) else s
  | none =>
    if p.blockEnd || op.total f sh ≤ p.pos then (if p.stores.isEmpty then s.endPort c op sh else s)
    else
      match p.token with
      | some (t, k) => s.drainToken f c op sh t k
      | none =>
        match s.region c.core p.region with
        | none => s
        | some r =>
          let l := r.link p.link
          if ((s.core c.core).port f.dest.toNat).readPos ≠ 0 || !(s.portWaiters c.core f.dest.toNat).isEmpty then s
          else
            match l.head with
            | some t =>
              let s1 := s.setRegion c.core p.region (r.setLink p.link l.pop).squash
              s1.drainToken f c op sh t 0
            | none => if l.atClosed then s.setProg c.uid { p with blockEnd := true } else s

/-! ### Turns and replies -/

/-- Whether a context's region is saved for the context's return (R380, R381). -/
def State.regionAway (s : State) (core ctx region : Nat) : Bool :=
  (s.core core).frozen.any fun f => f.ctx = ctx && f.regions.any (·.number = region)

/-- Whether the region that a running command feeds or drains still binds its port. -/
def State.stillBound (s : State) (c : Command) (b : Binding) : Bool :=
  match s.region c.core c.prog.region with
  | none => false
  | some r => r.ctx = c.ctx && (r.link c.prog.link).binding = b

/-- A port command's turn. -/
def State.portTurn (s : State) (op : PortOp) (f : Cmd) (c : Command) : State :=
  match c.stage with
  | .waiting => s.startPort f c op
  | _ =>
    match c.prog.shape with
    | none => s
    | some sh =>
      if !s.stillBound c (if op.drains then .output f.dest.toNat else .input f.dest.toNat) then
        (if s.regionAway c.core c.ctx c.prog.region then s else s.engineCmd c 0x20)
      else if op.drains then s.drainPort f c op sh
      else s.feedPort f c op sh

/-- A port command's reply. -/
def State.portReply (s : State) (op : PortOp) (c : Command) : State :=
  match c.stage, c.prog.shape with
  | .running, some sh =>
    if (s.region c.core c.prog.region).isNone then s
    else if op.drains then
      if op = .sct && c.prog.row.isNone && c.prog.stop.isNone && decide (c.prog.pos < op.total c.fields sh) then s.readIndex c sh
      else
        let res := s.acceptStores c.ctx (fun _ => false) c.prog.stores
        res.2.setProg c.uid { c.prog with stores := res.1 }
    else if c.prog.stop.isSome || op.total c.fields sh ≤ c.prog.pos || !s.cmdMayFetch c then s
    else
      let coded := match s.region c.core c.prog.region with
        | some r => (r.link c.prog.link).coded
        | none => false
      if coded then s.fetchCoded c sh else s.fetchPort c op sh
  | _, _ => s

/-- LDS (R163). -/
def execLds (c : Cmd) (s : State) : Out := s.runCommand (s.portTurn .lds c)

/-- STS (R163). -/
def execSts (c : Cmd) (s : State) : Out := s.runCommand (s.portTurn .sts c)

/-- GTH (R164). -/
def execGth (c : Cmd) (s : State) : Out := s.runCommand (s.portTurn .gth c)

/-- SCT (R164). -/
def execSct (c : Cmd) (s : State) : Out := s.runCommand (s.portTurn .sct c)

/-- UNF (R165). -/
def execUnf (c : Cmd) (s : State) : Out := s.runCommand (s.portTurn .unf c)

end Sys2Proof.Machine
end

