-- ==== Sys2Proof/Machine/CopyCmds.lean ====
section
/-! DEFINITION. The copy commands CPY, CPYL and FIL (R166 to R168) and the collectives of COL (R169, R415). A command's own turn
checks its fields; STREAM_REPLY carries it on, a descriptor, an index or a piece of at most a line at a time. -/

namespace Sys2Proof.Machine

/-- Bytes of translated pieces. -/
def State.pieceBytes (s : State) (ps : List (Nat × Nat × Nat)) : List Byte := (ps.map fun x => s.mem.bytes x.2.1 x.2.2).flatten

/-- What an engine's read of a small range comes to. -/
inductive Got where
  | fault (cause : Nat)
  | waiting (s : State)
  | poison
  | bytes (bs : List Byte)

/-- A small range read through its home slices (R143). -/
def State.readThrough (s : State) (ctx va n : Nat) : Got :=
  match s.engineRange ctx va n .read with
  | .error (cause, _) => .fault cause
  | .ok ps =>
    if !s.allResident ps then .waiting (s.requestLines ctx ps)
    else if ps.any (fun x => s.poisoned x.2.1 x.2.2) then .poison
    else .bytes (s.pieceBytes ps)

/-- What a write of a small range through its home slices comes to: the cause of a fault, or the state and whether it was written
(the lines are asked for where they are not resident). -/
def State.writeThrough (s : State) (ctx va : Nat) (bs : List Byte) : Except Nat (Bool × State) :=
  match s.engineRange ctx va bs.length .write with
  | .error (cause, _) => .error cause
  | .ok ps =>
    if !s.allResident ps then .ok (false, s.requestLines ctx ps)
    else
      let s1 := ps.foldl (fun (a : State) x => if isMain x.2.1 then a.markDirty (x.2.1 / 128) else a) (s.storePieces ps bs)
      .ok (true, s1.messages ctx ps)

/-! ### CPY and CPYL (R166, R167) -/

/-- Whether a command is CPYL: one of a list (R166). -/
def copyCount (list : Bool) (f : Cmd) : Nat := if list then f.operand.toNat else 1

/-- The restart point or affected place of a copy: byte offset for CPY, entry index for CPYL (R160, R162). -/
def copyPlace (list : Bool) (p : CmdProg) : Nat := if list then p.entry else p.pos

/-- A copy begun: its fields checked (R166). -/
def State.startCopy (s : State) (list : Bool) (f : Cmd) (c : Command) : State :=
  match c.stage with
  | .waiting =>
    if f.addr.toNat % 32 ≠ 0 || (list && (f.operand.toNat = 0 || 65536 < f.operand.toNat)) then s.answerOpen c 0x01
    else s.setProg c.uid {}
  | _ => s

/-- Whether a descriptor is well formed (R166). -/
def copyDescOk (cks : Bool) (d : List Dword) : Bool :=
  let w (i : Nat) : Nat := (d.getD i 0).toNat
  field (w 0) 63 56 = 0 && field (w 1) 63 56 = 0 && field (w 2) 63 33 = 0 && field (w 3) 63 56 = 0
    && !(cks && w 3 ≠ 0 && w 3 % 4 ≠ 0)

/-- Destination bytes that overlap the entry's own source are free values (R6, R166). -/
def copiedBytes (n src dst len : Nat) : Nat → List Byte → List Byte
  | _, [] => []
  | i, b :: bs =>
    let a := dst + i
    (if decide (src ≤ a) && decide (a < src + len) then (Config.freeWord (n + i)).truncate 8 else b)
      :: copiedBytes n src dst len (i + 1) bs

/-- An entry at its end: its checksum word, and the next entry or the answer (R166, R167). -/
def State.copyEntryEnd (s : State) (list : Bool) (f : Cmd) (c : Command) (len : Nat) (closes : Bool) (sum : Nat) : State :=
  let p := c.prog
  let next (s1 : State) : State :=
    let p1 := { p with entry := p.entry + 1, desc := none, pos := 0, held := none,
                       crc := if closes then 0xFFFFFFFF else p.crc, moved := p.moved + len }
    if copyCount list f ≤ p1.entry then s1.answerCmd c 0x00 (if list then p1.entry else len) else s1.setProg c.uid p1
  if f.cks && closes && sum ≠ 0 then
    match s.writeThrough c.ctx sum (leBytes 4 (p.crc ^^^ 0xFFFFFFFF).toNat) with
    | .error cause => s.faultCmd c cause (copyPlace list p)
    | .ok (false, s1) => s1
    | .ok (true, s1) => next s1
  else next s

/-- A copy carried on: its descriptor read, a piece read, a piece written (R166, R167). -/
def State.copyReply (s : State) (list : Bool) (f : Cmd) (c : Command) : State :=
  let p := c.prog
  match p.desc with
  | none =>
    match s.readThrough c.ctx (f.addr.toNat + 32 * p.entry) 32 with
    | .fault cause => s.faultCmd c cause (copyPlace list p)
    | .waiting s1 => s1
    | .poison => s.answerCmd c 0x05 (copyPlace list p * 2 ^ 8)
    | .bytes bs =>
      let d := (List.range 4).map fun i => dw (leNat ((bs.drop (8 * i)).take 8))
      if copyDescOk f.cks d then s.setProg c.uid { p with desc := some d, pos := 0 } else s.answerCmd c 0x01 (p.entry * 2 ^ 8)
  | some d =>
    let w (i : Nat) : Nat := (d.getD i 0).toNat
    let src := w 0
    let dst := w 1
    let len := field (w 2) 31 0
    if len ≤ p.pos then s.copyEntryEnd list f c len (bitN (w 2) 32 = 0) (w 3)
    else
      match p.held with
      | none =>
        let n := min (len - p.pos) (min (128 - (src + p.pos) % 128) (128 - (dst + p.pos) % 128))
        match s.readThrough c.ctx (src + p.pos) n with
        | .fault cause => s.faultCmd c cause (copyPlace list p)
        | .waiting s1 => s1
        | .poison => s.answerCmd c 0x05 (copyPlace list p * 2 ^ 8)
        | .bytes bs =>
          { s with fresh := s.fresh + n }.setProg c.uid
            { p with held := some (copiedBytes s.fresh src (dst + p.pos) len 0 bs) }
      | some bs =>
        match s.writeThrough c.ctx (dst + p.pos) bs with
        | .error cause => s.faultCmd c cause (copyPlace list p)
        | .ok (false, s1) => s1
        | .ok (true, s1) =>
          s1.setProg c.uid { p with pos := p.pos + bs.length, held := none, crc := if f.cks then crcUpdate p.crc bs else p.crc }

/-- CPY (R166). -/
def execCpy (c : Cmd) (s : State) : Out := s.runCommand (s.startCopy false c)

/-- CPYL (R166). -/
def execCpyl (c : Cmd) (s : State) : Out := s.runCommand (s.startCopy true c)

/-! ### FIL (R168) -/

/-- A fill begun: its fields checked. -/
def State.startFill (s : State) (f : Cmd) (c : Command) : State :=
  match c.stage with
  | .waiting =>
    if f.addr.toNat % 16 ≠ 0 || f.operand.toNat % 8 ≠ 0 then s.answerOpen c 0x01 else s.setProg c.uid {}
  | _ => s

/-- n bytes of a repeated doubleword. -/
def patternBytes (v : Dword) (n : Nat) : List Byte := (List.range (n / 8)).flatMap fun _ => leBytes 8 v.toNat

/-- A fill carried on: its descriptor read, a piece written. -/
def State.fillReply (s : State) (f : Cmd) (c : Command) : State :=
  let p := c.prog
  match p.desc with
  | none =>
    match s.readThrough c.ctx f.addr.toNat 16 with
    | .fault cause => s.faultCmd c cause 0
    | .waiting s1 => s1
    | .poison => s.answerCmd c 0x05 0
    | .bytes bs =>
      let d := (List.range 2).map fun i => dw (leNat ((bs.drop (8 * i)).take 8))
      if (d.getD 0 0).toNat % 8 ≠ 0 then s.answerOpen c 0x01
      else if f.operand = 0 then s.answerCmd c 0x00 0
      else s.setProg c.uid { p with desc := some d }
  | some d =>
    let dst := (d.getD 0 0).toNat + p.pos
    let n := min (f.operand.toNat - p.pos) (128 - dst % 128)
    match s.writeThrough c.ctx dst (patternBytes (d.getD 1 0) n) with
    | .error cause => s.faultCmd c cause p.pos
    | .ok (false, s1) => s1
    | .ok (true, s1) =>
      if f.operand.toNat ≤ p.pos + n then s1.answerCmd c 0x00 f.operand.toNat else s1.setProg c.uid { p with pos := p.pos + n }

/-- FIL (R168). -/
def execFil (c : Cmd) (s : State) : Out := s.runCommand (s.startFill c)

/-! ### COL (R169, R415) -/

/-- The operations of COL. -/
inductive ColOp where
  | allReduce
  | allGather
  | reduceScatter
  deriving DecidableEq, Repr

/-- The group of a command. -/
def groupOf (f : Cmd) : Nat := f.dest.toNat - 0x200

/-- Whether a group is configured (R415). -/
def Group.ok (g : Group) : Bool := within 2 1024 g.members && decide (g.rank < g.members) && g.ports ≠ 0

/-- Whether every port of a group's ring is up (R414). -/
def State.portsUp (s : State) (g : Group) : Bool :=
  (List.range 16).all fun i => bitN g.ports i = 0 || (s.host.links.getD i {}).up

/-- The element format: BF16 or FP32 (R44). -/
def colFmt (f : Cmd) : FFmt := if f.flags.getLsbD 2 then f32 else bf16

def colBytes (f : Cmd) : Nat := if f.flags.getLsbD 2 then 4 else 2

/-- A collective begun: the k-th of its group (R169). -/
def State.startCol (s : State) (f : Cmd) (c : Command) : State :=
  match c.stage with
  | .waiting =>
    let g := s.host.groups.getD (groupOf f) {}
    if f.addr.toNat % 32 ≠ 0 then s.answerOpen c 0x01
    else if !g.ok then s.engineCmd c 0x22
    else if !s.portsUp g then s.engineCmd c 0x23
    else
      let s1 := s.setHost { s.host with groups := s.host.groups.set (groupOf f) { g with joined := g.joined + 1 } }
      if f.operand = 0 then s1.answerOpen c 0x00 else s1.setProg c.uid { round := g.joined }
  | _ => s

/-- Elements that the receive buffer takes (R169). -/
def ColOp.count (op : ColOp) (n members : Nat) : Nat := if op = .allGather then members * n else n

/-- For receive element i: the rank whose data alone it is, or none for a sum, and the send element it is made of (R169). -/
def ColOp.source (op : ColOp) (n rank i : Nat) : Option Nat × Nat :=
  match op with
  | .allReduce => (none, i)
  | .allGather => (some (i / n), i % n)
  | .reduceScatter => (none, rank * n + i)

/-- The sum over ranks in ascending order, each step rounded to F32, converted once (R169). -/
def colSum (fm : FFmt) (xs : List Nat) : Nat :=
  let acc := xs.foldl (fun a x => (roundVal f32 .rne .byMode (fsum .rne [unpack f32 a, unpack fm x])).bits) 0
  (roundVal fm .rne .byMode (unpack f32 acc)).bits

/-- A receive element's bytes: other members' elements are free values, those of this package are its own. -/
def State.colElement (s : State) (op : ColOp) (f : Cmd) (c : Command) (g : Group) (i own : Nat) : List Byte :=
  let fm := colFmt f
  let n := f.operand.toNat
  let w := colBytes f
  let src := op.source n g.rank i
  let peer (q : Nat) : Nat := (Config.peerElement (groupOf f) c.prog.round q src.2).toNat % 2 ^ (8 * w)
  let of (q : Nat) : Nat := if q = g.rank then own else peer q
  if Config.peerAgrees (groupOf f) c.prog.round then
    match src.1 with
    | some q => leBytes w (of q)
    | none => leBytes w (colSum fm ((List.range g.members).map of))
  else leBytes w (Config.freeWord (s.fresh + i)).toNat

/-- A collective carried on: its descriptor read, one element received at a time; a group whose members disagree leaves the
receive buffer unpredictable and ends with code 0x22 (R169, R415). -/
def State.colReply (s : State) (op : ColOp) (f : Cmd) (c : Command) : State :=
  let p := c.prog
  let g := s.host.groups.getD (groupOf f) {}
  let n := f.operand.toNat
  let w := colBytes f
  match p.desc with
  | none =>
    match s.readThrough c.ctx f.addr.toNat 32 with
    | .fault cause => s.faultCmd c cause 0
    | .waiting s1 => s1
    | .poison => s.answerCmd c 0x05 0
    | .bytes bs =>
      let d := (List.range 2).map fun i => dw (leNat ((bs.drop (8 * i)).take 8))
      s.setProg c.uid { p with desc := some d }
  | some d =>
    let total := op.count n g.members
    if total ≤ p.pos then
      (if Config.peerAgrees (groupOf f) p.round then s.answerOpen c 0x00
       else { s with fresh := s.fresh + total }.engineCmd c 0x22)
    else
      let src := op.source n g.rank p.pos
      let mine := src.1.isNone || src.1 = some g.rank
      let own : Got := if mine then s.readThrough c.ctx ((d.getD 0 0).toNat + w * src.2) w else .bytes (List.replicate w 0)
      match own with
      | .fault cause => s.faultCmd c cause (w * p.pos)
      | .waiting s1 => s1
      | .poison => s.answerCmd c 0x05 (w * p.pos * 2 ^ 8)
      | .bytes bs =>
        match s.writeThrough c.ctx ((d.getD 1 0).toNat + w * p.pos) (s.colElement op f c g p.pos (leNat bs)) with
        | .error cause => s.faultCmd c cause (w * p.pos)
        | .ok (false, s1) => s1
        | .ok (true, s1) => s1.setProg c.uid { p with pos := p.pos + 1 }

/-- COL, all-reduce (R169). -/
def execColAllReduce (c : Cmd) (s : State) : Out := s.runCommand (s.startCol c)

/-- COL, all-gather (R169). -/
def execColAllGather (c : Cmd) (s : State) : Out := s.runCommand (s.startCol c)

/-- COL, reduce-scatter (R169). -/
def execColReduceScatter (c : Cmd) (s : State) : Out := s.runCommand (s.startCol c)

end Sys2Proof.Machine
end

