-- ==== Sys2Proof/Machine/CoreMem.lean ====
section
/-! DEFINITION. The core's side of memory (R177 to R184, R195): the L1 data cache, the coalescing buffer, line requests. -/

namespace Sys2Proof.Machine

/-- The valid L1 line of a core, stale ones apart. -/
def CoreState.l1Valid (c : CoreState) (line : Nat) : Option L1Line := c.l1.find? fun l => l.line = line && !l.stale

/-- The coalescing-buffer entry of a line: at most one. -/
def CoreState.entryOf (c : CoreState) (line : Nat) : Option CbEntry := c.cb.find? (·.line = line)

/-- A line's data in the L1 changed where it is valid. -/
def CoreState.l1Write (c : CoreState) (line : Nat) (f : Line → Line) : CoreState :=
  { c with l1 := c.l1.map fun (l : L1Line) => if l.line = line && !l.stale then { l with data := f l.data } else l }

/-- Invalidation of one line: gone, or stale where pinned (R184, R195). -/
def CoreState.l1Drop (c : CoreState) (line : Nat) : CoreState :=
  { c with l1 := c.l1.filterMap fun (l : L1Line) =>
      if l.line = line then (if l.pin.isSome then some { l with stale := true } else none) else some l }

/-- The L1 set of a line (R177). -/
def l1Set (line : Nat) : Nat := line % 128

/-- Room in a line's set: a victim among the unpinned ways where all 20 are taken (R177, R186). -/
def CoreState.l1Room (c : CoreState) (line pick : Nat) : CoreState :=
  let ways := c.l1.filter fun l => l1Set l.line = l1Set line
  if ways.length < 20 then c
  else
    let cands := ways.filter (·.pin.isNone)
    match cands[pick % cands.length]? with
    | some v => { c with l1 := c.l1.filter (·.line ≠ v.line) }
    | none => c

/-- A fill installed, merged under the entry of its line (R180): into the way it holds, or a new one. -/
def CoreState.l1Install (c : CoreState) (line : Nat) (data : Line) (pick : Nat) : CoreState :=
  let d := match c.entryOf line with
    | some e => lineMerge data e.data e.mask
    | none => data
  if c.l1.any (·.line = line) then
    { c with l1 := c.l1.map fun (l : L1Line) => if l.line = line then { l with data := d, stale := false } else l }
  else
    let c1 := c.l1Room line pick
    { c1 with l1 := { line := line, data := d } :: c1.l1 }

/-- An entry with bytes of a context's store, later bytes over earlier ones (R181, R209). -/
def CbEntry.merge (e : CbEntry) (off n v ctx page : Nat) : CbEntry :=
  let m := byteMask off n
  let rest := e.owners.map fun o => (o.1, o.2.1 &&& ~~~m, o.2.2)
  { e with
    data := linePut e.data off n v
    mask := e.mask ||| m
    owners := (ctx, m, page) :: rest.filter fun o => o.2.1 ≠ 0 }

/-- A store's outcome at the coalescing buffer: taken, or a wait in place, with the buffer as it then stands (R181). -/
def CoreState.cbStore (c : CoreState) (line off n v ctx page : Nat) : Bool × CoreState :=
  match c.entryOf line with
  | some e =>
    if e.draining then (false, c)
    else (true, { c with cb := c.cb.map fun (x : CbEntry) => if x.id = e.id then x.merge off n v ctx page else x })
  | none =>
    if c.cb.length < 32 then
      let e : CbEntry := { id := c.nextCb, line := line, data := 0, mask := 0, owners := [] }
      (true, { c with cb := c.cb ++ [e.merge off n v ctx page], nextCb := c.nextCb + 1 })
    else
      match c.cb.find? (!·.draining) with
      | some o => (false, { c with cb := c.cb.map fun (x : CbEntry) => if x.id = o.id then { x with draining := true } else x })
      | none => (false, c)

/-- A use added to a line's request, or a new request (R179). -/
def CoreState.request (c : CoreState) (line ctx : Nat) (va : Dword) (use : LineUse) (after : Option Nat) : CoreState :=
  if c.lineReqs.any (·.line = line) then
    { c with lineReqs := c.lineReqs.map fun (r : LineReq) =>
        if r.line = line then { r with uses := r.uses ++ [use], after := if after.isSome then after else r.after } else r }
  else
    { c with lineReqs := c.lineReqs ++ [{ line := line, ctx := ctx, va := va, uses := [use], after := after }] }

/-- A loaded value widened (R193). -/
def LoadForm.extend (f : LoadForm) (v : Nat) : Dword := if f.signed then signExt (8 * f.size) v else dw (v % 2 ^ (8 * f.size))

/-- How the core answers a load of main memory at once (R179): bytes of the coalescing buffer or the L1, or a miss, with the
entry whose acceptance it awaits first. -/
inductive LoadPath where
  | value (v : Nat)
  | miss (after : Option Nat)
  deriving DecidableEq, Repr

def CoreState.loadPath (c : CoreState) (line off n : Nat) : LoadPath :=
  let m := byteMask off n
  match c.entryOf line with
  | some e =>
    if e.mask &&& m = m then .value (lineGet e.data off n)
    else if e.mask &&& m ≠ 0 then .miss (some e.id)
    else
      match c.l1Valid line with
      | some l => .value (lineGet l.data off n)
      | none => .miss none
  | none =>
    match c.l1Valid line with
    | some l => .value (lineGet l.data off n)
    | none => .miss none

/-- The VA of a line. -/
def lineVa (va : Dword) : Dword := dw (va.toNat / 128 * 128)

end Sys2Proof.Machine
end

