-- ==== Sys2Proof/Machine/StrandCtl.lean ====
section
/-! DEFINITION. FORK, JOIN, END, YIELD (R327 to R333). -/

namespace Sys2Proof.Machine

/-- The launch image's registers (R315). -/
def Task.launchReg (t : Task) (n : Nat) : Dword := if 1 ≤ n ∧ n ≤ 8 then t.params.getD (n - 1) 0 else 0

/-- The launch image of a strand's task. -/
def State.launchRegs (s : State) (task : Nat) : Vector Dword 32 :=
  match s.task task with
  | some t => Vector.ofFn fun i => t.launchReg i.val
  | none => Vector.replicate 32 0

/-- A child or a scout as FORK makes it (R329, R330). -/
def State.forkChild (s : State) (st : Strand) (sid : Nat) (entry arg : Dword) : Strand :=
  let scout := entry.getLsbD 0
  { core := st.core, sid := sid, stream := s.nextUid, ctx := st.ctx, task := st.task, pc := entry &&& ~~~3
    regs := (s.launchRegs st.task).set 1 arg
    dmask := 2
    sibling := if scout then 0 else BitVec.ofNat 32 st.nextChild
    parent := if scout then none else some (keyOf st.core st.sid)
    scout := scout, ordered := st.ordered, prio := st.prio, frm := st.frm, tvec := st.tvec
    budget := if scout then (if st.budget = 0 then 4096 else st.budget) else 0 }

/-- FORK (R330). A scout's FORK creates nothing and writes all ones (R328). -/
def execFork (d a b : BitVec 5) (s : State) : Out :=
  let st := s.me
  let e := st.g a
  let scout := e.getLsbD 0
  if st.scout then .next (s.result d allOnes)
  else if e.getLsbD 1 then .next (s.fault 0x02 e)
  else if scout && !(s.ctx st.ctx).scoutPriv then .next (s.fault 0x05 e)
  else
    match s.freeSid st.core with
    | none => .next (s.result d allOnes)
    | some sid =>
      if st.unjoined = 65535 then .next (s.result d allOnes)
      else
        match s.slotFor st.core st.ctx (if scout then .scout else st.depositor) with
        | none =>
          -- a scout that finds no on-chip slot ends at once (R327)
          if scout && (s.slotFor st.core st.ctx st.depositor).isSome then .next (s.result d 0) else .next s.overflow
        | some p =>
          let child := s.forkChild st sid e (st.g b)
          let s1 := { s with nextUid := s.nextUid + 1 }.deposit (keyOf st.core sid) child { kind := if scout then .scout else .resume, y := true, place := p }
          if scout then .next (s1.result d 0)
          else
            let me := { st with nextChild := st.nextChild + 1, unjoined := st.unjoined + 1 }
            .next (s1.complete (me.setG d (dw (st.nextChild % 2 ^ 32))))

/-- A wait for unjoined children: a kind-1 record (R331). -/
def State.joinWait (s : State) (st : Strand) (own : Dword) : Option State :=
  match s.slotFor st.core st.ctx st.depositor with
  | none => none
  | some p => some (s.deposit s.meKey st { kind := .join, wait := .children, ownPc := own, place := p })

/-- JOIN (R331). A scout's does nothing (R328). -/
def execJoin (s : State) : Out :=
  let st := s.me
  if st.scout || st.unjoined = 0 then .next s.done
  else
    match s.joinWait st.retire st.pc with
    | some s1 => .next s1
    | none => .next s.overflow

/-- END (R332): waits as JOIN does for its own children, resuming at the END itself; never raises 0x06. -/
def execEndStrand (s : State) : Out :=
  let st := s.me
  if st.scout || st.unjoined = 0 then .next (s.endStrand s.meKey)
  else
    match s.joinWait st st.pc with
    | some s1 => .next s1
    | none => .next s

/-- YIELD (R333): a kind-0 record ready at once. -/
def execYield (s : State) : Out :=
  let st := s.me
  match s.slotFor st.core st.ctx st.depositor with
  | none => .next s.overflow
  | some p => .next (s.deposit s.meKey st.retire
      { kind := if st.scout then .scout else .resume, y := true, ownPc := st.pc, place := p })

end Sys2Proof.Machine
end

