-- ==== Sys2Proof/Machine/Tgo.lean ====
section
/-! DEFINITION. Task-graph objects (R356 to R359) and patch tables (R362): what is read, and its checks. -/

namespace Sys2Proof.Machine

/-- A node record: its sixteen doublewords and its successors' indices. -/
structure TgoNode where
  dws : List Nat
  succs : List Nat
  deriving DecidableEq, Repr

/-- A patch-table entry (R362). -/
structure Patch where
  node : Nat
  sel : Nat
  value : Dword
  deriving DecidableEq, Repr

/-- A task-graph object as read. -/
structure Tgo where
  nodes : List TgoNode
  tables : Nat
  patchOff : Nat
  deriving DecidableEq, Repr

def TgoNode.dw (n : TgoNode) (i : Nat) : Nat := n.dws.getD i 0
def TgoNode.dwv (n : TgoNode) (i : Nat) : Dword := BitVec.ofNat 64 (n.dws.getD i 0)
def TgoNode.kindCode (n : TgoNode) : Nat := field (n.dw 0) 2 0
def TgoNode.kind (n : TgoNode) : NodeKind :=
  match n.kindCode with
  | 0 => .strand
  | 1 => .fabric
  | 2 => .copy
  | 3 => .episode
  | _ => .grammar
def TgoNode.die (n : TgoNode) : Nat := bitN (n.dw 0) 15
def TgoNode.coreField (n : TgoNode) : Nat := field (n.dw 0) 14 8
def TgoNode.priority (n : TgoNode) : Nat := field (n.dw 0) 6 4
def TgoNode.ordered (n : TgoNode) : Bool := bitN (n.dw 0) 3 = 1
def TgoNode.preds (n : TgoNode) : Nat := field (n.dw 0) 31 16
def TgoNode.succCount (n : TgoNode) : Nat := field (n.dw 0) 47 32
def TgoNode.count (n : TgoNode) : Nat := n.dw 3

/-- Doublewords at consecutive VAs, or none where one cannot be read. -/
def State.words (s : State) (ctx va n : Nat) : Option (List Nat) :=
  match s.engineDwords ctx va n with
  | .ok ds => some (ds.map BitVec.toNat)
  | .error _ => none

/-- A 4-byte word. -/
def State.word32 (s : State) (ctx va : Nat) : Option Nat :=
  match s.engineRead ctx va 4 with
  | .ok bs => some (leNat bs)
  | .error _ => none

def traverse {α β : Type} (f : α → Option β) : List α → Option (List β)
  | [] => some []
  | x :: xs => match f x with
    | none => none
    | some y => (traverse f xs).map (y :: ·)

/-! ### Node records (R357) -/

/-- The function codes of major 0x2A or 0x2B (R122, R310). -/
def functionAssigned (episode : Bool) (fn : Nat) : Bool := if episode then within 1 13 fn else within 1 7 fn

/-- A request list's entries: those of an episode or grammar node (R358). -/
def State.readRequests (s : State) (ctx va n : Nat) : Option (List ReqEntry) :=
  traverse (fun i => match s.words ctx (va + 32 * i) 4 with
    | some ws => some { fn := ws.getD 0 0, a := dw (ws.getD 1 0), b := dw (ws.getD 2 0), d := dw (ws.getD 3 0) }
    | none => none) (List.range n)

/-- The fields of a node record, but for its edges (R357, R359). -/
def TgoNode.ok (n : TgoNode) : Bool :=
  let k := n.kindCode
  let core := n.coreField
  field (n.dw 0) 63 48 = 0 && bitN (n.dw 0) 7 = 0 && field (n.dw 2) 63 32 = 0 && field (n.dw 3) 63 32 = 0
    && [5, 6, 7].all (fun i => n.dw i = 0) && decide (k ≤ 4) && (decide (core < 48) || (core = 0x7F && decide (k ≤ 1)))
    && (match n.kind with
        | .strand => n.dw 1 % 4 = 0 && n.dw 3 = 0 && n.dw 4 = 0
        | .fabric => n.dw 1 = 0 && n.dw 3 = 0 && n.dw 4 = 0 && n.dw 8 ≠ 0
        | .copy => within 1 1024 n.count && n.dw 4 = 0 && (List.range 8).all fun i => n.dw (8 + i) = 0
        | _ => within 1 1024 n.count && n.dw 4 % 8 = 0 && n.dw 1 % 32 = 0 && (List.range 8).all fun i => n.dw (8 + i) = 0)

/-- Whether an entry is one its form allows: an assigned function, and 0 for an operand that the form does not read (R122, R310,
R358). -/
def ReqEntry.ok (episode : Bool) (r : ReqEntry) : Bool :=
  functionAssigned episode r.fn
    && (r.b = 0 || !(if episode then [1, 2, 8, 9].contains r.fn else [1, 4, 5].contains r.fn))
    && (r.d = 0 || (episode && r.fn = 6))

/-- The request list of an episode or grammar node (R358, R359). -/
def State.requestsOk (s : State) (ctx : Nat) (n : TgoNode) : Bool :=
  match n.kind with
  | .episode => match s.readRequests ctx (n.dw 1) n.count with
    | some rs => rs.all (·.ok true)
    | none => false
  | .grammar => match s.readRequests ctx (n.dw 1) n.count with
    | some rs => rs.all (·.ok false)
    | none => false
  | _ => true

/-! ### Edges (R359) -/

/-- How many list entries name a node. -/
def edgesInto (ns : List TgoNode) (i : Nat) : Nat := (ns.map fun n => (n.succs.filter (· = i)).length).sum

/-- Nodes left when those without a remaining predecessor are taken away again and again: none where the edges form no cycle. -/
def peel (ns : List TgoNode) : Nat → List Nat → List Nat
  | 0, left => left
  | f + 1, left =>
    let keep := left.filter fun i => left.any fun j => ((ns[j]?.map (·.succs)).getD []).contains i
    if keep.length = left.length then left else peel ns f keep

def acyclic (ns : List TgoNode) : Bool := (peel ns ns.length (List.range ns.length)).isEmpty

def edgesOk (ns : List TgoNode) : Bool :=
  ((List.range ns.length).all fun i => (ns[i]?.map (·.preds)).getD 0 = edgesInto ns i) && acyclic ns

/-! ### Patch tables (R362) -/

/-- Whether an entry is one R362 allows. -/
def Patch.ok (ns : List TgoNode) (p : Patch) : Bool :=
  match ns[p.node]? with
  | none => false
  | some n =>
    let d := field p.sel 3 0
    if bitN p.sel 7 = 0 then field p.sel 6 4 = 0 && (d = 1 || d = 3 || d = 4 || decide (8 ≤ d))
    else
      let f := field p.sel 6 4
      n.kind = .fabric && (if f = 0 then decide (p.value.toNat < 2 ^ 56) else decide (f ≤ 5) && decide (p.value.toNat < 2 ^ 32))

/-- A patch table of a TGO of length bytes: its entries, none where it fails R362. -/
def State.readTable (s : State) (ctx va length : Nat) (ns : List TgoNode) (patchOff i : Nat) : Option (List Patch) :=
  match s.word32 ctx (va + patchOff + 4 * i) with
  | none => none
  | some off =>
    if length < off + 16 then none
    else match s.words ctx (va + off) 2 with
      | none => none
      | some h =>
        let n := h.getD 0 0
        if 65536 < n || h.getD 1 0 ≠ 0 || length < off + 16 + 16 * n then none
        else
          match traverse (fun j => match s.words ctx (va + off + 16 + 16 * j) 2 with
            | some w => if field (w.getD 0 0) 63 24 = 0 then some (⟨field (w.getD 0 0) 15 0, field (w.getD 0 0) 23 16, dw (w.getD 1 0)⟩ : Patch) else none
            | none => none) (List.range n) with
          | none => none
          | some ps => if ps.all (·.ok ns) then some ps else none

/-! ### The object (R356, R359) -/

/-- A node with its successor list. -/
def State.readNode (s : State) (ctx va nodes length i : Nat) : Option TgoNode :=
  match s.words ctx (va + 128 + 128 * i) 16 with
  | none => none
  | some ds =>
    let n : TgoNode := ⟨ds, []⟩
    let off := field (n.dw 2) 31 0
    if length < off + 4 * n.succCount then none
    else
      (traverse (fun j => match s.word32 ctx (va + off + 4 * j) with
        | some w => if w < nodes then some w else none
        | none => none) (List.range n.succCount)).map fun succs => { n with succs := succs }

/-- A TGO read and checked at an address; none where it fails R359. -/
def State.readTgo (s : State) (ctx va : Nat) : Option Tgo :=
  if va % 128 ≠ 0 then none
  else match s.words ctx va 8 with
    | none => none
    | some h =>
      let d0 := h.getD 0 0
      let nodes := field d0 47 32 + 1
      let tables := field d0 31 16
      let patchOff := field (h.getD 1 0) 31 0
      let length := field (h.getD 1 0) 63 32
      if field d0 63 48 ≠ 0 || field d0 15 0 ≠ 1 || [2, 3, 4, 5, 6, 7].any (fun i => h.getD i 0 ≠ 0)
          || length < 128 + 128 * nodes || length < patchOff + 4 * tables then none
      else match traverse (s.readNode ctx va nodes length) (List.range nodes) with
        | none => none
        | some ns =>
          if ns.all (fun n => n.ok && s.requestsOk ctx n) && edgesOk ns
              && ((List.range tables).all fun i => (s.readTable ctx va length ns patchOff i).isSome) then
            some ⟨ns, tables, patchOff⟩
          else none

/-- The entries of the patch table that a kick names; none of them for 0xFFFF. -/
def State.patchesOf (s : State) (ctx va : Nat) (t : Tgo) (table : Nat) : Option (List Patch) :=
  if table = 0xFFFF then some []
  else match s.word32 ctx (va + 12) with
    | none => none
    | some length => if table < t.tables then s.readTable ctx va length t.nodes t.patchOff table else none

/-- A node record's doublewords patched (R362). -/
def TgoNode.patched (n : TgoNode) (i : Nat) (ps : List Patch) : TgoNode :=
  { n with dws := ps.foldl (fun ds p => if p.node = i && bitN p.sel 7 = 0 then ds.set (field p.sel 3 0) p.value.toNat else ds) n.dws }

/-- The patches of a fabric node's shape records, in table order (R362). -/
def shapePatches (i : Nat) (ps : List Patch) : List (Nat × Nat × Dword) :=
  (ps.filter fun p => p.node = i && bitN p.sel 7 = 1).map fun p => (field p.sel 3 0, field p.sel 6 4, p.value)

end Sys2Proof.Machine
end

