-- ==== Sys2Proof/Machine/Sched.lean ====
section
/-! DEFINITION. Tasks: kicks and replays (R356 to R365), the ready queues (R366 to R368), the region arbiter (R369 to R371). -/

namespace Sys2Proof.Machine

/-! ### Kicks (R360, R361) -/

/-- A kick dropped, and counted (R361). -/
def KickSlot.overrun (ks : KickSlot) : KickSlot := { ks with overruns := min 0xFFFF (ks.overruns + 1) }

/-- Whether a kick is dropped (R360, R361). -/
def KickSlot.drops (ks : KickSlot) (dead : Bool) (word : Dword) : Bool :=
  field word.toNat 63 32 ≠ 0 || ks.state = .unbound || dead || ks.pending.isSome
    || (field word.toNat 15 0 ≠ 0xFFFF && decide (ks.tables ≤ field word.toNat 15 0))

/-- KICK (R360, R361): an aligned 8-byte write to a slot's kick word. -/
def execKick (slot : Nat) (word : BitVec 64) (s : State) : Out :=
  if 131072 ≤ slot then .next s
  else
    let ks := s.kickSlot slot
    if ks.drops (s.ctx ks.ctx).dead word then .next (s.setKickSlot slot ks.overrun)
    else if ks.state = .running then .next (s.setKickSlot slot { ks with pending := some word })
    else .next (s.startKick slot word)

/-- A slot bound by its record (R361). -/
def State.bindSlot (s : State) (slot : Nat) (r : KickRecord) : State :=
  let ks := s.kickSlot slot
  let ks1 : KickSlot := { ks with tgo := r.tgo, ctx := r.ctx, vector := r.vector, enable := r.enable, completed := 0, pending := none }
  match (if r.enable then s.readTgo r.ctx r.tgo.toNat else none) with
  | some t => s.setKickSlot slot { ks1 with state := .idle, tables := t.tables }
  | none => s.setKickSlot slot { ks1 with state := .unbound, tables := 0 }

/-- KICK_SLOT_BIND (R359, R361): ignored while the slot runs. -/
def execKickSlotBind (slot : Nat) (rec : KickRecord) (s : State) : Out :=
  if 131072 ≤ slot || (s.kickSlot slot).state = .running then .next s else .next (s.bindSlot slot rec)

/-- A slot's status word (R360). -/
def KickSlot.status (ks : KickSlot) : Dword :=
  let st := match ks.state with
    | .idle => 0
    | .running => if ks.pending.isSome then 2 else 1
    | .failed => 3
    | .unbound => 4
  dw (ks.completed % 2 ^ 32 * 2 ^ 32 + ks.code % 256 * 2 ^ 24 + st * 2 ^ 16 + ks.overruns)

/-! ### Nodes become ready (R364, R366, R367) -/

/-- A rectangle of cells of a core. -/
def rectCells (x0 y0 w h : Nat) : List Nat := (List.range h).flatMap fun y => (List.range w).map fun x => 8 * (y0 + y) + x0 + x

def Region.area (r : Region) : List Nat := rectCells r.x0 r.y0 r.w r.h

/-- Frozen regions that wait for their restoration (R420). -/
def CoreState.awaited (c : CoreState) : List Region :=
  c.frozen.flatMap fun f => f.regions.filter fun r => f.toRestore.contains r.number

/-- Cells that no configuration may take: those of running regions and of regions to be restored (R369, R420). -/
def CoreState.takenCells (c : CoreState) : List Nat :=
  ((c.regions.filter fun r => r.2.status = .running).flatMap fun r => r.2.area) ++ c.awaited.flatMap Region.area

/-- Free cells as R369 counts them. -/
def CoreState.freeCells (c : CoreState) : Nat := ((List.range 64).filter fun x => !c.takenCells.contains x).length

/-- The core of a die that a strand node without one goes to (R367). -/
def State.strandCore (s : State) (die : Nat) : Nat :=
  ((List.range 48).find? fun i => (s.freeSid (48 * die + i)).isSome && decide (s.slotsUsed (48 * die + i) .onChip < 960)).getD 0 + 48 * die

/-- The lowest core of a die with the most free cells (R367). -/
def State.fabricCore (s : State) (die : Nat) : Nat :=
  (List.range 48).foldl (fun best i =>
    if (s.core best).freeCells < (s.core (48 * die + i)).freeCells then 48 * die + i else best) (48 * die)

/-- The core a node's fields name; 0x7F for any (R357, R367). -/
def State.chooseCore (s : State) (t : Task) : Nat :=
  if t.core = 0x7F then (if t.kind = .fabric then s.fabricCore t.die else s.strandCore t.die) else 48 * t.die + t.core

/-- The queue of a task (R366). -/
def Task.queue (t : Task) : Nat :=
  match t.kind with
  | .strand => queueNo (.strand t.core)
  | .fabric => queueNo (.fabric t.core)
  | .copy => queueNo (.copy t.die)
  | .episode => queueNo (.episode t.die)
  | .grammar => queueNo (.grammar t.die)

def State.queue (s : State) (q : Nat) : List Queued := s.sched.queues.getD q []

def State.setQueue (s : State) (q : Nat) (xs : List Queued) : State :=
  s.setSched { s.sched with queues := s.sched.queues.set q xs }

/-- A node ready: its core chosen, at the tail of its level (R364, R366, R367). -/
def State.makeReady (s : State) (tid : Nat) : State :=
  match s.task tid with
  | none => s
  | some t =>
    let t1 := { t with core := s.chooseCore t, status := .queued }
    (s.setTask tid t1).setQueue t1.queue (s.queue t1.queue ++ [⟨tid, t1.priority, s.tns⟩])

def State.makeAllReady (s : State) : List Nat → State
  | [] => s
  | t :: ts => (s.makeReady t).makeAllReady ts

/-- A task instance of a node (R357, R363). -/
def TgoNode.task (n : TgoNode) (i ctx : Nat) (origin : TaskOrigin) (patches : List (Nat × Nat × Dword)) : Task :=
  { origin := origin, node := i, kind := n.kind, ctx := ctx, die := n.die, core := n.coreField, priority := n.priority
    ordered := n.ordered, status := .waiting, address := n.dwv 1, count := n.count, results := n.dwv 4
    params := (List.range 8).map fun j => n.dwv (8 + j), patches := patches }

/-! ### Replays (R362, R364) -/

/-- Entries of a die's dependence table that are taken (R364). -/
def State.depUsed (s : State) (die : Nat) : Nat :=
  (s.sched.slots.map fun x => (x.2.nodes.filter fun n => n.die = die && !n.finished).length).sum

/-- Whether the tables have an entry for each node. -/
def State.depFits (s : State) (ns : List TgoNode) : Bool :=
  [0, 1].all fun d => decide (s.depUsed d + (ns.filter (·.die = d)).length ≤ 65536)

/-- The nodes of a slot's next replay, as uploaded and as patched; none where R359 or R362 refuses what is read. -/
def State.replayNodes (s : State) (slot : Nat) : Option (List TgoNode × List Patch) :=
  let ks := s.kickSlot slot
  match s.readTgo ks.ctx ks.tgo.toNat with
  | none => none
  | some t =>
    match s.patchesOf ks.ctx ks.tgo.toNat t ks.table with
    | none => none
    | some ps =>
      let ns := (List.range t.nodes.length).map fun i => (t.nodes.getD i ⟨[], []⟩).patched i ps
      if ns.all (fun n => n.ok && s.requestsOk ks.ctx n) then some (ns, ps) else none

/-- Whether a replay is due and not started. -/
def KickSlot.isDue (ks : KickSlot) : Bool := ks.state = .running && !ks.started && ks.failing.isNone

/-- Whether a replay that became due earlier waits for entries (R364). -/
def State.heldBack (s : State) (slot : Nat) : Bool :=
  s.sched.slots.any fun x => x.2.isDue && decide (x.2.due < (s.kickSlot slot).due)
    && (match s.replayNodes x.1 with
      | some (ns, _) => !s.depFits ns
      | none => false)

/-- Tasks for the nodes of a replay, from node i on. -/
def State.makeTasks (s : State) (slot ctx : Nat) (ps : List Patch) : Nat → List TgoNode → State
  | _, [] => s
  | i, n :: ns =>
    let tid := s.sched.nextTask
    let s1 := s.setSched { s.sched with
      tasks := s.sched.tasks.set tid (n.task i ctx (.replay slot) (shapePatches i ps)), nextTask := tid + 1 }
    let ks := s1.kickSlot slot
    let d : DepEntry := { node := i, die := n.die, count := n.preds, task := tid, succs := n.succs }
    (s1.setKickSlot slot { ks with nodes := ks.nodes ++ [d] }).makeTasks slot ctx ps (i + 1) ns

/-- A replay started (R364). -/
def State.startReplay (s : State) (slot : Nat) : State :=
  let ks := s.kickSlot slot
  if !ks.isDue then s
  else
    match s.replayNodes slot with
    | none => s.failReplay slot 0x20
    | some (ns, ps) =>
      if s.heldBack slot || !s.depFits ns then s
      else
        let s1 := (s.setKickSlot slot { ks with started := true, nodes := [] }).makeTasks slot ks.ctx ps 0 ns
        s1.makeAllReady (((s1.kickSlot slot).nodes.filter (·.count = 0)).map (·.task))

/-- REPLAY_START (R362, R364). -/
def execReplayStart (slot : Nat) (s : State) : Out := .next (s.startReplay slot)

/-! ### Dispatch (R358, R367, R368) -/

/-- The head of a queue: the first of its highest level that is not empty (R366). -/
def queueHead (xs : List Queued) : Option Queued :=
  match ([7, 6, 5, 4, 3, 2, 1, 0].find? fun l => xs.any (·.level = l)) with
  | some l => xs.find? (·.level = l)
  | none => none

def State.unqueueHead (s : State) (q : Nat) (x : Queued) : State := s.setQueue q ((s.queue q).filter (·.task ≠ x.task))

/-- The root strand of a task (R315, R358). -/
def State.rootStrand (s : State) (tid : Nat) (t : Task) (sid : Nat) : Strand :=
  { core := t.core, sid := sid, ctx := t.ctx, task := tid, pc := t.address, regs := s.launchRegs tid, ordered := t.ordered
    prio := BitVec.ofNat 3 t.priority, stream := s.nextUid }

/-- A strand node dispatched as a ready record, where it finds an id and a slot; its start is an acquire (R364, R367). -/
def State.dispatchStrand (s : State) (x : Queued) (t : Task) : State :=
  match s.freeSid t.core, s.slotFor t.core t.ctx .task with
  | some sid, some p =>
    let k := keyOf t.core sid
    let s1 := { (s.unqueueHead t.queue x).acquire t.core 2 with nextUid := s.nextUid + 1 }
    (s1.deposit k (s.rootStrand x.task t sid) { y := true, place := p }).setTask x.task { t with status := .started, root := some k }
  | _, _ => s

/-- The images of a fabric node's chain (R357). -/
def Task.chain (t : Task) : List Dword := t.params.takeWhile (· ≠ 0)

/-- A configuration offered to a core's arbiter (R369). -/
def State.offer (s : State) (core : Nat) (r : ReadyConfig) : State :=
  s.modCore core fun c => { c with ready := c.ready ++ [{ r with order := c.readyCfgNo }], readyCfgNo := c.readyCfgNo + 1 }

/-- A fabric node's next configuration offered. -/
def State.offerTask (s : State) (tid : Nat) (t : Task) (level since : Nat) : State :=
  (s.offer t.core { image := t.chain.getD t.done 0, ctx := t.ctx, task := tid, level := level, cmd := none, order := 0,
                    since := since }).setTask tid { t with offered := true }

/-- A fabric node's head entry passed to the arbiter. -/
def State.dispatchFabric (s : State) (x : Queued) (t : Task) : State :=
  (s.unqueueHead t.queue x).offerTask x.task t x.level x.since

/-- Entries i and on of a copy task's list appended as commands at package scope (R158, R358, R368). -/
def State.pushList (s : State) (tid : Nat) (t : Task) (stream : Nat) : Nat → Nat → State
  | _, 0 => s
  | i, n + 1 =>
    let c : Command :=
      { uid := s.nextUid, core := t.core, sid := none, stream := stream, ctx := t.ctx, task := tid, tag := 0, bits := 0,
        src := some (t.address + dw (16 * i), i, stream), after := [] }
    State.pushList { s with cmds := s.cmds ++ [c], nextUid := s.nextUid + 1 } tid t stream (i + 1) n

def State.dispatchCopy (s : State) (x : Queued) (t : Task) : State :=
  ((s.unqueueHead t.queue x).setTask x.task { t with status := .started, list := some s.nextUid }).pushList x.task t s.nextUid 0 t.count

/-- A list's entry as a request (R122, R310, R358). -/
def ReqEntry.op (episode : Bool) (r : ReqEntry) : EpOp :=
  if !episode then .gram r.fn r.a r.b
  else
    match r.fn with
    | 1 => .register r.a
    | 2 => .new r.a
    | 3 => .append r.a (dw (field r.b.toNat 55 0)) (field r.b.toNat 63 56)
    | 4 => .cursor r.a r.b
    | 5 => .seek r.a r.b
    | 6 => .config r.a r.b r.d
    | 7 => .play r.a r.b
    | 8 => .branch r.a
    | 9 => .copy r.a
    | 10 => .splice r.a r.b
    | 11 => .calve r.a r.b
    | 12 => .pos r.a r.b
    | _ => .release r.a r.b

/-- Requests of a list in order. -/
def State.pushReqs (s : State) (tid : Nat) (t : Task) : List ReqEntry → State
  | [] => s
  | r :: rs =>
    (s.setFirn { s.firn with
      reqs := s.firn.reqs ++ [{ id := s.firn.nextId, ctx := t.ctx, task := tid, core := t.core, asker := .task tid,
                                op := r.op (t.kind = .episode) }]
      nextId := s.firn.nextId + 1 }).pushReqs tid t rs

/-- An episode or grammar list issued; one that can no longer be read fails the task (R358, R359). -/
def State.dispatchList (s : State) (x : Queued) (t : Task) : State :=
  let s1 := (s.unqueueHead t.queue x).setTask x.task { t with status := .started }
  match s.readRequests t.ctx t.address.toNat t.count with
  | some rs => (s1.pushReqs x.task t rs).drainEp
  | none => s1.taskKilled x.task t 0x20

/-- NODE_DISPATCH (R367, R368). -/
def execNodeDispatch (q : QueueId) (s : State) : Out :=
  match queueHead (s.queue (queueNo q)) with
  | none => .next s
  | some x =>
    match s.task x.task with
    | none => .next s
    | some t =>
      match t.kind with
      | .strand => .next (s.dispatchStrand x t)
      | .fabric => .next (s.dispatchFabric x t)
      | .copy => .next (s.dispatchCopy x t)
      | _ => .next (s.dispatchList x t)

/-! ### Ageing (R366) -/

/-- Whether an interval has passed. -/
def aged (interval now since : Nat) : Bool := interval ≠ 0 && decide (since + 1000 * interval ≤ now)

/-- The first passes of a level that the arbiter holds, moved to the tail of the next. -/
def CoreState.ageReady (c : CoreState) (interval now level : Nat) : CoreState :=
  match c.ready.find? (fun r => r.cmd.isNone && r.level = level && aged interval now r.since) with
  | none => c
  | some r =>
    { c with
      ready := c.ready.filter (·.order ≠ r.order) ++ [{ r with level := level + 1, since := now, order := c.readyCfgNo }]
      readyCfgNo := c.readyCfgNo + 1 }

/-- READY_QUEUE_AGEING (R366): the first node of a level that has waited an interval moves to the tail of the next. -/
def execReadyQueueAgeing (q : QueueId) (level : Nat) (s : State) : Out :=
  let n := queueNo q
  let interval := s.sched.ageing.getD n 0
  if 7 ≤ level then .next s
  else
    match (s.queue n).find? (fun x => x.level = level && aged interval s.tns x.since) with
    | some x => .next (s.setQueue n ((s.queue n).filter (·.task ≠ x.task) ++ [⟨x.task, level + 1, s.tns⟩]))
    | none =>
      match q with
      | .fabric core => .next (s.modCore core fun c => c.ageReady interval s.tns level)
      | _ => .next s

/-! ### The arbiter (R369 to R371) -/

/-- Higher levels first, then earlier readiness (R366, R369). -/
def ReadyConfig.before (a b : ReadyConfig) : Bool := decide (b.level < a.level) || (a.level = b.level && decide (a.order < b.order))

def rankInsert (r : ReadyConfig) : List ReadyConfig → List ReadyConfig
  | [] => [r]
  | x :: xs => if x.before r then x :: rankInsert r xs else r :: x :: xs

/-- In ranked order. -/
def ranked (xs : List ReadyConfig) : List ReadyConfig := xs.foldr rankInsert []

/-- Every fabric node of the core's queue offered (R369). -/
def State.offerQueue (s : State) : List Queued → State
  | [] => s
  | x :: xs => match s.task x.task with
    | some t => (s.dispatchFabric x t).offerQueue xs
    | none => s.offerQueue xs

/-- Whether two regions hold a port, an MRE or a typed-buffer range in common (R170, R191, R273). -/
def Region.clashes (a b : Region) : Bool :=
  a.ports.any b.ports.contains || a.mreNames.any b.mreNames.contains || a.bufs.any fun x => b.bufs.any (·.overlaps x)

/-- Whether a configuration may be offered now: its context neither pre-empted nor waiting for its regions (R380, R382). -/
def CoreState.admits (c : CoreState) (r : ReadyConfig) : Bool :=
  !c.stopped r.ctx && !(c.frozen.any fun f => f.ctx = r.ctx && !f.toRestore.isEmpty)

/-- The idle region that a configuration matches (R370). -/
def CoreState.matching (c : CoreState) (r : ReadyConfig) : Option Region :=
  (c.regions.find? fun x => x.2.status = .idle && x.2.image = r.image && x.2.ctx = r.ctx).map (·.2)

/-- The first free origin in row-major order (R369). -/
def CoreState.origin (c : CoreState) (w h : Nat) : Option (Nat × Nat) :=
  let taken := c.takenCells
  ((List.range (9 - h)).flatMap fun y => (List.range (9 - w)).map fun x => (x, y)).find? fun p =>
    (rectCells p.1 p.2 w h).all fun n => !taken.contains n

/-- A configuration taken from the arbiter. -/
def CoreState.takeReady (c : CoreState) (r : ReadyConfig) : CoreState := { c with ready := c.ready.filter (·.order ≠ r.order) }

/-- A configuration whose image is rejected: its CFG answered, or its task ended with code 0x21 (R170, R358, R422). -/
def State.rejectConfig (s : State) (core : Nat) (r : ReadyConfig) (e : Nat × Nat) : State :=
  let s1 := s.modCore core fun c => c.takeReady r
  match r.cmd with
  | some uid => s1.finishCommand uid (response e.1 e.2)
  | none => match s1.task r.task with
    | some t => s1.taskKilled r.task t 0x21
    | none => s1

/-- A configuration admitted: its CFG answered with the region's number, or its task started (R170, R358). -/
def State.admitted (s : State) (r : ReadyConfig) (region : Nat) : State :=
  match r.cmd with
  | some uid => s.finishCommand uid (response 0 region)
  | none => s.modTask r.task fun t => { t with status := .started }

/-- Shape records with a pass's patches, none where a value does not fit (R147, R362). -/
def patchShapes (r : Region) : List (Nat × Nat × Dword) → Region
  | [] => r
  | (i, f, v) :: ps => patchShapes ((r.patchShape i f v.toNat).getD r) ps

/-- The patches a ready configuration brings (R362). -/
def State.configPatches (s : State) (r : ReadyConfig) : List (Nat × Nat × Dword) :=
  if r.cmd.isSome then [] else ((s.task r.task).map (·.patches)).getD []

/-- The shape records of an image read again (R370): the status and value of a rejection. -/
def State.rereadShapes (s : State) (ctx : Nat) (va : Dword) : Except (Nat × Nat) (List Shape) :=
  let unread (e : Nat × Nat) : Nat × Nat := if e.1 = 0x07 then (5, (e.2 - va.toNat) * 2 ^ 8) else (4, e.1)
  match s.engineDwords ctx va.toNat 1 with
  | .error e => .error (unread e)
  | .ok hd =>
    let len := field (hd.getD 0 0).toNat 63 32
    if len % 8 ≠ 0 || len < 64 || 8192 < len then .error (3, 0)
    else
      match s.engineDwords ctx va.toNat (len / 8) with
      | .error e => .error (unread e)
      | .ok ds =>
        match imgSections (ds.map BitVec.toNat) with
        | none => .error (3, 0)
        | some g =>
          match reportFault g.shapeFaults with
          | some f => .error (f.2, f.1 * 2 ^ 8)
          | none => .ok g.mkShapes

/-- A configuration admitted on the idle region it matches (R369, R370). -/
def State.admitMatch (s : State) (core : Nat) (r : ReadyConfig) (x : Region) : State :=
  match s.rereadShapes r.ctx r.image with
  | .error e => s.rejectConfig core r e
  | .ok shapes =>
    let y := (patchShapes { x with shapes := shapes, task := r.task, pass := r.cmd.isNone } (s.configPatches r)).startPass
    ((s.modCore core fun c => c.takeReady r).setRegion core x.number y).admitted r x.number

/-- Whether a running configuration holds a byte of a typed buffer (R191). -/
def CoreState.held (c : CoreState) (b : Buf) (at_ : Nat) : Bool :=
  c.regions.any fun r => r.2.status = .running && r.2.bufs.any fun x =>
    x.buf = b && decide (x.start ≤ at_) && decide (at_ < x.start + x.length)

/-- Whether a context has a running pass. -/
def CoreState.live (c : CoreState) (ctx : Nat) : Bool := c.regions.any fun r => r.2.ctx = ctx && r.2.status = .running

/-- Whether a doubleword of A is held: by a running configuration, or as a state slot of a context with a running pass. -/
def CoreState.heldA (c : CoreState) (d : Nat) : Bool :=
  let slots := c.streams.filterMap fun x => if c.live x.ctx then x.slot.map c.slotDword else none
  c.held .a (8 * d) || slots.any fun k => decide (k ≤ d) && decide (d < k + 64)

/-- Typed buffers cleared for a context, but for what loaded configurations hold; streams of contexts without a running pass leave
the map (R192). -/
def CoreState.clearBuffers (c : CoreState) (ctx : Option Nat) : CoreState :=
  { c with
    bufCtx := ctx
    w := c.w.filter fun x => c.held .w (8 * x.1)
    a := c.a.filter fun x => c.heldA x.1
    c := c.c.filter fun x => c.held .c (4 * x.1)
    streams := c.streams.filter fun x => c.live x.ctx }

/-- A context's configuration loaded: the buffers cleared where the core passes to it (R192). -/
def CoreState.enterCtx (c : CoreState) (ctx : Nat) : CoreState := if c.bufCtx = some ctx then c else c.clearBuffers (some ctx)

/-- A configuration placed at an origin: the idle regions it needs unloaded, its region made (R369, R370). -/
def State.admitNew (s : State) (core : Nat) (r : ReadyConfig) (g : Image) (x0 y0 : Nat) : State :=
  let y := (patchShapes (g.region x0 y0 r.ctx r.task r.image) (s.configPatches r)).startPass
  let y := { y with pass := r.cmd.isNone }
  let clear (c : CoreState) : CoreState :=
    { (c.takeReady r) with
      regions := c.regions.filter fun x => x.2.status = .running || !(x.2.clashes y || x.2.area.any y.area.contains) }
  ((s.modCore core fun c => (clear c).enterCtx r.ctx).setRegion core y.number y).admitted r y.number

/-- The bypass bound (R371). -/
def CoreState.bound (c : CoreState) : Nat := if c.bypass % 256 = 0 then 16 else c.bypass % 256

/-- A bypass of a configuration counted: at the bound it takes the reservation (R371). -/
def CoreState.bypassed (c : CoreState) (order : Option Nat) : CoreState :=
  match order with
  | none => c
  | some o =>
    let full := c.ready.any fun r => r.order = o && decide (c.bound ≤ r.bypass + 1)
    { c with ready := c.ready.map fun (r : ReadyConfig) =>
        if r.order = o then { r with bypass := r.bypass + 1, reserved := r.reserved || full }
        else if full then { r with reserved := false } else r }

/-- What a configuration comes to at an arbitration. -/
inductive Fit where
  | rejected (e : Nat × Nat)
  | fits (g : Image) (x0 y0 : Nat)
  | no

/-- Whether a configuration fits: its image read, the conflicts with running passes and awaited regions, an origin (R369). -/
def State.fit (s : State) (core : Nat) (r : ReadyConfig) : Fit :=
  let c := s.core core
  match s.readImage core r.ctx r.image with
  | .error e => .rejected e
  | .ok g =>
    let busy := (c.regions.filter fun x => x.2.status = .running).flatMap fun x => g.conflicts x.2
    match reportFault busy with
    | some f => .rejected (f.2, f.1 * 2 ^ 8)
    | none =>
      if c.awaited.any fun x => !(g.conflicts x).isEmpty then .no
      else
        match c.origin g.hdr.w g.hdr.h with
        | some p => .fits g p.1 p.2
        | none => .no

/-- The highest-ranked configuration above a rank that does not fit. -/
def State.waitingAbove (s : State) (core order : Nat) : List ReadyConfig → Option Nat
  | [] => none
  | r :: rs =>
    if r.order = order then none
    else match s.fit core r with
      | .no => some r.order
      | _ => s.waitingAbove core order rs

/-- The configurations tried in ranked order (R369, R371): the first that fits is admitted, none below the one that holds the
reservation. -/
def State.arbitrate (s : State) (core : Nat) (first : Option Nat) : List ReadyConfig → State
  | [] => s
  | r :: rs =>
    match s.fit core r with
    | .rejected e => s.rejectConfig core r e
    | .fits g x0 y0 => (s.modCore core fun c => c.bypassed first).admitNew core r g x0 y0
    | .no => if r.reserved then s else s.arbitrate core (first.orElse fun _ => some r.order) rs

/-- CONFIG_ADMIT (R369 to R371). -/
def execConfigAdmit (core : Nat) (s : State) : Out :=
  let s := s.offerQueue (s.queue (queueNo (.fabric core)))
  let c := s.core core
  let rs := ranked (c.ready.filter c.admits)
  match rs.find? (fun r => (c.matching r).isSome) with
  | some r => match c.matching r with
    | some x => .next ((s.modCore core fun k => k.bypassed (s.waitingAbove core r.order rs)).admitMatch core r x)
    | none => .next s
  | none => .next (s.arbitrate core none rs)

/-! ### Quiescence (R224, R230, R237, R238) -/

/-- Whether an AG has something on its way: a token fetched or in hand, a store, an append, a line asked for, a round about to
begin or its end about to be told (R238). One that is held at a fault, or asks for nothing on a demand link, has not. -/
def Region.agBusy (r : Region) (ag : AgState) (op : Option (AgOp × EWord)) : Bool :=
  !ag.ahead.isEmpty || ag.token.isSome || !ag.stores.isEmpty || ag.append.isSome || !ag.handles.isEmpty
    || (ag.rounds ≠ 0 && ag.round.isNone)
    || (match op, ag.round with
        | some (k, e), some sh =>
          ag.over k sh || (!k.stores && ag.fault.isNone && (!k.indexed || ag.index.isSome) && r.mayFetch ag e)
        | _, _ => false)

/-- Whether a cell holds anything that moves: its AG, a row of MROW in part, rows of MDRN or MCLR to come, a block that CTURN
emits. -/
def Region.cellBusy (r : Region) (c : Cell) : Bool :=
  r.agBusy c.ag (agOpOf c.elem) || (match c.elem, c.est with
    | some (.mrow _), .fill _ => true
    | _, .emit _ _ => true
    | _, .rows _ _ _ _ => true
    | _, _ => false)

/-- A quiet round's findings (R238): closed marks apart, no token, nothing on its way. -/
def Region.isQuiet (r : Region) : Bool :=
  r.links.all (·.queue.isEmpty) && r.cells.all fun c => !r.cellBusy c.2

/-- Whether a sequence has neither a token on a scope link nor a held store (R237). -/
def Region.absent (r : Region) (q : Nat) : Bool :=
  r.links.all (fun l => !l.scope || l.queue.all fun slot => slot.all fun t => t.iter ≠ q)
    && r.cells.all fun c => c.2.ag.stores.all fun p => !(p.inScope && p.iter = q)

/-- The squash mask after a sampling round: a bit clears after two in which its sequence is absent (R237). -/
def PermitState.sample (p : PermitState) (gone : Nat → Bool) : PermitState :=
  let count (q : Nat) : Nat := if gone q then (p.clean.lookup q).getD 0 + 1 else 0
  let masked := (List.range 8).filter fun q => p.mask.getLsbD q
  { p with
    mask := masked.foldl (fun m q => if 2 ≤ count q then m &&& ~~~((1 : BitVec 8) <<< q) else m) p.mask
    clean := (masked.filter fun q => count q < 2).map fun q => (q, count q) }

/-- The region summary of R174. -/
def Region.summary (r : Region) : Nat := b2n r.sumFault + 2 * b2n r.sumPoison + 4 * b2n r.sumParam + 8 * b2n r.sumAppend

/-- The region a DRN names (R43). -/
def drnRegion (c : Command) : Nat := c.fields.dest.toNat - 0x600

/-- DRNs of a quiescent region answered in order; the first reads and clears the summary (R174). -/
def State.answerDrns (s : State) (core region : Nat) : List Command → State
  | [] => s
  | c :: cs =>
    match s.region core region with
    | none => s
    | some r =>
      let s1 := s.setRegion core region { r with sumFault := false, sumPoison := false, sumParam := false, sumAppend := false }
      (s1.answerCmd c 0 r.summary).answerDrns core region cs

/-- SAMPLING_ROUND (R237, R238). -/
def execSamplingRound (core : Nat) (region : Nat) (s : State) : Out :=
  match s.region core region with
  | none => .next s
  | some r =>
    let q := if r.isQuiet then min (r.quiet + 1) 2 else 0
    let r1 := { r with quiet := q, permit := r.permit.map fun p => p.sample r.absent }
    let s1 := s.setRegion core region r1
    if 2 ≤ q then
      .next (s1.answerDrns core region (s.cmds.filter fun c =>
        c.core = core && c.ctx = r.ctx && c.opcode = 0x13 && c.stage = .running && drnRegion c = region))
    else .next s1

/-- Whether the pass of a region is complete (R224). -/
def Region.passDone (r : Region) : Bool :=
  r.status = .running && decide (2 ≤ r.quiet) && r.cells.all fun c => !countsRounds c.2.elem || (c.2.ag.rounds = 0 && c.2.ag.round.isNone)

/-- A pass over: the next image of its chain offered (R358). -/
def State.passOver (s : State) (tid : Nat) : State :=
  match s.task tid with
  | none => s
  | some t =>
    let t1 := { t with done := t.done + 1, offered := false }
    let s1 := s.setTask tid t1
    if t1.done < t1.chain.length then s1.offerTask tid t1 t1.priority s.tns else s1

/-- PASS_COMPLETE (R224, R370). -/
def execPassComplete (core : Nat) (region : Nat) (s : State) : Out :=
  match s.region core region with
  | none => .next s
  | some r =>
    if !r.passDone then .next s
    else
      let s1 := s.setRegion core region { r with status := .idle }
      .next (if r.pass then s1.passOver r.task else s1)

/-- Full branches of a multicast (R230). -/
def Region.fullBranches (r : Region) (root : Nat) : List Nat := (r.branches root).filter fun j => !(r.link j).room

/-- STALL_TIMER_EXPIRY (R230): the event, and every full branch marked detach cut off. -/
def execStallTimerExpiry (core : Nat) (region : Nat) (link : Nat) (s : State) : Out :=
  match s.region core region with
  | none => .next s
  | some r =>
    match r.stalls.lookup link with
    | none => .next s
    | some ns =>
      if r.stall = 0 || ns < 1000 * r.stall then .next s
      else
        let cut := (r.fullBranches link).filter fun j => (r.link j).detach
        let links := (List.range r.links.length).map fun j =>
          if cut.contains j then { r.link j with detached := true, closed := true } else r.link j
        let s1 := s.setRegion core region { r with links := links, stalls := r.stalls.filter (·.1 ≠ link) }
        let s1 := s1.voidKernels core region
        .next (s1.raiseEvent r.ctx (s1.eventOwner r.task
          { kind := 0x02, core := core, region := region, detail := cut.length, value := dw link }))

/-- AG_FAULT_RETRY (R156, R376). -/
def execAgFaultRetry (core : Nat) (region : Nat) (cell : Nat) (s : State) : Out :=
  .next (s.cellRetry ⟨core, region, cell, false⟩)

/-! ### Nodes finish (R332, R358, R364) -/

/-- Whether something that a task's strands issued still runs (R332). -/
def State.taskBusy (s : State) (tid : Nat) : Bool :=
  s.cmds.any (·.task = tid) || s.firn.reqs.any (·.task = tid)
    || s.firn.cursors.any (fun c => (c.2.play.map (·.task)) = some tid)
    || s.slice.stvs.any (·.task = tid) || s.slice.rclms.any (·.task = tid)
    || s.cores.any fun c => c.2.feeds.any (·.task = tid)

/-- Whether a started task has finished (R332, R358). -/
def State.taskFinished (s : State) (tid : Nat) (t : Task) : Bool :=
  t.status = .started && match t.kind with
    | .strand => t.rootEnded && !s.taskBusy tid && s.drained t.core t.drains
    | .fabric => decide (t.chain.length ≤ t.done)
    | _ => decide (t.count ≤ t.done)

/-- A node's successors decremented, once an edge; those that reach 0 (R364). -/
def decrement (ns : List DepEntry) (succs : List Nat) : List DepEntry :=
  ns.map fun (n : DepEntry) => { n with count := n.count - (succs.filter (· = n.node)).length }

/-- A replay at its end: the next one, or the kick's end (R361). -/
def State.replayOver (s : State) (slot : Nat) : State :=
  let ks := s.kickSlot slot
  let s1 := s.dropTasks ((s.slotTasks slot).map (·.1))
  let ks1 : KickSlot := { ks with completed := (ks.completed + 1) % 2 ^ 32, started := false, nodes := [], replaysLeft := ks.replaysLeft - 1 }
  if 1 < ks.replaysLeft then s1.setKickSlot slot ks1
  else ((s1.setKickSlot slot { ks1 with state := .idle }).raiseVector ks.vector).startPending slot

/-- A node of a replay finished (R364, R365). -/
def State.nodeOver (s : State) (tid slot : Nat) : State :=
  let ks := s.kickSlot slot
  if ks.failing.isSome then s.settleFailure slot
  else
    match ks.nodes.find? (·.task = tid) with
    | none => s
    | some d =>
      let before := ks.nodes.map fun (n : DepEntry) => if n.task = tid then { n with finished := true } else n
      let after := decrement before d.succs
      let fresh := (after.filter fun n => n.count = 0 && d.succs.contains n.node).map (·.task)
      let s1 := (s.setKickSlot slot { ks with nodes := after }).makeAllReady fresh
      if after.all (·.finished) then s1.replayOver slot else s1

/-- A task finished: a node of a replay, or a TSK instance (R175, R364). -/
def State.finishTask (s : State) (tid : Nat) (t : Task) : State :=
  let s1 := s.setTask tid { t with status := .finished }
  match t.origin with
  | .replay slot => s1.nodeOver tid slot
  | .tsk uid => (s1.dropTasks [tid]).finishCommand uid (response 0 0)

/-- NODE_FINISH (R364). -/
def execNodeFinish (task : Nat) (s : State) : Out :=
  match s.task task with
  | none => .next s
  | some t => .next (if s.taskFinished task t then s.finishTask task t else s)

end Sys2Proof.Machine
end

