-- ==== Sys2Proof/Machine/CmdUnit.lean ====
section
/-! DEFINITION. The commands of the command unit (R170 to R176): CFG, BARC, HAND, DRN, PTCH, TSK, SWS. -/

namespace Sys2Proof.Machine

/-! ### CFG (R170) -/

/-- The priority of a task (R170). -/
def State.priorityOf (s : State) (tid : Nat) : Nat := ((s.task tid).map (·.priority)).getD 0

/-- CFG begun: its image checked, the configuration offered to the core's arbiter. CONFIG_ADMIT answers it. -/
def State.startCfg (s : State) (f : Cmd) (c : Command) : State :=
  match c.stage with
  | .waiting =>
    match s.readImage c.core c.ctx f.addr with
    | .error e => s.answerCmd c e.1 e.2
    | .ok _ =>
      ((s.offerQueue (s.queue (queueNo (.fabric c.core)))).offer c.core
        { image := f.addr, ctx := c.ctx, task := c.task, level := s.priorityOf c.task, cmd := some c.uid, order := 0,
          since := s.tns }).setProg c.uid {}
  | _ => s

/-- CFG (R170). -/
def execCfg (c : Cmd) (s : State) : Out := s.runCommand (s.startCfg c)

/-! ### BARC (R171) -/

/-- Whether a BARC is malformed (R171). -/
def barcMalformed (f : Cmd) : Bool :=
  let kind := f.operand.toNat % 16
  decide (4 ≤ kind) || f.operand.toNat / 16 ≠ 0 || (if kind = 3 then f.addr.toNat % 8 ≠ 0 else f.addr ≠ 0)

def CmdStage.finished : CmdStage → Bool
  | .done _ => true
  | _ => false

/-- Whether an earlier command of the stream has not completed. -/
def State.earlierRuns (s : State) (c : Command) : Bool :=
  ((s.streamOf c.stream).takeWhile (·.uid ≠ c.uid)).any fun x => !x.stage.finished

/-- A decision: whether the commands up to the next BARC are skipped (R171). -/
def State.skipping (s : State) (c : Command) (skip : Bool) : State := s.setBarc c.stream { s.barc c.stream with skipping := skip }

/-- A BARC that proceeds or skips. -/
def State.decideBarc (s : State) (c : Command) (proceed : Bool) : State := (s.skipping c (!proceed)).answerCmd c 0 (b2n proceed)

/-- A well-formed BARC when every earlier command has completed. -/
def State.judgeBarc (s : State) (f : Cmd) (c : Command) : State :=
  let b := s.barc c.stream
  match f.operand.toNat % 16 with
  | 0 => s.decideBarc c true
  | 1 => s.decideBarc c (!b.cfgBad)
  | 2 => s.decideBarc c (!b.anyBad)
  | _ =>
    match s.readThrough c.ctx f.addr.toNat 8 with
    | .fault cause => (s.skipping c true).faultCmd c cause 0
    | .waiting s1 => s1
    | .poison => (s.skipping c true).answerCmd c 5 0
    | .bytes bs => s.decideBarc c (leNat bs ≠ 0)

/-- BARC's turn: one that ends a skip run comes behind the commands that are skipped. -/
def State.runBarc (s : State) (f : Cmd) (c : Command) : State :=
  if barcMalformed f then
    (if (s.barc c.stream).skipping && s.earlierRuns c then s else (s.skipping c false).answerOpen c 0x01)
  else if s.earlierRuns c then s
  else s.judgeBarc f c

/-- BARC (R171). -/
def execBarc (c : Cmd) (s : State) : Out := s.runCommand (s.runBarc c)

/-! ### HAND, DRN, PTCH (R172 to R174) -/

/-- The loaded region of the command's context that its destination names: the region; engine code 0x26; or neither while it is
saved for the context's return. -/
def State.namedRegion (s : State) (f : Cmd) (c : Command) (k : Nat → Region → State) : State :=
  let n := f.dest.toNat - 0x600
  match s.region c.core n with
  | some r => if r.ctx = c.ctx then k n r else if s.regionAway c.core c.ctx n then s else s.engineCmd c 0x26
  | none => if s.regionAway c.core c.ctx n then s else s.engineCmd c 0x26

/-- HAND (R172, R208). -/
def State.runHand (s : State) (f : Cmd) (c : Command) : State :=
  s.namedRegion f c fun n r =>
    match r.ranges[f.operand.toNat]? with
    | none => s.engineCmd c 0x27
    | some m =>
      let old := m.owners.getD m.owner 0
      if !(r.ag old).stores.isEmpty then s
      else
        let m1 := { m with owner := (m.owner + 1) % m.owners.length }
        (s.setRegion c.core n { r with ranges := r.ranges.set f.operand.toNat m1 }).answerCmd c 0 (m1.owners.getD m1.owner 0)

/-- HAND (R172). -/
def execHand (c : Cmd) (s : State) : Out := s.runCommand (s.runHand c)

/-- DRN's turn (R174): SAMPLING_ROUND answers it once the region is quiescent. -/
def State.runDrn (s : State) (f : Cmd) (c : Command) : State :=
  s.namedRegion f c fun _ _ => if c.stage = .running then s else s.setProg c.uid {}

/-- DRN (R174). -/
def execDrn (c : Cmd) (s : State) : Out := s.runCommand (s.runDrn c)

/-- PTCH (R147, R173): the record changed at once; a round in progress keeps the values it began with. -/
def State.runPtch (s : State) (f : Cmd) (c : Command) : State :=
  let port := f.dest.toNat
  let k := s.core c.core
  let s1 := s.modCore c.core fun x => x.setPort port { x.port port with saved := none }
  match (k.portLink c.ctx (.input port)).orElse fun _ => k.portLink c.ctx (.output port) with
  | none => if k.portAway c.ctx (.input port) || k.portAway c.ctx (.output port) then s else s1.engineCmd c 0x20
  | some (n, _) =>
    match s.region c.core n with
    | none => s1.engineCmd c 0x20
    | some r =>
      let i := f.operand.toNat % 16
      if r.shapes.length ≤ i then s1.engineCmd c 0x21
      else match r.patchShape i (f.operand.toNat / 16 % 16) f.addr.toNat with
        | none => s1.answerOpen c 0x01
        | some r1 => (s1.setRegion c.core n r1).answerOpen c 0x00

/-- PTCH (R173). -/
def execPtch (c : Cmd) (s : State) : Out := s.runCommand (s.runPtch c)

/-! ### TSK (R175, R363) -/

/-- TSK's turn: one node instance from uploaded values. NODE_FINISH answers it. -/
def State.startTsk (s : State) (f : Cmd) (c : Command) : State :=
  match c.stage with
  | .waiting =>
    match s.engineDwords c.ctx f.addr.toNat 8 with
    | .error e => s.faultCmd c e.1 0
    | .ok _ =>
      match (s.readTgo c.ctx f.addr.toNat).bind fun t => t.nodes[f.operand.toNat]? with
      | none => s.engineCmd c 0x24
      | some n =>
        let tid := s.sched.nextTask
        let s1 := s.setSched { s.sched with
          tasks := s.sched.tasks.set tid (n.task f.operand.toNat c.ctx (.tsk c.uid) []), nextTask := tid + 1 }
        (s1.setProg c.uid { task := some tid }).makeReady tid
  | _ => s

/-- TSK (R175). -/
def execTsk (c : Cmd) (s : State) : Out := s.runCommand (s.startTsk c)

/-! ### SWS (R176, R284) -/

/-- The bytes of a state slot. -/
def CoreState.slotBytes (c : CoreState) (slot : Nat) : List Byte := leBytes 512 (c.slotBits slot)

/-- SWS that swaps out (R176). -/
def State.runSwapOut (s : State) (f : Cmd) (c : Command) : State :=
  let k := s.core c.core
  if f.addr.toNat % 128 ≠ 0 then s.faultCmd c 0x02 0
  else
    match k.stream c.ctx f.operand.toNat with
    | none => s.answerCmd c 0 1
    | some x =>
      match x.slot with
      | none => s.answerCmd c 0 1
      | some n =>
        if x.isOpen then s
        else
          match s.writeThrough c.ctx f.addr.toNat (k.slotBytes n) with
          | .error cause => s.faultCmd c cause 0
          | .ok (false, s1) => s1
          | .ok (true, s1) => (s1.modCore c.core fun y => y.swapOut x f.addr).answerCmd c 0 0

/-- SWS, swap-out (R176). -/
def execSwsSwapOut (c : Cmd) (s : State) : Out := s.runCommand (s.runSwapOut c)

/-- The byte offset of the first poisoned piece of a range (R162). -/
def State.poisonAt (s : State) (ctx va n : Nat) : Nat :=
  match s.engineRead ctx va n with
  | .error (_, v) => v - va
  | .ok _ => 0

/-- SWS that swaps in (R176). -/
def State.runSwapIn (s : State) (f : Cmd) (c : Command) : State :=
  let k := s.core c.core
  let id := f.operand.toNat
  if f.addr.toNat % 128 ≠ 0 then s.faultCmd c 0x02 0
  else if ((k.stream c.ctx id).bind (·.slot)).isSome then s.answerCmd c 0 1
  else if (k.takeSlot c.ctx id).isNone then s.engineCmd c 0x25
  else
    match s.readThrough c.ctx f.addr.toNat 512 with
    | .fault cause => s.faultCmd c cause 0
    | .waiting s1 => s1
    | .poison => s.answerCmd c 5 (s.poisonAt c.ctx f.addr.toNat 512 * 2 ^ 8)
    | .bytes bs => (s.modCore c.core fun y => (y.swapIn c.ctx id bs).getD y).answerCmd c 0 0

/-- SWS, swap-in (R176). -/
def execSwsSwapIn (c : Cmd) (s : State) : Out := s.runCommand (s.runSwapIn c)

end Sys2Proof.Machine
end

