-- ==== Sys2Proof/Machine/Episode.lean ====
section
/-! DEFINITION. EPI and GRAM instructions as strands issue them (chapters 8 and 15): EREG in place, the long-latency forms, the
posted forms. -/

namespace Sys2Proof.Machine

/-- The refusal word of a form dropped in a scout (R126, R130). -/
def droppedWord : Dword := refusalWord 0x8F 0

/-- A long-latency request: its release, its suspension, its acquire when it returns (R122, R124). -/
def State.longReq (s : State) (d : BitVec 5) (op : EpOp) : State :=
  let st := s.me
  let ids := s.drainPoint st.core 2
  s.suspend st d .completion (.acquire 2) fun s1 t =>
    (s1.startDrain st.core ids).pushReq
      { id := 0, ctx := st.ctx, task := st.task, core := st.core, asker := .long st.core st.sid t, op := op, after := ids }

/-- A posted request: its tag in g(d), its release (R123, R124). -/
def State.postedReq (s : State) (d : BitVec 5) (op : EpOp) : State :=
  let st := s.me
  let (tag, st1) := st.issueTag false
  let ids := s.drainPoint st.core 2
  ((s.complete (st1.setG d (tag.zeroExtend 64))).startDrain st.core ids).pushReq
    { id := 0, ctx := st.ctx, task := st.task, core := st.core, asker := .posted st.core st.sid tag, op := op, after := ids }

/-- A form that a scout drops (R130, R310). -/
def State.unlessScout (s : State) (d : BitVec 5) (f : State) : Out :=
  if s.me.scout then .next (s.result d droppedWord) else .next f

/-- The doublewords of a 64-byte descriptor in the core, where every one of its loads hits (R131, R179). -/
def CoreState.descriptor (c : CoreState) (pa : Nat) : Option (List Dword) :=
  (List.range 8).mapM fun i =>
    match c.loadPath (pa / 128) (pa % 128 + 8 * i) 8 with
    | .value v => some (dw v)
    | .miss _ => none

/-- EREG whose descriptor is translated (R131): claimed in place, or at the return of a line request. -/
def State.eregAt (s : State) (d : BitVec 5) (va : Dword) (pa : Nat) : State :=
  let st := s.me
  if isHost pa then
    s.suspend st d .completion .nothing fun s1 t =>
      let r := s1.register st.ctx ((List.range 8).map fun i => s1.mem.dword (pa + 8 * i))
      r.2.sendCompletion { core := st.core, sid := st.sid, space := 2, tag := t, value := r.1 }
  else
    match (s.core st.core).descriptor pa with
    | some ds =>
      let r := s.register st.ctx ds
      r.2.result d r.1
    | none =>
      let after := ((s.core st.core).entryOf (pa / 128)).map (·.id)
      s.suspend st d .completion .nothing fun s1 t =>
        (s1.startDrain st.core after.toList).modCore st.core fun c =>
          c.request (pa / 128) st.ctx (lineVa va) (.descriptor st.sid t va pa) after

/-- EREG (R131). -/
def execEreg (d a : BitVec 5) (s : State) : Out :=
  let va := s.me.g a
  s.unlessScout d (if va.toNat % 64 ≠ 0 then s.fault 0x02 va else s.access va .read (s.eregAt d va))

/-- ENEW (R132). -/
def execEnew (d a : BitVec 5) (s : State) : Out := s.unlessScout d (s.longReq d (.new (s.me.g a)))

/-- EAPP (R133): the payload's alignment is checked at the core. -/
def execEapp (d a b : BitVec 5) (s : State) : Out :=
  let p := (s.me.g b).toNat
  let va := dw (field p 55 0)
  s.unlessScout d
    (if va.toNat % 8 ≠ 0 then s.fault 0x02 va else s.longReq d (.append (s.me.g a) va (field p 63 56)))

/-- ECUR (R134). -/
def execEcur (d a b : BitVec 5) (s : State) : Out := s.unlessScout d (s.longReq d (.cursor (s.me.g a) (s.me.g b)))

/-- ESEEK (R135). -/
def execEseek (d a b : BitVec 5) (s : State) : Out := s.unlessScout d (s.postedReq d (.seek (s.me.g a) (s.me.g b)))

/-- ECFG (R136): g(d) is read before the tag is written. -/
def execEcfg (d a b : BitVec 5) (s : State) : Out :=
  s.unlessScout d (s.postedReq d (.config (s.me.g a) (s.me.g b) (s.me.g d)))

/-- EPLAY (R137). -/
def execEplay (d a b : BitVec 5) (s : State) : Out := s.unlessScout d (s.postedReq d (.play (s.me.g a) (s.me.g b)))

/-- EBRANCH (R138). -/
def execEbranch (d a : BitVec 5) (s : State) : Out := s.unlessScout d (s.postedReq d (.branch (s.me.g a)))

/-- ECOPY (R139). -/
def execEcopy (d a : BitVec 5) (s : State) : Out := s.unlessScout d (s.postedReq d (.copy (s.me.g a)))

/-- ESPLICE (R140). -/
def execEsplice (d a b : BitVec 5) (s : State) : Out := s.unlessScout d (s.postedReq d (.splice (s.me.g a) (s.me.g b)))

/-- ECALVE (R140). -/
def execEcalve (d a b : BitVec 5) (s : State) : Out := s.unlessScout d (s.postedReq d (.calve (s.me.g a) (s.me.g b)))

/-- EPOS (R141). -/
def execEpos (d a b : BitVec 5) (s : State) : Out := s.unlessScout d (s.longReq d (.pos (s.me.g a) (s.me.g b)))

/-- EFREE (R142). -/
def execEfree (d a b : BitVec 5) (s : State) : Out := s.unlessScout d (s.postedReq d (.release (s.me.g a) (s.me.g b)))

/-- GINIT (R311). -/
def execGinit (d a : BitVec 5) (s : State) : Out := s.unlessScout d (s.postedReq d (.gram 1 (s.me.g a) 0))

/-- GSTEP (R307). -/
def execGstep (d a b : BitVec 5) (s : State) : Out := s.unlessScout d (s.longReq d (.gram 2 (s.me.g a) (s.me.g b)))

/-- GMASK (R311). -/
def execGmask (d a b : BitVec 5) (s : State) : Out := s.unlessScout d (s.postedReq d (.gram 3 (s.me.g a) (s.me.g b)))

/-- GFORK (R311). -/
def execGfork (d a : BitVec 5) (s : State) : Out := s.unlessScout d (s.longReq d (.gram 4 (s.me.g a) 0))

/-- GSNAP (R309). -/
def execGsnap (d a : BitVec 5) (s : State) : Out := s.unlessScout d (s.longReq d (.gram 5 (s.me.g a) 0))

/-- GROLL (R311). -/
def execGroll (d a b : BitVec 5) (s : State) : Out := s.unlessScout d (s.postedReq d (.gram 6 (s.me.g a) (s.me.g b)))

/-- GFREE (R311). -/
def execGfree (d a b : BitVec 5) (s : State) : Out := s.unlessScout d (s.postedReq d (.gram 7 (s.me.g a) (s.me.g b)))

/-! ### The engines' own steps -/

/-- APPEND_AT_ENGINE (R107). -/
def execAppendAtEngine (id : Nat) (s : State) : Out :=
  .next (s.atEngine id fun op => match op with
    | .append _ _ _ => true
    | _ => false)

/-- CALVE_AT_ENGINE (R115). -/
def execCalveAtEngine (id : Nat) (s : State) : Out :=
  .next (s.atEngine id fun op => match op with
    | .calve _ _ => true
    | _ => false)

/-- SPLICE_AT_ENGINE (R117). -/
def execSpliceAtEngine (id : Nat) (s : State) : Out :=
  .next (s.atEngine id fun op => match op with
    | .splice _ _ => true
    | _ => false)

/-- BRANCH_AT_ENGINE (R114). -/
def execBranchAtEngine (id : Nat) (s : State) : Out :=
  .next (s.atEngine id fun op => match op with
    | .branch _ => true
    | _ => false)

/-- PLAY_STEP (R111). -/
def execPlayStep (cursor : Nat) (s : State) : Out := .next (s.playStep cursor)

end Sys2Proof.Machine
end

