-- ==== Sys2Proof/Machine/Sampler.lean ====
section
/-! DEFINITION. The sampler router and the sampler slots (R290 to R296): rows taken in, the stages, the draw, user logit kernels. -/

namespace Sys2Proof.Machine

/-! ### Stages on logits (R293, R294) -/

/-- A lane's logit: none for a NaN. -/
def logit (bits : Nat) : Option (BitVec 32) := if (unpack f32 bits).isNan then none else some (BitVec.ofNat 32 bits)

/-- The value of a logit. -/
def logitVal (b : BitVec 32) : FVal := unpack f32 b.toNat

/-- A value rounded to F32 (R293). -/
def rounded32 (v : FVal) : FVal := unpack f32 (roundF32 v)

/-- Logits: none for an out token. -/
abbrev Logits := List (Option (BitVec 32))

/-- The tokens that are in, ascending, with their values. -/
def inTokens : Nat → Logits → List (Nat × FVal)
  | _, [] => []
  | i, none :: t => inTokens (i + 1) t
  | i, some b :: t => (i, logitVal b) :: inTokens (i + 1) t

/-- Logits with only some tokens in. -/
def keepTokens (p : Nat → Bool) : Nat → Logits → Logits
  | _, [] => []
  | i, x :: t => (if p i then x else none) :: keepTokens p (i + 1) t

/-- Stage 2: temperature. -/
def temperature (inv : FVal) (z : Logits) : Logits :=
  z.map fun (x : Option (BitVec 32)) => x.bind fun b => logit (roundF32 ((logitVal b).mul inv))

/-- The penalty values of a policy record (R292). -/
structure Penalty where
  repetition : FVal
  frequency : FVal
  presence : FVal

/-- One logit penalised for a count (R293). -/
def Penalty.on (p : Penalty) (count : Nat) (b : BitVec 32) : Option (BitVec 32) :=
  let v := logitVal b
  let r := rounded32 (if (FVal.fin false 0 0).lt v then v.div p.repetition else v.mul p.repetition)
  let f := (FVal.mul (.fin false count 0) p.frequency).negate
  logit (roundF32 (fsum .rne (if 0 < count then [r, f, p.presence.negate] else [r, f])))

/-- Stage 3: penalties, in list order. -/
def penalise (p : Penalty) : List (Nat × Nat) → Logits → Logits
  | [], z => z
  | (t, c) :: rest, z => penalise p rest (z.set t ((z.getD t none).bind (p.on c)))

/-- An entry put into a ranking: values descending, among equal values the lower index first. -/
def rankIn (x : Nat × FVal) : List (Nat × FVal) → List (Nat × FVal)
  | [] => [x]
  | y :: ys => if x.2.lt y.2 then y :: rankIn x ys else x :: y :: ys

/-- Tokens of ascending indices, ranked. -/
def rankTokens (l : List (Nat × FVal)) : List (Nat × FVal) := l.foldr rankIn []

/-- Stage 4: top-k. -/
def topK (k : Nat) (z : Logits) : Logits :=
  if k = 0 then z
  else
    let keep := ((rankTokens (inTokens 0 z)).take k).map (·.1)
    keepTokens keep.contains 0 z

/-- The largest of values. -/
def maxVal (l : List (Nat × FVal)) : FVal := l.foldl (fun m x => if m.lt x.2 then x.2 else m) (.inf true)

/-- log2 e in F32 (R294). -/
def lambda32 : FVal := unpack f32 0x3FB8AA3B

/-- p of the tokens that are in (R294). -/
def probs (z : Logits) : List (Nat × FVal) :=
  let l := inTokens 0 z
  let zmax := maxVal l
  l.map fun x =>
    let e := rounded32 ((rounded32 (fsum .rne [x.2, zmax.negate])).mul lambda32)
    (x.1, unpack f32 (fexp2 f32 .rne false e).bits)

/-- p over the vocabulary: +0 for an out token. -/
def probRow (ps : List (Nat × FVal)) (v : Nat) : List FVal :=
  (List.range v).map fun t => (ps.lookup t).getD (.fin false 0 0)

/-- Z (R67, R294). -/
def probSum (ps : List (Nat × FVal)) (v : Nat) : FVal := unpack f32 (treeSum .rne (probRow ps v))

/-- The shortest prefix whose running sum reaches a threshold. -/
def prefixTo (tau : FVal) : FVal → List (Nat × FVal) → List Nat
  | _, [] => []
  | s, x :: t =>
    let s1 := rounded32 (fsum .rne [s, x.2])
    if tau.lt s1 || tau.eq s1 then [x.1] else x.1 :: prefixTo tau s1 t

/-- The lowest token whose logit is +∞ (R294). -/
def infToken (z : Logits) : Option Nat := ((inTokens 0 z).find? fun x => x.2 == .inf false).map (·.1)

/-- Stage 5: top-p. -/
def topP (p : FVal) (z : Logits) : Logits :=
  let ps := probs z
  let keep := prefixTo (rounded32 (p.mul (probSum ps z.length))) (.fin false 0 0) (rankTokens ps)
  keepTokens keep.contains 0 z

/-- Stage 6: min-p. -/
def minP (m : FVal) (z : Logits) : Logits :=
  let ps := probs z
  let tau := rounded32 (m.mul (maxVal ps))
  let out := (ps.filter fun x => x.2.lt tau).map (·.1)
  keepTokens (fun t => !out.contains t) 0 z

/-- The draw's hash (R294). -/
def drawHash (seed seq p i : Dword) : Dword :=
  let x := seed ^^^ seq * 0x9E3779B97F4A7C15 ^^^ p * 0xC2B2AE3D27D4EB4F ^^^ i * 0x165667B19E3779F9
  let x := (x ^^^ (x >>> 30)) * 0xBF58476D1CE4E5B9
  let x := (x ^^^ (x >>> 27)) * 0x94D049BB133111EB
  x ^^^ (x >>> 31)

/-- The token at which the running sum first exceeds tau, or the highest one (R294). -/
def drawFrom (tau : FVal) : FVal → List (Nat × FVal) → Option Nat
  | _, [] => none
  | s, x :: t =>
    let s1 := rounded32 (fsum .rne [s, x.2])
    if tau.lt s1 then some x.1 else if t.isEmpty then some x.1 else drawFrom tau s1 t

/-- The lowest index of the largest value. -/
def argmax (l : List (Nat × FVal)) : Option Nat := (rankTokens l).head?.map (·.1)

/-- Stage 8: the draw; none where no token is in. -/
def drawToken (greedy : Bool) (hash : Dword) (z : Logits) : Option Nat :=
  match infToken z with
  | some t => some t
  | none =>
    if greedy then argmax (inTokens 0 z)
    else
      let ps := probs z
      let u : FVal := .fin false (field hash.toNat 63 40) (-24)
      drawFrom (rounded32 (u.mul (probSum ps z.length))) (.fin false 0 0) ps

/-! ### Policy records (R292) -/

def Iter.vocab (it : Iter) (slot : Nat) : Nat := field (it.policy slot 0) 18 0
def Iter.greedy (it : Iter) (slot : Nat) : Bool := bitN (it.policy slot 0) 20 = 1
def Iter.masks (it : Iter) (slot : Nat) : Bool := bitN (it.policy slot 0) 19 = 1
def Iter.kernels (it : Iter) (slot : Nat) : Bool := bitN (it.policy slot 4) 8 = 1

/-- An F32 field of a policy record. -/
def Iter.policyVal (it : Iter) (slot i : Nat) (high : Bool) : FVal :=
  unpack f32 (if high then field (it.policy slot i) 63 32 else field (it.policy slot i) 31 0)

/-- The kernel budget in control cycles. -/
def Iter.budget (it : Iter) (slot : Nat) : Nat :=
  let b := field (it.policy slot 4) 55 32
  if b = 0 then 2 ^ 24 else b

/-- Whether a record keeps its ranges. -/
def Iter.policyOk (it : Iter) (slot : Nat) : Bool :=
  let w (i : Nat) : Nat := it.policy slot i
  field (w 0) 63 43 = 0 && decide (field (w 0) 42 32 ≤ 1024) && field (w 0) 31 21 = 0 && within 1 262144 (field (w 0) 18 0)
    && field (w 4) 63 56 = 0 && field (w 4) 31 9 = 0 && w 5 = 0 && w 6 = 0 && w 7 = 0

/-! ### Table entries (R291) -/

/-- Doubleword i of an entry's copy. -/
def SeqState.word (x : SeqState) (i : Nat) : Nat := ((x.words.getD []).getD i 0).toNat

/-- A set and F clear. -/
def SeqState.active (x : SeqState) : Bool := x.words.isSome && bitN (x.word 1) 19 = 1 && bitN (x.word 1) 20 = 0

/-- Whether an entry can be read now (R305). -/
def State.entryReadable (s : State) (it : Iter) (j : Nat) : Bool := (s.engineDwords it.ctx (it.table.toNat + 64 * j) 8).isOk

/-! ### Rows taken in (R290, R292) -/

/-- A lane of a header token. -/
def Token.field? (t : Token) (i : Nat) : Option Nat := if t.ok i then some (t.val i) else none

/-- Whether a row header keeps its format and its reserved bits (R290); the sequence's count is given. -/
def rowHeaderOk (h : Token) (c : Option Nat) : Bool :=
  match h.field? 0, h.field? 1, h.field? 2, h.field? 3 with
  | some l0, some l1, some l2, some l3 =>
    h.kind == .control && h.fmt == 7 && h.count == 4 && decide (l0 < 1024) && field l1 63 8 = 0
      && some (field l1 7 4) == c && decide (field l1 3 0 < field l1 7 4) && decide (field l1 3 0 < 8)
      && field l2 62 18 = 0 && l3 == 0
  | _, _, _, _ => false

/-- Logits of data tokens; invalid lanes are out (R293). -/
def rowLogits (ts : List Token) : Logits :=
  ts.flatMap fun t => t.lanes.map fun (l : Lane) => if l.ok then logit (l.val.toNat % 2 ^ 32) else none

/-- Whether a row's tokens after its header are F32 data tokens. -/
def rowDataOk (ts : List Token) : Bool := ts.all fun t => t.kind == .data && t.fmt == 12

/-- The draft of a header, where it has one (R290). -/
def draftOf (h : Token) : Option Nat :=
  match h.field? 2 with
  | some l2 => if bitN l2 63 = 1 then some (field l2 17 0) else none
  | none => none

/-- The slot that a policy tag is routed to; none where it is disabled (R289, R292). -/
def Iter.route (it : Iter) (tag : Nat) : Option Nat :=
  if bitN it.map.toNat (4 * tag + 3) = 1 then some (field it.map.toNat (4 * tag + 2) (4 * tag)) else none

/-- A whole row at the router: dropped, voided or routed (R290, R292, R305). -/
def State.routeRow (s : State) (core : Nat) (it : Iter) (row : List Token) : State :=
  match row with
  | [] => s
  | h :: data =>
    let j := (h.field? 0).getD it.n
    let x := it.seq j
    if !(decide (j < it.n) && (x.words.isNone || x.active)) then
      (s.setIter core { it with droppedRow := true }).modCore core fun c => { c with droppedRows := c.droppedRows + 1 }
    else
      let l1 := (h.field? 1).getD 0
      let index := field l1 3 0
      let count := field l1 7 4
      let rows := if x.rows.isNone && within 1 8 count then some count else x.rows
      let put (o : Option RowOutcome) : Iter :=
        it.setSeq j { x with rows := rows, got := x.got ++ [⟨index, draftOf h, o⟩] }
      let void (status : Nat) : State := s.setIter core (put (some (.void status)))
      if !rowHeaderOk h rows || x.got.any (·.index = index) then void 8
      else if x.words.isNone || !s.entryReadable it j then void 7
      else
        match it.route h.policy with
        | none => void 4
        | some slot =>
          if !it.policyOk slot then void 6
          else
            let z := rowLogits data
            if !rowDataOk data || decide (z.length < it.vocab slot) then void 8
            else
              let it1 := put none
              let sl := it1.slot slot
              let row : GenRow := { entry := j, index := index, count := count, draft := draftOf h, pol := h.policy, z := z.take (it.vocab slot) }
              s.setIter core (it1.setSlot slot { sl with queue := sl.queue ++ [row] })

/-- The head token of an output port for a unit beside the fabric, with its region and link: no PRD stands in its way (R239, R242). -/
def State.portHead (s : State) (core ctx port : Nat) : Option (Nat × Nat × Token) :=
  if ((s.core core).port port).readPos ≠ 0 || !(s.portWaiters core port).isEmpty then none
  else
    match (s.core core).portLink ctx (.output port) with
    | none => none
    | some (region, link) =>
      match s.region core region with
      | none => none
      | some r => (r.link link).head.map fun t => (region, link, t)

/-- The head token of an output port taken. -/
def State.portTake (s : State) (core region link : Nat) : State :=
  s.modRegion core region fun r => (r.setLink link (r.link link).pop).squash

/-- LOGIT_ROW (R290): the router takes a token of the row port; with the last mark the row is routed. -/
def execLogitRow (core : Nat) (s : State) : Out :=
  match s.iter core with
  | none => .next s
  | some it =>
    if it.phase ≠ .rows || it.ended || (s.stopped core it.ctx && !it.entered) then .next s
    else
      match s.portHead core it.ctx it.rowPort with
      | none => .next s
      | some (region, link, t) =>
        let s1 := s.portTake core region link
        let row := it.part ++ [t]
        if t.last then .next (s1.routeRow core { it with entered := true, part := [] } row)
        else .next (s1.setIter core { it with entered := true, part := row })

/-! ### A slot's row (R293 to R296) -/

/-- What the mask stage comes to (R296). -/
inductive Masked where
  /-- a row of lower index has not arrived -/
  | wait
  | finished (o : RowOutcome)
  | mask (m : Nat)

/-- The context stepped tentatively by drafts (R296). -/
def State.stepDrafts (s : State) (g : Gram) : List (Option Nat) → Except RowOutcome Gram
  | [] => .ok g
  | none :: _ => .error .discarded
  | some t :: rest =>
    match s.gramStep g t with
    | .ok g1 => s.stepDrafts g1 rest
    | .error (.reject _) => .error .discarded
    | .error .malformed => .error (.void 5)
    | .error (.memory _ _) => .error (.void 7)

/-- The speculative mask of a row (R296). -/
def State.specMask (s : State) (it : Iter) (row : GenRow) : Masked :=
  let x := it.seq row.entry
  let before := (List.range row.index).map fun i => x.got.find? fun (r : RowEntry) => r.index = i
  if before.any Option.isNone then .wait
  else
    match s.myGram it.ctx (dw (field (x.word 1) 12 0)) with
    | .error _ => .finished (.void 5)
    | .ok (_, g) =>
      if g.broken then .finished (.void 5)
      else
        match s.stepDrafts g (before.map fun (r : Option RowEntry) => r.bind RowEntry.draft) with
        | .error o => .finished o
        | .ok g1 =>
          match s.gramMask g1 with
          | .ok (m, _) => .mask m
          | .error (.memory _ _) => .finished (.void 7)
          | .error _ => .finished (.void 5)

/-- The penalty list of an entry; none where it cannot be read (R291). -/
def State.penalties (s : State) (it : Iter) (j : Nat) : Option (List (Nat × Nat)) :=
  let x := it.seq j
  let n := field (x.word 7) 10 0
  if n = 0 then some []
  else
    match s.engineDwords it.ctx (field (x.word 6) 55 0) n with
    | .error _ => none
    | .ok ds => some (ds.map fun (d : Dword) => (field d.toNat 17 0, field d.toNat 63 32))

/-- A token from stages 4 to 6 where one of them meets +∞, else the logits after them (R293, R294). -/
def Iter.narrowed (it : Iter) (slot : Nat) (z : Logits) : Nat ⊕ Logits :=
  if it.greedy slot then .inr z
  else
    let z4 := topK (field (it.policy slot 0) 42 32) z
    let p := it.policyVal slot 1 true
    let m := it.policyVal slot 2 false
    let usesP := p.lt (unpack f32 one32)
    let usesM := !(m.isZero || m.isNan)
    match (if usesP || usesM then infToken z4 else none) with
    | some t => .inl t
    | none =>
      let z5 := if usesP && !(inTokens 0 z4).isEmpty then topP p z4 else z4
      .inr (if usesM && !(inTokens 0 z5).isEmpty then minP m z5 else z5)

/-- The draw of a row (R294): status 3 where no token is in. -/
def Iter.drawRow (it : Iter) (slot : Nat) (row : GenRow) (z : Logits) : RowOutcome :=
  let x := it.seq row.entry
  let h := drawHash (dw (x.word 5)) (dw (field (x.word 0) 31 0)) (dw (field (x.word 0) 63 32)) (dw row.index)
  match drawToken (it.greedy slot) h z with
  | some t => .token t
  | none => .void 3

/-- The row header that goes to a kernel before its logits (R290, R295). -/
def GenRow.header (r : GenRow) : Token :=
  let l2 := match r.draft with
    | some t => 2 ^ 63 + t
    | none => 0
  { kind := .control, policy := r.pol, fmt := 7
    lanes := [⟨dw r.entry, true⟩, ⟨dw (r.count * 16 + r.index), true⟩, ⟨dw l2, true⟩, ⟨0, true⟩] }

/-- Data tokens of logits (R295). -/
def logitTokens (pol : Nat) : List Logits → List Token
  | [] => []
  | p :: ps =>
    { policy := pol, fmt := 12, last := ps.isEmpty
      lanes := p.map fun (x : Option (BitVec 32)) => match x with
        | some b => ⟨b.zeroExtend 64, true⟩
        | none => Lane.bad } :: logitTokens pol ps

/-- A row sent to its slot's kernel (R295). -/
def State.sendKernel (s : State) (core slot : Nat) (it : Iter) (row : GenRow) (z : Logits) : State :=
  let c := s.core core
  if c.binds it.ctx (.input (it.sendPort slot)) && c.binds it.ctx (.output (it.returnPort slot)) then
    let ts := row.header :: logitTokens row.pol (chunksOf (laneCount 12) (z.length + 1) z)
    let it1 := it.setSlot slot { it.slot slot with kernel := some { row := { row with z := z } } }
    (s.setIter core it1).modCore core fun (c : CoreState) =>
      { c with feeds := c.feeds ++ [⟨c.nextFeed, it.sendPort slot, it.ctx, it.task, .kernel slot, ts⟩], nextFeed := c.nextFeed + 1 }
  else s.setIter core (it.outcome row (.void 2))

/-- Stages 2 to 8 of a row whose mask has been applied. -/
def State.sampleFrom (s : State) (core slot : Nat) (it : Iter) (row : GenRow) (z : Logits) : State :=
  let finished (o : RowOutcome) : State := s.setIter core (it.outcome row o)
  match s.penalties it row.entry with
  | none => finished (.void 7)
  | some pens =>
    let pen : Penalty :=
      { repetition := it.policyVal slot 3 true, frequency := it.policyVal slot 3 false, presence := it.policyVal slot 2 true }
    match it.narrowed slot (penalise pen pens (temperature (it.policyVal slot 1 false) z)) with
    | .inl t => finished (.token t)
    | .inr z6 => if it.kernels slot then s.sendKernel core slot it row z6 else finished (it.drawRow slot row z6)

/-- SAMPLE_ROW (R293): the oldest row of a slot. -/
def execSampleRow (core : Nat) (slot : Nat) (s : State) : Out :=
  match s.iter core with
  | none => .next s
  | some it =>
    let sl := it.slot slot
    match sl.queue with
    | [] => .next s
    | row :: rest =>
      if it.phase ≠ .rows || sl.kernel.isSome then .next s
      else
        let it1 := it.setSlot slot { sl with queue := rest }
        if it.masks slot && bitN ((it.seq row.entry).word 1) 16 = 1 then
          match s.specMask it row with
          | .wait => .next s
          | .finished o => .next (s.setIter core (it1.outcome row o))
          | .mask m => .next (s.sampleFrom core slot it1 row (keepTokens m.testBit 0 row.z))
        else .next (s.sampleFrom core slot it1 row row.z)

/-! ### Kernels (R295) -/

/-- Whether a slot's kernel is out of its budget. -/
def KernelRun.late (k : KernelRun) (cyc : Nat) : Bool :=
  match k.ends with
  | some e => decide (e < cyc)
  | none => false

/-- Whether a row that returns is well formed: its header's fields and its lanes (R295). -/
def kernelRowOk (row : GenRow) (back : List Token) : Bool :=
  match back with
  | [] => false
  | h :: data =>
    rowHeaderOk h (some row.count) && h.field? 0 == some row.entry && (h.field? 1).map (field · 3 0) == some row.index
      && rowDataOk data && decide (row.z.length ≤ (rowLogits data).length)

/-- A kernel's row that has returned whole. -/
def State.kernelBack (s : State) (core slot : Nat) (it : Iter) (k : KernelRun) (back : List Token) : State :=
  let it1 := it.setSlot slot { it.slot slot with kernel := none }
  if kernelRowOk k.row back then
    s.setIter core (it1.outcome k.row (it.drawRow slot k.row ((rowLogits back.tail).take k.row.z.length)))
  else s.setIter core (it1.outcome k.row (.void 6))

/-- KERNEL_ROW_RETURN (R295): a slot takes a token of its return port. -/
def execKernelRowReturn (core : Nat) (slot : Nat) (s : State) : Out :=
  match s.iter core with
  | none => .next s
  | some it =>
    let sl := it.slot slot
    match s.portHead core it.ctx (it.returnPort slot) with
    | none => .next s
    | some (region, link, t) =>
      let s1 := s.portTake core region link
      if sl.dropping then .next (s1.setIter core (it.setSlot slot { sl with dropping := !t.last }))
      else
        match sl.kernel with
        | none => .next s
        | some k =>
          if k.late (s.core core).cyc then .next s
          else if t.last then .next (s1.kernelBack core slot it k (k.back ++ [t]))
          else .next (s1.setIter core (it.setSlot slot { sl with kernel := some { k with back := k.back ++ [t] } }))

/-- KERNEL_BUDGET_EXPIRY (R295). -/
def execKernelBudgetExpiry (core : Nat) (slot : Nat) (s : State) : Out :=
  match s.iter core with
  | none => .next s
  | some it =>
    match (it.slot slot).kernel with
    | none => .next s
    | some k => if k.late (s.core core).cyc then .next (s.voidKernel core slot 1) else .next s

end Sys2Proof.Machine
end

