-- ==== Sys2Proof/Machine/Commit.lean ====
section
/-! DEFINITION. An iteration's course (R289, R301, R305): ITER, the end of its rows, acceptance, the commit record, and the
commit unit's effects (R297 to R301, R421). -/

namespace Sys2Proof.Machine

/-! ### The next iteration (R289, R301) -/

/-- The start token (R289). -/
def Iter.startToken (it : Iter) : Token := { kind := .control, fmt := 7, last := true, lanes := [⟨it.iteration, true⟩, ⟨it.desc, true⟩] }

/-- An iteration begun, once what its issue released is drained: the table is read, the start token is on its way (R289, R305). -/
def State.beginIter (s : State) (core : Nat) (it : Iter) : State :=
  if it.phase ≠ .waiting || !s.drained core it.after then s
  else
    let entry (j : Nat) : SeqState :=
      { words := (s.engineDwords it.ctx (it.table.toNat + 64 * j) 8).toOption }
    (s.setIter core { it with phase := .rows, seqs := (List.range it.n).map entry }).modCore core fun (c : CoreState) =>
      { c with feeds := c.feeds ++ [⟨c.nextFeed, it.startPort, it.ctx, it.task, .start, [it.startToken]⟩], nextFeed := c.nextFeed + 1 }

/-- The first iteration whose context is not stopped, put first: one that has yielded lets those of other contexts go on. -/
def CoreState.rankIters (c : CoreState) : CoreState :=
  match c.iters.find? fun it => !c.stopped it.ctx with
  | none => c
  | some it => { c with iters := it :: c.iters.filter fun x => x.sid ≠ it.sid }

/-- Whether the running iteration keeps the boundary although its context is pre-empted (R301). -/
def Iter.keeps (it : Iter) : Bool := it.entered && it.phase = .rows

/-- The iteration that runs now, begun where it may (R289, R301). -/
def State.nextIter (s : State) (core : Nat) : State :=
  let keep := match s.iter core with
    | some it => it.keeps
    | none => false
  let s1 := if keep then s else s.modCore core CoreState.rankIters
  match s1.iter core with
  | none => s1
  | some it => if s1.stopped core it.ctx then s1 else s1.beginIter core it

/-! ### ITER (R289, R305) -/

/-- Bytes at a physical address as the core's earlier stores leave them (R304). -/
def CoreState.view (c : CoreState) (m : Memory) (pa : Nat) : Byte :=
  match c.cb.find? fun e => e.line = pa / 128 && e.mask.getLsbD (pa % 128) with
  | some e => BitVec.ofNat 8 (lineGet e.data (pa % 128) 1)
  | none => m.read pa

/-- Doublewords that the boundary reads for an issuing strand: its earlier stores among them. -/
def State.viewDwords (s : State) (core ctx va n : Nat) : Except (Nat × Nat) (List Dword) :=
  match s.engineRange ctx va (8 * n) .read with
  | .error e => .error e
  | .ok ps =>
    match ps.find? (fun p => s.poisoned p.2.1 p.2.2) with
    | some p => .error (0x07, p.1)
    | none =>
      let bs := (ps.map fun p => (List.range p.2.2).map fun i => (s.core core).view s.mem (p.2.1 + i)).flatten
      .ok ((List.range n).map fun i => dw (leNat ((bs.drop (8 * i)).take 8)))

/-- Whether a descriptor keeps its ranges, and its ports are bound for the context (R289, R305). -/
def State.descOk (s : State) (core ctx : Nat) (d : List Dword) : Bool :=
  let w := (d.getD 0 0).toNat
  let c := s.core core
  field w 63 48 = 0 && field w 31 8 = 0 && within 1 1024 (field w 47 32) && (d.getD 6 0) = 0 && (d.getD 7 0) = 0
    && c.binds ctx (.output (field w 7 4)) && c.binds ctx (.input (field w 3 0))

/-- An area's alignment and translation: the code and VA of its fault (R305). -/
def State.areaFault (s : State) (ctx : Nat) (va : Dword) (n : Nat) (acc : Access) : Option (Nat × Nat) :=
  if va.toNat % 64 ≠ 0 then some (0x02, va.toNat)
  else
    match s.engineRange ctx va.toNat n acc with
    | .error e => some e
    | .ok _ => none

/-- The first fault among areas checked in order. -/
def State.areasFault (s : State) (ctx : Nat) : List (Dword × Nat × Access) → Option (Nat × Nat)
  | [] => none
  | (va, n, acc) :: t =>
    match s.areaFault ctx va n acc with
    | some e => some e
    | none => s.areasFault ctx t

/-- ITER whose descriptor has been read: the policies read, the iteration appended, the strand suspended (R289, R305). -/
def State.issueIter (s : State) (d : BitVec 5) (va : Dword) (ds : List Dword) : State :=
  let st := s.me
  let w := (ds.getD 0 0).toNat
  let n := field w 47 32
  let area (i : Nat) : Dword := ds.getD i 0
  if !s.descOk st.core st.ctx ds then s.result d (refusalWord 0xA3 0)
  else
    match s.areasFault st.ctx [(area 1, 64 * n, .write), (area 2, 64 + 64 * n, .write), (area 4, 512, .read)] with
    | some (code, v) => s.fault code (dw v)
    | none =>
      match s.viewDwords st.core st.ctx (area 4).toNat 64 with
      | .error (code, v) => s.fault code (dw v)
      | .ok ps =>
        let ids := s.drainPoint st.core 2
        s.suspend st d .completion (.acquire 2) fun s1 t =>
          let it : Iter :=
            { sid := st.sid, tag := t, ctx := st.ctx, task := st.task, desc := va, n := n, rowPort := field w 7 4,
              startPort := field w 3 0, table := area 1, area := area 2, iteration := area 3,
              policies := (List.range 8).map fun k => (ps.drop (8 * k)).take 8, map := area 5, after := ids }
          ((s1.startDrain st.core ids).modCore st.core fun (c : CoreState) => { c with iters := c.iters ++ [it] }).nextIter st.core

/-- ITER (R305). -/
def execIter (d a : BitVec 5) (s : State) : Out :=
  let st := s.me
  let va := st.g a
  s.unlessScout d
    (if va.toNat % 64 ≠ 0 then s.fault 0x02 va
     else
       match s.viewDwords st.core st.ctx va.toNat 8 with
       | .error (code, v) => s.fault code (dw v)
       | .ok ds => s.issueIter d va ds)

/-! ### Acceptance (R297, R421) -/

/-- Whether a sequence has all its rows (R297). -/
def SeqState.complete (x : SeqState) : Bool :=
  match x.rows with
  | some c => decide (c ≤ x.got.length)
  | none => false

/-- A row put among rows of ascending index. -/
def insertRow (r : RowEntry) : List RowEntry → List RowEntry
  | [] => [r]
  | x :: xs => if x.index < r.index then x :: insertRow r xs else r :: x :: xs

def sortRows (rs : List RowEntry) : List RowEntry := rs.foldr insertRow []

/-- The status of the lowest void row (R297). -/
def voidStatus (rs : List RowEntry) : Option Nat :=
  (sortRows rs).findSome? fun r => match r.outcome with
    | some (.void st) => some st
    | _ => none

/-- The tokens that rows in order commit, and whether the end token is among them (R297). -/
def acceptRows (endToken : Nat) : List RowEntry → List Nat × Bool
  | [] => ([], false)
  | r :: rs =>
    match r.outcome with
    | some (.token t) =>
      if t = endToken then ([t], true)
      else if r.draft = some t then
        let x := acceptRows endToken rs
        (t :: x.1, x.2)
      else ([t], false)
    | _ => ([], false)

/-- The decision of a sequence with all its rows (R297). -/
def SeqState.decide_ (x : SeqState) : Decision :=
  match voidStatus x.got with
  | some st => { x := true, f := false, status := st, tokens := [] }
  | none =>
    let a := acceptRows (field (x.word 1) 49 32) (sortRows x.got)
    { x := false, f := a.2, status := 0, tokens := a.1 }

/-- The decision of a sequence whose rows have ended before all had come (R421). -/
def SeqState.decideShort (x : SeqState) : Decision :=
  if x.got.isEmpty then { x := false, f := false, status := 0, tokens := [] }
  else { x := true, f := false, status := 8, tokens := [] }

/-! ### The commit record (R298) -/

/-- Doublewords written by the boundary; a write that no translation carries is not made. -/
def State.putDwords (s : State) (ctx va : Nat) (ws : List Dword) : State :=
  match s.agentWrite ctx va (wordsBytes ws) with
  | .ok s1 => s1
  | .error _ => s

/-- Tokens as doublewords 2 to 5 hold them. -/
def tokenWords (ts : List Nat) : List Dword :=
  (List.range 4).map fun i => dw (ts.getD (2 * i) 0 + ts.getD (2 * i + 1) 0 * 2 ^ 32)

/-- Doubleword 1 of a commit entry. -/
def entryWord (d : Decision) : Dword := dw (b2n d.x * 2 ^ 9 + b2n d.f * 2 ^ 8 + d.status % 16 * 2 ^ 4 + d.tokens.length % 16)

/-- The commit entry of table entry j (R298). -/
def State.commitEntry (s : State) (it : Iter) (j : Nat) : List Dword :=
  let x := it.seq j
  let first := match s.engineDword it.ctx (it.table.toNat + 64 * j) with
    | .ok w => w
    | .error _ => dw (x.word 0)
  let d := x.decision.getD { x := false, f := false, status := 0, tokens := [] }
  first :: entryWord d :: tokenWords d.tokens ++ [0, 0]

/-- Entries written in order. -/
def State.putEntries (s : State) (it : Iter) : List Nat → State
  | [] => s
  | j :: js => (s.putDwords it.ctx (it.area.toNat + 64 + 64 * j) (s.commitEntry it j)).putEntries it js

/-- Doubleword 0 of the header. -/
def headerWord (n state : Nat) : Dword := dw (n * 2 ^ 32 + state)

/-- Once the rows have ended and every sequence with rows is decided, the record is written: the entries, then the header (R298). -/
def State.settleRows (s : State) (core : Nat) : State :=
  match s.iter core with
  | none => s
  | some it =>
    if it.phase ≠ .rows || !it.ended || it.seqs.any (fun x => !x.got.isEmpty && x.decision.isNone) then s
    else
      let s1 := s.putEntries it (List.range it.n)
      (s1.putDwords it.ctx it.area.toNat [headerWord it.n 1, it.iteration, 0, 0, 0, 0, 0, 0]).setIter core
        { it with phase := .decided, commit := {} }

/-- ACCEPTANCE (R297): a sequence all of whose rows have come out is decided, once. -/
def execAcceptance (core : Nat) (entry : Nat) (s : State) : Out :=
  match s.iter core with
  | none => .next s
  | some it =>
    let x := it.seq entry
    if it.phase ≠ .rows || !decide (entry < it.n) || x.decision.isSome || !x.complete || x.got.any (·.outcome.isNone) then .next s
    else .next ((s.setIter core (it.setSeq entry { x with decision := some x.decide_ })).settleRows core)

/-- Whether every active sequence has received its rows (R421). -/
def Iter.allRows (it : Iter) : Bool := it.seqs.all fun x => !x.active || x.complete

/-- Whether nothing more can come: the region that binds the row port quiescent, its link empty, no row in part, and the start
token placed (R238, R421). -/
def State.rowsDry (s : State) (core : Nat) (it : Iter) : Bool :=
  let started := !(s.core core).feeds.any fun f => f.ctx = it.ctx && f.for_ = .start
  let quiet := match (s.core core).portLink it.ctx (.output it.rowPort) with
    | none => !(s.core core).frozen.any fun f => f.ctx = it.ctx && !f.regions.isEmpty
    | some (region, link) =>
      match s.region core region with
      | none => true
      | some r => decide (2 ≤ r.quiet) && r.isQuiet && (r.link link).queue.isEmpty
  started && quiet && it.part.isEmpty

/-- Sequences without all their rows decided (R421). -/
def Iter.decideRest (it : Iter) : Iter :=
  { it with seqs := it.seqs.map fun (x : SeqState) =>
      if x.decision.isNone && !x.complete && (x.active || !x.got.isEmpty) then { x with decision := some x.decideShort } else x }

/-- ROWS_END (R421). -/
def execRowsEnd (core : Nat) (s : State) : Out :=
  match s.iter core with
  | none => .next s
  | some it =>
    if it.phase ≠ .rows || it.ended || !(it.allRows || s.rowsDry core it) then .next s
    else .next ((s.setIter core { it.decideRest with ended := true }).settleRows core)

/-! ### The commit unit's effects (R299) -/

/-- What an effect comes to: made or skipped, to be tried again, or stopped with a status of the entry. -/
inductive Effect where
  | made (s : State)
  | wait
  | stop (status : Nat) (s : State)

/-- The status of an effect that a code stops. -/
def effectStatus (code : Nat) : Nat := if code = 0x07 then 7 else 9

/-- One KV copy (R166, R167, R299): the CRC register after it. -/
def State.kvCopy (s : State) (ctx list k : Nat) (cks : Bool) (crc : BitVec 32) : Except Nat (BitVec 32 × State) :=
  match s.engineDwords ctx (list + 32 * k) 4 with
  | .error e => .error (effectStatus e.1)
  | .ok d =>
    let w (i : Nat) : Nat := (d.getD i 0).toNat
    let len := field (w 2) 31 0
    let closes := bitN (w 2) 32 = 0
    if !copyDescOk cks d then .error 9
    else
      match s.engineRead ctx (w 0) len with
      | .error e => .error (effectStatus e.1)
      | .ok bs =>
        match { s with fresh := s.fresh + len }.agentWrite ctx (w 1) (copiedBytes s.fresh (w 0) (w 1) len 0 bs) with
        | .error e => .error (effectStatus e.1)
        | .ok s1 =>
          let crc1 := if cks then crcUpdate crc bs else crc
          if cks && closes && w 3 ≠ 0 then
            match s1.agentWrite ctx (w 3) (leBytes 4 (crc1 ^^^ 0xFFFFFFFF).toNat) with
            | .error e => .error (effectStatus e.1)
            | .ok s2 => .ok (0xFFFFFFFF, s2)
          else .ok (if closes then 0xFFFFFFFF else crc1, s1)

/-- Copies k and on, n of them; those before one that stops stand. -/
def State.kvCopies (s : State) (ctx list : Nat) (cks : Bool) : Nat → Nat → BitVec 32 → Effect
  | 0, _, _ => .made s
  | n + 1, k, crc =>
    match s.kvCopy ctx list k cks crc with
    | .error st => .stop st s
    | .ok (crc1, s1) => s1.kvCopies ctx list cks n (k + 1) crc1

/-- The token being committed: its entry's table words, sequence id, position, value, and the handle of its grammar step. -/
structure Committing where
  ctx : Nat
  words : SeqState
  seq : Nat
  q : Nat
  position : Nat
  token : Nat
  handle : Dword

/-- The KV copies of a token (R299). -/
def State.kvEffect (s : State) (x : Committing) : Effect :=
  let n := field (x.words.word 4) 15 0
  let list := field (x.words.word 3) 55 0
  if n = 0 then .made s
  else if list % 32 ≠ 0 then .stop 9 s
  else s.kvCopies x.ctx list (bitN (x.words.word 1) 22 = 1) n (x.q * n) 0xFFFFFFFF

/-- What the grammar step of a token comes to: the handle, and whether it was rejected (R299, R308). -/
inductive Grammared where
  | made (handle : Dword) (s : State)
  | rejected (s : State)
  | stop (status : Nat)

/-- The grammar step of a token, with its snapshot where N is set (R299, R308, R309). -/
def State.gramEffect (s : State) (x : Committing) : Grammared :=
  match s.myGram x.ctx (dw (field (x.words.word 1) 12 0)) with
  | .error _ => .stop 9
  | .ok (i, g) =>
    let key := BitVec.ofNat 32 x.position
    if g.position ≠ key then .made ((g.keyed.lookup key).getD allOnes) s
    else
      match s.gramStep g x.token with
      | .error (.reject _) => .rejected s
      | .error .malformed => .rejected (s.setGram i { g with broken := true })
      | .error (.memory code _) => .stop (effectStatus code)
      | .ok g1 =>
        let keep (h : Dword) : Gram := { g1 with keyed := ((key, h) :: g1.keyed).take 8 }
        if bitN (x.words.word 1) 23 = 1 then
          match s.gramSnap g1 with
          | none => .stop 9
          | some (h, s1) => .made h (s1.setGram i (keep h))
        else .made allOnes (s.setGram i (keep allOnes))

/-- The append of a token (R299): only while the episode's next sequence is P + q + 1. -/
def State.episodeEffect (s : State) (x : Committing) : Effect :=
  let id := dw (x.words.word 2)
  let failed (e : EpFail) : Effect := match e with
    | .poison _ => .stop 7 s
    | _ => .stop 9 s
  match s.checkEpisode x.ctx id with
  | .error e => failed e
  | .ok (_, st, _, ei) =>
    match s.readEp st ei with
    | .error e => failed e
    | .ok e =>
      if e.next ≠ (x.position + 1) % 2 ^ 32 then .made s
      else
        match s.epAppend x.ctx id 0 0 (some (leBytes 8 x.token ++ leBytes 8 x.handle.toNat)) with
        | .error f => failed f
        | .ok r => .made r.2

/-- The next position that the hold queue accepts for a key (R308). -/
def GenState.nextPosition (g : GenState) (domain seq : Nat) : Nat :=
  ((g.holdNext.find? fun x => x.1 = domain && x.2.1 = seq).map (·.2.2)).getD 0

def GenState.setNext (g : GenState) (domain seq p : Nat) : GenState :=
  { g with holdNext := (domain, seq, p) :: g.holdNext.filter fun x => !(x.1 = domain && x.2.1 = seq) }

/-- The hold entry of a token (R299, R302, R308): a full queue makes the commit wait. -/
def State.holdEffect (s : State) (x : Committing) : Effect :=
  let domain := field (x.words.word 1) 31 24
  if x.position < s.gen.nextPosition domain x.seq then .made s
  else if 65536 ≤ s.gen.hold.length then .wait
  else
    let g := s.gen.setNext domain x.seq (x.position + 1)
    .made (s.setGen { g with hold := g.hold ++ [{ domain := domain, seq := x.seq, position := x.position, token := x.token }] })

/-- The record's entry: P, the sequence id, the decision (R298). -/
structure CommitEntry where
  p : Nat
  seq : Nat
  word : Nat
  tokens : List Nat

def CommitEntry.count (e : CommitEntry) : Nat := field e.word 3 0
def CommitEntry.status (e : CommitEntry) : Nat := field e.word 7 4
def CommitEntry.isX (e : CommitEntry) : Bool := bitN e.word 9 = 1

/-- An entry read back from the record (R297, R301). -/
def State.readEntry (s : State) (it : Iter) (j : Nat) : Option CommitEntry :=
  match s.engineDwords it.ctx (it.area.toNat + 64 + 64 * j) 6 with
  | .error _ => none
  | .ok d =>
    let w (i : Nat) : Nat := (d.getD i 0).toNat
    let tok (q : Nat) : Nat := field (w (2 + q / 2)) (32 * (q % 2) + 17) (32 * (q % 2))
    some { p := field (w 0) 63 32, seq := field (w 0) 31 0, word := w 1, tokens := (List.range (min 8 (field (w 1) 3 0))).map tok }

/-- The status field of an entry of the record (R299). -/
def State.setEntryStatus (s : State) (it : Iter) (j : Nat) (e : CommitEntry) (status : Nat) : State :=
  if e.status = status then s
  else s.putDwords it.ctx (it.area.toNat + 72 + 64 * j) [dw (setField e.word 7 4 status)]

/-- X, F and the position of a table entry, written only while the position reads P (R299). -/
def State.putTable (s : State) (it : Iter) (j : Nat) (e : CommitEntry) (x f : Bool) (n : Nat) : State :=
  match s.engineDwords it.ctx (it.table.toNat + 64 * j) 2 with
  | .error _ => s
  | .ok d =>
    let w0 := (d.getD 0 0).toNat
    if field w0 63 32 ≠ e.p then s
    else
      s.putDwords it.ctx (it.table.toNat + 64 * j)
        [dw (setField w0 63 32 (e.p + n)), dw (setField (setField (d.getD 1 0).toNat 21 21 (b2n x)) 20 20 (b2n f))]

/-- X of a table entry set, the rest left (R299). -/
def State.putX (s : State) (it : Iter) (j : Nat) : State :=
  match s.engineDword it.ctx (it.table.toNat + 64 * j + 8) with
  | .error _ => s
  | .ok w => s.putDwords it.ctx (it.table.toNat + 64 * j + 8) [dw (setField w.toNat 21 21 1)]

/-- An entry at its end: what the status word gathers of it, and the next entry (R300). -/
def CommitAt.past (a : CommitAt) (x : Bool) (status count : Nat) : CommitAt :=
  { entry := a.entry + 1
    status := if a.status = 0 then status else a.status
    tokens := a.tokens + count
    faulted := a.faulted + b2n (x && status != 0)
    committed := a.committed + b2n (count != 0) }

/-- The status word (R300). -/
def statusWord (status tokens faulted committed : Nat) : Dword :=
  dw (status % 256 * 2 ^ 48 + tokens % 2 ^ 16 * 2 ^ 32 + faulted % 2 ^ 16 * 2 ^ 16 + committed % 2 ^ 16)

/-- An iteration over: the status word to its strand, the next iteration (R300, R301). -/
def State.endIter (s : State) (core : Nat) (it : Iter) (a : CommitAt) : State :=
  let status := if a.status = 0 && it.droppedRow then 8 else a.status
  ((s.modCore core fun (c : CoreState) => { c with iters := c.iters.tail }).sendCompletion
    { core := core, sid := it.sid, space := 2, tag := it.tag, value := statusWord status a.tokens a.faulted a.committed }).nextIter core

/-- The iteration with its commit unit further on. -/
def State.commitTo (s : State) (core : Nat) (it : Iter) (a : CommitAt) : State := s.setIter core { it with commit := a }

/-- An entry stopped at token q (R299). -/
def State.stopEntry (s : State) (core : Nat) (it : Iter) (e : CommitEntry) (status : Nat) : State :=
  let a := it.commit
  let f := (e.tokens.take a.token).contains (field ((it.seq a.entry).word 1) 49 32)
  let s1 := (s.setEntryStatus it a.entry e status).putTable it a.entry e true f a.token
  s1.commitTo core it (a.past true status e.count)

/-- An entry all of whose tokens are committed: the status of an earlier attempt is no more (R299). -/
def State.finishEntry (s : State) (core : Nat) (it : Iter) (e : CommitEntry) : State :=
  let a := it.commit
  let status := if e.status = 7 || e.status = 9 then 0 else e.status
  let s1 := (s.setEntryStatus it a.entry e status).putTable it a.entry e e.isX (bitN e.word 8 = 1) e.count
  s1.commitTo core it (a.past e.isX status e.count)

/-- An effect of a token, and where the unit goes on. -/
def State.afterEffect (s : State) (core : Nat) (it : Iter) (e : CommitEntry) (r : Effect) (next : CommitAt) : State :=
  match r with
  | .made s1 => s1.commitTo core it next
  | .wait => s
  | .stop status s1 => s1.stopEntry core it e status

/-- The next effect of an entry's tokens, in the order of R299. -/
def State.tokenEffect (s : State) (core : Nat) (it : Iter) (e : CommitEntry) : State :=
  let a := it.commit
  let x : Committing :=
    { ctx := it.ctx, words := it.seq a.entry, seq := e.seq, q := a.token, position := (e.p + a.token) % 2 ^ 32
      token := e.tokens.getD a.token 0, handle := a.handle }
  let flag (n : Nat) : Bool := bitN (x.words.word 1) n = 1
  match a.effect with
  | 0 => s.afterEffect core it e (s.kvEffect x) { a with effect := 1, handle := allOnes }
  | 1 =>
    if flag 16 then
      match s.gramEffect x with
      | .made h s1 => s1.commitTo core it { a with effect := 2, handle := h }
      | .rejected s1 => (s1.setEntryStatus it a.entry e 5).commitTo core it { a with effect := 2 }
      | .stop status => s.stopEntry core it e status
    else s.commitTo core it { a with effect := 2 }
  | 2 => s.afterEffect core it e (if flag 17 then s.episodeEffect x else .made s) { a with effect := 3 }
  | _ => s.afterEffect core it e (if flag 18 then s.holdEffect x else .made s) { a with effect := 0, token := a.token + 1 }

/-- Whether the record is decided for this iteration (R301). -/
def State.recordDecided (s : State) (it : Iter) : Bool :=
  match s.engineDwords it.ctx it.area.toNat 2 with
  | .ok [w, n] => field w.toNat 7 0 = 1 && n = it.iteration
  | _ => false

/-- COMMIT (R299): the unit's next effect; it stops between effects for a pre-emption (R301). -/
def execCommit (core : Nat) (s : State) : Out :=
  match s.iter core with
  | none => .next s
  | some it =>
    if it.phase ≠ .decided || s.stopped core it.ctx then .next s
    else
      let a := it.commit
      if a = {} && !s.recordDecided it then .next (s.endIter core it a)
      else if it.n ≤ a.entry then .next ((s.putDwords it.ctx it.area.toNat [headerWord it.n 2]).endIter core it a)
      else
        match s.readEntry it a.entry with
        | none => .next (s.commitTo core it { a with entry := a.entry + 1, token := 0, effect := 0 })
        | some e =>
          if e.count = 0 then
            .next ((if e.isX then s.putX it a.entry else s).commitTo core it (a.past e.isX e.status 0))
          else if a.token < e.count then .next (s.tokenEffect core it e)
          else .next (s.finishEntry core it e)

end Sys2Proof.Machine
end

