-- ==== Sys2Proof/Machine/Router.lean ====
section
/-! DEFINITION. Router operators but PERMIT, whose state is the region's (R231 to R234). -/

namespace Sys2Proof.Machine

/-- A control token as true, false or invalid (R231). -/
def controlOf (t : Token) : Option Bool := if t.ok 0 then some (t.val 0 != 0) else none

/-- STEER by control, or by kind when aux[0] = 1 (R232). -/
def fireSteer (e : EWord) (x : Inputs) : Option Fire :=
  if e.aux == 1 then
    match x.a with
    | none => none
    | some a =>
      if a.kind == .data || a.kind == .void then some { takeA := true, out0 := some a }
      else some { takeA := true, out1 := some a }
  else
    match x.a, x.b with
    | some a, some b =>
      match controlOf a with
      | some true => some { takeA := true, takeB := true, out0 := some b }
      | some false => some { takeA := true, takeB := true, out1 := some b }
      | none => some { takeA := true, takeB := true }
    | _, _ => none

/-- MERGE in the order of its control stream (R232). -/
def fireMerge (_e : EWord) (x : Inputs) : Option Fire :=
  match x.a with
  | none => none
  | some a =>
    match controlOf a with
    | some true => x.b.map fun b => { takeA := true, takeB := true, out0 := some b }
    | some false => x.c.map fun c => { takeA := true, takeC := true, out0 := some c }
    | none => some { takeA := true }

/-- AMERGE in arrival order: B when both are present; with aux[0] = 1 it holds to one input inside a row (R232). -/
def fireAmerge (e : EWord) (st : UnitState) (x : Inputs) : Option Fire :=
  let next (t : Token) (b : Bool) : UnitState := if e.aux == 1 && !t.last then .row b else .idle
  let fromB (b : Token) : Fire := { takeB := true, out0 := some b, st := next b true }
  let fromC (c : Token) : Fire := { takeC := true, out0 := some c, st := next c false }
  match st with
  | .row true => x.b.map fromB
  | .row false => x.c.map fromC
  | _ =>
    match x.b, x.c with
    | some b, _ => some (fromB b)
    | none, some c => some (fromC c)
    | none, none => none

/-- CARRY (R233). -/
def fireCarry (_e : EWord) (st : UnitState) (x : Inputs) : Option Fire :=
  match st with
  | .carryLoop =>
    match x.b with
    | none => none
    | some b =>
      if controlOf b == some true then
        x.c.map fun c => { takeB := true, takeC := true, out0 := some { c with iter := b.iter }, st := .carryLoop }
      else some { takeB := true, st := .idle }
  | _ => x.a.map fun a => { takeA := true, out0 := some a, st := .carryLoop }

/-- INVAR (R233). -/
def fireInvar (_e : EWord) (st : UnitState) (x : Inputs) : Option Fire :=
  match st with
  | .invarLoop kept =>
    match x.b with
    | none => none
    | some b =>
      if controlOf b == some true then
        some { takeB := true, out0 := some { kept with iter := b.iter }, st := .invarLoop kept }
      else some { takeB := true, st := .idle }
  | _ => x.a.map fun a => { takeA := true, out0 := some a, st := .invarLoop a }

/-- SINK (R234). -/
def fireSink (_e : EWord) (x : Inputs) : Option Fire := x.a.map fun _ => { takeA := true }

end Sys2Proof.Machine
end

