-- ==== Sys2Proof/Machine/Units.lean ====
section
/-! DEFINITION. The step of every unit of a configuration: PERMIT (R235 to R237), the operation of each word (R226), and the
joint step of units that a direct link joins. -/

namespace Sys2Proof.Machine

/-! ### PERMIT (R236) -/

/-- Held stores of squashed sequences dropped, and squashed heads discarded (R237). -/
def Region.squashAll (r : Region) : Region :=
  { r.squash with cells := r.cells.map fun c =>
      (c.1, { c.2 with ag := { c.2.ag with stores := c.2.ag.stores.filter fun p => !r.squashed p } }) }

/-- Sequences admitted after i; all where i is not in flight. -/
def admittedAfter (i : Nat) (inflight : List Nat) : List Nat :=
  if inflight.contains i then (inflight.dropWhile (· ≠ i)).drop 1 else inflight

/-- A return (R236). -/
def PermitState.returned (p : PermitState) (q : Nat) : PermitState :=
  if p.inflight.contains q then { p with inflight := p.inflight.filter (· ≠ q), free := p.free + 1 } else p

/-- An exit (R236). -/
def PermitState.exit (p : PermitState) (t : Token) : PermitState :=
  if t.isTrue 0 then
    let m := admittedAfter t.iter p.inflight
    { p with
      inflight := p.inflight.filter fun q => !m.contains q
      mask := m.foldl (fun b q => b ||| (1 : BitVec 8) <<< q) p.mask
      free := p.free + m.length
      exited := true }
  else p

/-- An admission (R236). -/
def PermitState.admitted (p : PermitState) : PermitState :=
  { p with inflight := p.inflight ++ [p.next], free := p.free - 1, next := (p.next + 1) % 8 }

/-- The first of PERMIT's actions that can fire (R236). -/
def Region.permitStep (r : Region) (e : EWord) : Option Region :=
  match r.permit with
  | none => none
  | some p =>
    match r.headAt e.b with
    | some t => some { r.take e.b with permit := some (p.returned t.iter) }
    | none =>
      match r.headAt e.c with
      | some t => some ({ r.take e.c with permit := some (p.exit t) }.squashAll)
      | none =>
        match r.headAt e.a with
        | none => none
        | some t =>
          if p.exited then
            some { r.take e.a with permit := some { p with exited := !t.last } }
          else if 0 < p.free && !p.mask.getLsbD p.next && r.mayWriteAt e.o0 then
            some (({ r.take e.a with permit := some p.admitted }).placeAt e.o0 (some { t with iter := p.next }))
          else none

def stepPermit (e : EWord) : UnitStep := fun s u =>
  match s.region u.core u.region with
  | none => none
  | some r => (r.permitStep e).map (s.setRegion u.core u.region)

/-! ### The step of a word -/

def stepVadd (e : EWord) : UnitStep := pureStep e fun _ x => fireVadd e x
def stepVsub (e : EWord) : UnitStep := pureStep e fun _ x => fireVsub e x
def stepVmul (e : EWord) : UnitStep := pureStep e fun _ x => fireVmul e x
def stepVmulh (e : EWord) : UnitStep := pureStep e fun _ x => fireVmulh e x
def stepVmad (e : EWord) : UnitStep := pureStep e fun _ x => fireVmad e x
def stepVmin (e : EWord) : UnitStep := pureStep e fun _ x => fireVmin e x
def stepVmax (e : EWord) : UnitStep := pureStep e fun _ x => fireVmax e x
def stepVabs (e : EWord) : UnitStep := pureStep e fun _ x => fireVabs e x
def stepVneg (e : EWord) : UnitStep := pureStep e fun _ x => fireVneg e x
def stepVand (e : EWord) : UnitStep := pureStep e fun _ x => fireVand e x
def stepVor (e : EWord) : UnitStep := pureStep e fun _ x => fireVor e x
def stepVxor (e : EWord) : UnitStep := pureStep e fun _ x => fireVxor e x
def stepVnot (e : EWord) : UnitStep := pureStep e fun _ x => fireVnot e x
def stepVshl (e : EWord) : UnitStep := pureStep e fun _ x => fireVshl e x
def stepVshr (e : EWord) : UnitStep := pureStep e fun _ x => fireVshr e x
def stepVsra (e : EWord) : UnitStep := pureStep e fun _ x => fireVsra e x
def stepVclip (e : EWord) : UnitStep := pureStep e fun _ x => fireVclip e x
def stepVadds (e : EWord) : UnitStep := pureStep e fun _ x => fireVadds e x
def stepVsubs (e : EWord) : UnitStep := pureStep e fun _ x => fireVsubs e x
def stepVcmp (e : EWord) : UnitStep := pureStep e fun _ x => fireVcmp e x
def stepVsel (e : EWord) : UnitStep := pureStep e fun _ x => fireVsel e x
def stepVval (e : EWord) : UnitStep := pureStep e fun _ x => fireVval e x
def stepVscan (e : EWord) : UnitStep := pureStep e (fireVscan e)
def stepFvadd (e : EWord) : UnitStep := pureStep e fun _ x => fireFvadd e x
def stepFvsub (e : EWord) : UnitStep := pureStep e fun _ x => fireFvsub e x
def stepFvmul (e : EWord) : UnitStep := pureStep e fun _ x => fireFvmul e x
def stepFvfma (e : EWord) : UnitStep := pureStep e fun _ x => fireFvfma e x
def stepFvmin (e : EWord) : UnitStep := pureStep e fun _ x => fireFvmin e x
def stepFvmax (e : EWord) : UnitStep := pureStep e fun _ x => fireFvmax e x
def stepFvexp2 (e : EWord) : UnitStep := pureStep e fun _ x => fireFvexp2 e x
def stepFvlog2 (e : EWord) : UnitStep := pureStep e fun _ x => fireFvlog2 e x
def stepFvrcp (e : EWord) : UnitStep := pureStep e fun _ x => fireFvrcp e x
def stepFvrsq (e : EWord) : UnitStep := pureStep e fun _ x => fireFvrsq e x
def stepFvtanh (e : EWord) : UnitStep := pureStep e fun _ x => fireFvtanh e x
def stepFvsigm (e : EWord) : UnitStep := pureStep e fun _ x => fireFvsigm e x
def stepFvcmp (e : EWord) : UnitStep := pureStep e fun _ x => fireFvcmp e x
def stepFvdot (e : EWord) : UnitStep := pureStep e fun _ x => fireFvdot e x
def stepFvlrec (e : EWord) : UnitStep := pureStep e (fireFvlrec e)
def stepVbcast (e : EWord) : UnitStep := pureStep e fun _ x => fireVbcast e x
def stepVperm (e : EWord) : UnitStep := pureStep e fun _ x => fireVperm e x
def stepVpack (e : EWord) : UnitStep := pureStep e fun _ x => fireVpack e x
def stepVunpk (e : EWord) : UnitStep := pureStep e fun _ x => fireVunpk e x
def stepVslice (e : EWord) : UnitStep := pureStep e fun _ x => fireVslice e x
def stepCturn (e : EWord) : UnitStep := pureStep e (fireCturn e)
def stepVred (e : EWord) : UnitStep := pureStep e fun _ x => fireVred e x
def stepVconst (e : EWord) : UnitStep := pureStep e fun _ x => fireVconst e x
def stepCvt (e : EWord) : UnitStep := pureStep e (fireCvt e)
def stepScale (e : EWord) : UnitStep := pureStep e (fireScale e)
def stepSteer (e : EWord) : UnitStep := pureStep e fun _ x => fireSteer e x
def stepMerge (e : EWord) : UnitStep := pureStep e fun _ x => fireMerge e x
def stepAmerge (e : EWord) : UnitStep := pureStep e (fireAmerge e)
def stepCarry (e : EWord) : UnitStep := pureStep e (fireCarry e)
def stepInvar (e : EWord) : UnitStep := pureStep e (fireInvar e)
def stepSink (e : EWord) : UnitStep := pureStep e fun _ x => fireSink e x
def stepSmxi (e : EWord) : UnitStep := pureStep e fun _ x => fireSmxi e x
def stepSmxu (e : EWord) : UnitStep := pureStep e fun _ x => fireSmxu e x
def stepSmxf (e : EWord) : UnitStep := pureStep e fun _ x => fireSmxf e x
def stepPred (e : EWord) : UnitStep := pureStep e fun _ x => firePred e x
def stepRed (e : EWord) : UnitStep := pureStep e (fireRed e)

/-- The step of a unit's word. -/
def stepOf (i : Instr) : Option UnitStep :=
  match i with
  | .vadd e => some (stepVadd e)
  | .vsub e => some (stepVsub e)
  | .vmul e => some (stepVmul e)
  | .vmulh e => some (stepVmulh e)
  | .vmad e => some (stepVmad e)
  | .vmin e => some (stepVmin e)
  | .vmax e => some (stepVmax e)
  | .vabs e => some (stepVabs e)
  | .vneg e => some (stepVneg e)
  | .vand e => some (stepVand e)
  | .vor e => some (stepVor e)
  | .vxor e => some (stepVxor e)
  | .vnot e => some (stepVnot e)
  | .vshl e => some (stepVshl e)
  | .vshr e => some (stepVshr e)
  | .vsra e => some (stepVsra e)
  | .vclip e => some (stepVclip e)
  | .vadds e => some (stepVadds e)
  | .vsubs e => some (stepVsubs e)
  | .vcmp e => some (stepVcmp e)
  | .vsel e => some (stepVsel e)
  | .vval e => some (stepVval e)
  | .vscan e => some (stepVscan e)
  | .fvadd e => some (stepFvadd e)
  | .fvsub e => some (stepFvsub e)
  | .fvmul e => some (stepFvmul e)
  | .fvfma e => some (stepFvfma e)
  | .fvmin e => some (stepFvmin e)
  | .fvmax e => some (stepFvmax e)
  | .fvexp2 e => some (stepFvexp2 e)
  | .fvlog2 e => some (stepFvlog2 e)
  | .fvrcp e => some (stepFvrcp e)
  | .fvrsq e => some (stepFvrsq e)
  | .fvtanh e => some (stepFvtanh e)
  | .fvsigm e => some (stepFvsigm e)
  | .fvcmp e => some (stepFvcmp e)
  | .fvdot e => some (stepFvdot e)
  | .fvlrec e => some (stepFvlrec e)
  | .vbcast e => some (stepVbcast e)
  | .vperm e => some (stepVperm e)
  | .vpack e => some (stepVpack e)
  | .vunpk e => some (stepVunpk e)
  | .vslice e => some (stepVslice e)
  | .cturn e => some (stepCturn e)
  | .vred e => some (stepVred e)
  | .vconst e => some (stepVconst e)
  | .cvt e => some (stepCvt e)
  | .scale e => some (stepScale e)
  | .steer e => some (stepSteer e)
  | .merge e => some (stepMerge e)
  | .amerge e => some (stepAmerge e)
  | .carry e => some (stepCarry e)
  | .invar e => some (stepInvar e)
  | .permit e => some (stepPermit e)
  | .sink e => some (stepSink e)
  | .mrow e => some (stepMrow e)
  | .mldb e => some (stepMldb e)
  | .mdrn e => some (stepMdrn e)
  | .mclr e => some (stepMclr e)
  | .smxi e => some (stepSmxi e)
  | .smxu e => some (stepSmxu e)
  | .smxf e => some (stepSmxf e)
  | .pred e => some (stepPred e)
  | .red e => some (stepRed e)
  | .stld e => some (stepStld e)
  | .stst e => some (stepStst e)
  | .agld e => some (stepAgld e)
  | .agst e => some (stepAgst e)
  | .agga e => some (stepAgga e)
  | .aguf e => some (stepAguf e)
  | .agep e => some (stepAgep e)
  | _ => none

/-! ### Direct links (R226) -/

/-- Whether a token stands on a direct link of a cell, within a joint step. -/
def Region.inPassing (r : Region) (cell : Nat) : Bool :=
  r.links.any fun l => l.slots = 0 && !l.queue.isEmpty && (match l.cons with
    | some c => c.cell = cell
    | none => false)

/-- Which unit of a cell has a token waiting on a direct link. -/
def Region.passingTo (r : Region) (cell : Nat) : Option Bool :=
  r.links.findSome? fun l =>
    match l.cons with
    | some c => if l.slots = 0 && !l.queue.isEmpty && c.cell = cell then some c.router else none
    | none => none

/-- The step of a unit as its cell holds it. -/
def State.stepAt (s : State) (u : UnitAt) : Option State :=
  match s.unitInstr u with
  | none => none
  | some i => match stepOf i with
    | none => none
    | some f => f s u

/-- Consumers of direct links fire until none holds a token; none where one cannot. -/
def State.settle (u : UnitAt) : Nat → State → Option State
  | 0, _ => none
  | n + 1, s =>
    match s.region u.core u.region with
    | none => some s
    | some r =>
      match r.passingTo u.cell with
      | none => some s
      | some router =>
        match s.stepAt { u with router := router } with
        | none => none
        | some s1 => State.settle u n s1

/-- Direct links from the other unit of the cell to this one. -/
def Region.directInto (r : Region) (u : UnitAt) : Bool :=
  r.links.any fun l => l.slots = 0 && l.cons = some ⟨u.cell, u.router⟩

/-- A unit's step with what a direct link joins to it: its own first, or, where its input comes over a direct link, that of the
unit that feeds it (R226). -/
def State.jointStep (s : State) (u : UnitAt) (step : UnitStep) : Option State :=
  match step s u with
  | some s1 => State.settle u 64 s1
  | none =>
    match s.region u.core u.region with
    | none => none
    | some r =>
      if r.directInto u then
        match s.stepAt { u with router := !u.router } with
        | none => none
        | some s1 => State.settle u 64 s1
      else none

/-- The step that a unit's word takes: none of its effects where it cannot fire (R226). -/
def State.runUnit (s : State) (step : UnitStep) : Out :=
  match s.actor with
  | .unit core region cell router => .next ((s.jointStep ⟨core, region, cell, router⟩ step).getD s)
  | _ => .next s

end Sys2Proof.Machine
end

