-- ==== Sys2Proof/Machine/Elements.lean ====
section
/-! DEFINITION. The meanings of element and router words: one step of the unit that holds the word. -/

namespace Sys2Proof.Machine

/-- VADD (R248). -/
def execVadd (e : EWord) (s : State) : Out := s.runUnit (stepVadd e)

/-- VSUB (R248). -/
def execVsub (e : EWord) (s : State) : Out := s.runUnit (stepVsub e)

/-- VMUL (R248). -/
def execVmul (e : EWord) (s : State) : Out := s.runUnit (stepVmul e)

/-- VMULH (R248). -/
def execVmulh (e : EWord) (s : State) : Out := s.runUnit (stepVmulh e)

/-- VMAD (R248). -/
def execVmad (e : EWord) (s : State) : Out := s.runUnit (stepVmad e)

/-- VMIN (R248). -/
def execVmin (e : EWord) (s : State) : Out := s.runUnit (stepVmin e)

/-- VMAX (R248). -/
def execVmax (e : EWord) (s : State) : Out := s.runUnit (stepVmax e)

/-- VABS (R248). -/
def execVabs (e : EWord) (s : State) : Out := s.runUnit (stepVabs e)

/-- VNEG (R248). -/
def execVneg (e : EWord) (s : State) : Out := s.runUnit (stepVneg e)

/-- VAND (R248). -/
def execVand (e : EWord) (s : State) : Out := s.runUnit (stepVand e)

/-- VOR (R248). -/
def execVor (e : EWord) (s : State) : Out := s.runUnit (stepVor e)

/-- VXOR (R248). -/
def execVxor (e : EWord) (s : State) : Out := s.runUnit (stepVxor e)

/-- VNOT (R248). -/
def execVnot (e : EWord) (s : State) : Out := s.runUnit (stepVnot e)

/-- VSHL (R249). -/
def execVshl (e : EWord) (s : State) : Out := s.runUnit (stepVshl e)

/-- VSHR (R249). -/
def execVshr (e : EWord) (s : State) : Out := s.runUnit (stepVshr e)

/-- VSRA (R249). -/
def execVsra (e : EWord) (s : State) : Out := s.runUnit (stepVsra e)

/-- VCLIP (R250). -/
def execVclip (e : EWord) (s : State) : Out := s.runUnit (stepVclip e)

/-- VADDS (R248). -/
def execVadds (e : EWord) (s : State) : Out := s.runUnit (stepVadds e)

/-- VSUBS (R248). -/
def execVsubs (e : EWord) (s : State) : Out := s.runUnit (stepVsubs e)

/-- VCMP (R251). -/
def execVcmp (e : EWord) (s : State) : Out := s.runUnit (stepVcmp e)

/-- VSEL (R252). -/
def execVsel (e : EWord) (s : State) : Out := s.runUnit (stepVsel e)

/-- VVAL (R253). -/
def execVval (e : EWord) (s : State) : Out := s.runUnit (stepVval e)

/-- VSCAN (R254). -/
def execVscan (e : EWord) (s : State) : Out := s.runUnit (stepVscan e)

/-- FVADD (R255). -/
def execFvadd (e : EWord) (s : State) : Out := s.runUnit (stepFvadd e)

/-- FVSUB (R255). -/
def execFvsub (e : EWord) (s : State) : Out := s.runUnit (stepFvsub e)

/-- FVMUL (R255). -/
def execFvmul (e : EWord) (s : State) : Out := s.runUnit (stepFvmul e)

/-- FVFMA (R255). -/
def execFvfma (e : EWord) (s : State) : Out := s.runUnit (stepFvfma e)

/-- FVMIN (R255). -/
def execFvmin (e : EWord) (s : State) : Out := s.runUnit (stepFvmin e)

/-- FVMAX (R255). -/
def execFvmax (e : EWord) (s : State) : Out := s.runUnit (stepFvmax e)

/-- FVEXP2 (R257). -/
def execFvexp2 (e : EWord) (s : State) : Out := s.runUnit (stepFvexp2 e)

/-- FVLOG2 (R257). -/
def execFvlog2 (e : EWord) (s : State) : Out := s.runUnit (stepFvlog2 e)

/-- FVRCP (R257). -/
def execFvrcp (e : EWord) (s : State) : Out := s.runUnit (stepFvrcp e)

/-- FVRSQ (R257). -/
def execFvrsq (e : EWord) (s : State) : Out := s.runUnit (stepFvrsq e)

/-- FVTANH (R257). -/
def execFvtanh (e : EWord) (s : State) : Out := s.runUnit (stepFvtanh e)

/-- FVSIGM (R257). -/
def execFvsigm (e : EWord) (s : State) : Out := s.runUnit (stepFvsigm e)

/-- FVCMP (R256). -/
def execFvcmp (e : EWord) (s : State) : Out := s.runUnit (stepFvcmp e)

/-- FVDOT (R258). -/
def execFvdot (e : EWord) (s : State) : Out := s.runUnit (stepFvdot e)

/-- FVLREC (R259). -/
def execFvlrec (e : EWord) (s : State) : Out := s.runUnit (stepFvlrec e)

/-- VBCAST (R260). -/
def execVbcast (e : EWord) (s : State) : Out := s.runUnit (stepVbcast e)

/-- VPERM (R261). -/
def execVperm (e : EWord) (s : State) : Out := s.runUnit (stepVperm e)

/-- VPACK (R262). -/
def execVpack (e : EWord) (s : State) : Out := s.runUnit (stepVpack e)

/-- VUNPK (R263). -/
def execVunpk (e : EWord) (s : State) : Out := s.runUnit (stepVunpk e)

/-- VSLICE (R264). -/
def execVslice (e : EWord) (s : State) : Out := s.runUnit (stepVslice e)

/-- CTURN (R265). -/
def execCturn (e : EWord) (s : State) : Out := s.runUnit (stepCturn e)

/-- VRED (R266). -/
def execVred (e : EWord) (s : State) : Out := s.runUnit (stepVred e)

/-- VCONST (R267). -/
def execVconst (e : EWord) (s : State) : Out := s.runUnit (stepVconst e)

/-- CVT (R268). -/
def execCvt (e : EWord) (s : State) : Out := s.runUnit (stepCvt e)

/-- SCALE (R270). -/
def execScale (e : EWord) (s : State) : Out := s.runUnit (stepScale e)

/-- STEER (R232). -/
def execSteer (e : EWord) (s : State) : Out := s.runUnit (stepSteer e)

/-- MERGE (R232). -/
def execMerge (e : EWord) (s : State) : Out := s.runUnit (stepMerge e)

/-- AMERGE (R232). -/
def execAmerge (e : EWord) (s : State) : Out := s.runUnit (stepAmerge e)

/-- CARRY (R233). -/
def execCarry (e : EWord) (s : State) : Out := s.runUnit (stepCarry e)

/-- INVAR (R233). -/
def execInvar (e : EWord) (s : State) : Out := s.runUnit (stepInvar e)

/-- PERMIT (R236). -/
def execPermit (e : EWord) (s : State) : Out := s.runUnit (stepPermit e)

/-- SINK (R234). -/
def execSink (e : EWord) (s : State) : Out := s.runUnit (stepSink e)

/-- MROW (R276). -/
def execMrow (e : EWord) (s : State) : Out := s.runUnit (stepMrow e)

/-- MLDB (R275). -/
def execMldb (e : EWord) (s : State) : Out := s.runUnit (stepMldb e)

/-- MDRN (R277). -/
def execMdrn (e : EWord) (s : State) : Out := s.runUnit (stepMdrn e)

/-- MCLR (R277). -/
def execMclr (e : EWord) (s : State) : Out := s.runUnit (stepMclr e)

/-- SMXI (R279). -/
def execSmxi (e : EWord) (s : State) : Out := s.runUnit (stepSmxi e)

/-- SMXU (R280). -/
def execSmxu (e : EWord) (s : State) : Out := s.runUnit (stepSmxu e)

/-- SMXF (R279). -/
def execSmxf (e : EWord) (s : State) : Out := s.runUnit (stepSmxf e)

/-- PRED (R282). -/
def execPred (e : EWord) (s : State) : Out := s.runUnit (stepPred e)

/-- RED (R283). -/
def execRed (e : EWord) (s : State) : Out := s.runUnit (stepRed e)

/-- STLD (R285). -/
def execStld (e : EWord) (s : State) : Out := s.runUnit (stepStld e)

/-- STST (R286). -/
def execStst (e : EWord) (s : State) : Out := s.runUnit (stepStst e)

/-- AGLD (R154). -/
def execAgld (e : EWord) (s : State) : Out := s.runUnit (stepAgld e)

/-- AGST (R154). -/
def execAgst (e : EWord) (s : State) : Out := s.runUnit (stepAgst e)

/-- AGGA (R154). -/
def execAgga (e : EWord) (s : State) : Out := s.runUnit (stepAgga e)

/-- AGUF (R154). -/
def execAguf (e : EWord) (s : State) : Out := s.runUnit (stepAguf e)

/-- AGEP (R155). -/
def execAgep (e : EWord) (s : State) : Out := s.runUnit (stepAgep e)

end Sys2Proof.Machine
end

