-- ==== Sys2Proof/Machine/Flags.lean ====
section
/-! DEFINITION. The exception flags of scalar floating point (R59) and its rounding mode (R60). -/

namespace Sys2Proof.Machine

/-- The exceptions of a result as fflags bits (R59). -/
def FRes.flags (r : FRes) : BitVec 5 :=
  BitVec.ofNat 5 (16 * b2n r.nv + 8 * b2n r.dz + 4 * b2n r.of + 2 * b2n r.uf + b2n r.nx)

/-- Flags ORed into fflags; no operation clears one (R345). -/
def Strand.raise (st : Strand) (f : BitVec 5) : Strand := { st with fflags := st.fflags ||| f }

/-- The rounding code an instruction uses: its own, or frm's for code 7; none where frm holds 5 to 7 (R60). -/
def Strand.rounding (st : Strand) (rm : BitVec 3) : Option Rm :=
  if rm = 7 then (if 5 ≤ st.frm.toNat then none else some (rmOf st.frm.toNat)) else some (rmOf rm.toNat)

/-- The format of a scalar operation (R36). -/
def fpFmt (fmt : BitVec 1) : FFmt := if fmt = 0 then f32 else f64

/-- An operand's bits in a format: [31:0] or all 64 (R36). -/
def fpBits (fmt : BitVec 1) (v : Dword) : Nat := if fmt = 0 then v.toNat % 2 ^ 32 else v.toNat

/-- An operand's value. -/
def fpVal (fmt : BitVec 1) (v : Dword) : FVal := unpack (fpFmt fmt) (fpBits fmt v)

/-- An arithmetic result: the exact value rounded once, with NV where an input signals or the operation is invalid
(R346). -/
def fpRound (fmt : BitVec 1) (mode : Rm) (ins : List FVal) (v : FVal) : FRes :=
  let r := roundVal (fpFmt fmt) mode .byMode v
  { r with nv := ins.any FVal.isSignalling || (v.isNan && !(ins.any FVal.isNan)) }

end Sys2Proof.Machine
end

