-- ==== Sys2Proof/Machine/FloatScalar.lean ====
section
/-! DEFINITION. Scalar floating point (R345 to R348). -/

namespace Sys2Proof.Machine

/-- An FP instruction completes: its result written zero-extended, its flags ORed into fflags (R36, R345). -/
def State.fpResult (s : State) (d : BitVec 5) (bits : Nat) (flags : BitVec 5) : State :=
  s.complete ((s.me.raise flags).setG d (dw bits))

/-- An FP form that rounds: illegal where its mode is none (R60). -/
def State.fpOp (s : State) (i : Instr) (d : BitVec 5) (rm : BitVec 3) (f : Rm → FRes) : Out :=
  match s.me.rounding rm with
  | none => .next (s.fault 0x01 (wordOf i))
  | some m => .next (s.fpResult d (f m).bits (f m).flags)

/-- FADD (R346). -/
def execFadd (d a b : BitVec 5) (rm : BitVec 3) (fmt : BitVec 1) (s : State) : Out :=
  let x := fpVal fmt (s.me.g a)
  let y := fpVal fmt (s.me.g b)
  s.fpOp (.fadd d a b rm fmt) d rm fun m => fpRound fmt m [x, y] (fsum m [x, y])

/-- FSUB (R346). -/
def execFsub (d a b : BitVec 5) (rm : BitVec 3) (fmt : BitVec 1) (s : State) : Out :=
  let x := fpVal fmt (s.me.g a)
  let y := fpVal fmt (s.me.g b)
  s.fpOp (.fsub d a b rm fmt) d rm fun m => fpRound fmt m [x, y] (fsum m [x, y.negate])

/-- FMUL (R346). -/
def execFmul (d a b : BitVec 5) (rm : BitVec 3) (fmt : BitVec 1) (s : State) : Out :=
  let x := fpVal fmt (s.me.g a)
  let y := fpVal fmt (s.me.g b)
  s.fpOp (.fmul d a b rm fmt) d rm fun m => fpRound fmt m [x, y] (x.mul y)

/-- FDIV (R346). -/
def execFdiv (d a b : BitVec 5) (rm : BitVec 3) (fmt : BitVec 1) (s : State) : Out :=
  let x := fpVal fmt (s.me.g a)
  let y := fpVal fmt (s.me.g b)
  s.fpOp (.fdiv d a b rm fmt) d rm fun m =>
    { fpRound fmt m [x, y] (x.div y) with dz := y.isZero && !x.isZero && !x.isInf && !x.isNan }

/-- FSQRT (R346). -/
def execFsqrt (d a : BitVec 5) (rm : BitVec 3) (fmt : BitVec 1) (s : State) : Out :=
  let x := fpVal fmt (s.me.g a)
  s.fpOp (.fsqrt d a rm fmt) d rm fun m => fpRound fmt m [x] x.sqrt

/-- FFMA: the product and the addend rounded once; 0 × ∞ is invalid whatever the addend (R71, R346). -/
def execFfma (d a b : BitVec 5) (rm : BitVec 3) (fmt : BitVec 1) (s : State) : Out :=
  let x := fpVal fmt (s.me.g a)
  let y := fpVal fmt (s.me.g b)
  let z := fpVal fmt (s.me.g d)
  let bad := (x.isInf && y.isZero) || (x.isZero && y.isInf)
  s.fpOp (.ffma d a b rm fmt) d rm fun m =>
    let r := fpRound fmt m [x, y, z] (fsum m [x.mul y, z])
    { r with nv := r.nv || bad }

/-- The NV flag alone, or none. -/
def nvIf (b : Bool) : BitVec 5 := if b then 16 else 0

/-- FMIN (R54, R347). -/
def execFmin (d a b : BitVec 5) (fmt : BitVec 1) (s : State) : Out :=
  let x := s.me.g a
  let y := s.me.g b
  .next (s.fpResult d (fminBits (fpFmt fmt) (fpBits fmt x) (fpBits fmt y))
    (nvIf ((fpVal fmt x).isSignalling || (fpVal fmt y).isSignalling)))

/-- FMAX (R54, R347). -/
def execFmax (d a b : BitVec 5) (fmt : BitVec 1) (s : State) : Out :=
  let x := s.me.g a
  let y := s.me.g b
  .next (s.fpResult d (fmaxBits (fpFmt fmt) (fpBits fmt x) (fpBits fmt y))
    (nvIf ((fpVal fmt x).isSignalling || (fpVal fmt y).isSignalling)))

/-- FEQ: NV only for a signalling NaN (R347). -/
def execFeq (d a b : BitVec 5) (fmt : BitVec 1) (s : State) : Out :=
  let x := fpVal fmt (s.me.g a)
  let y := fpVal fmt (s.me.g b)
  .next (s.fpResult d (b2n (x.eq y)) (nvIf (x.isSignalling || y.isSignalling)))

/-- FLT: NV for any NaN (R347). -/
def execFlt (d a b : BitVec 5) (fmt : BitVec 1) (s : State) : Out :=
  let x := fpVal fmt (s.me.g a)
  let y := fpVal fmt (s.me.g b)
  .next (s.fpResult d (b2n (x.lt y)) (nvIf (x.isNan || y.isNan)))

/-- FLE: NV for any NaN (R347). -/
def execFle (d a b : BitVec 5) (fmt : BitVec 1) (s : State) : Out :=
  let x := fpVal fmt (s.me.g a)
  let y := fpVal fmt (s.me.g b)
  .next (s.fpResult d (b2n (x.lt y || x.eq y)) (nvIf (x.isNan || y.isNan)))

/-- The bit FCLASS sets (R347). -/
def classBit (f : FFmt) (bits : Nat) : Nat :=
  let neg := bitN bits (f.ew + f.mw) = 1
  let sub := field bits (f.ew + f.mw - 1) f.mw = 0
  match unpack f bits with
  | .nan sn => if sn then 8 else 9
  | .inf n => if n then 0 else 7
  | .fin _ m _ =>
    if m = 0 then (if neg then 3 else 4)
    else if sub then (if neg then 2 else 5)
    else (if neg then 1 else 6)

/-- FCLASS (R347). -/
def execFclass (d a : BitVec 5) (fmt : BitVec 1) (s : State) : Out :=
  .next (s.fpResult d (2 ^ classBit (fpFmt fmt) (fpBits fmt (s.me.g a))) 0)

/-- FCVT_FLOAT: the format bit names the destination, the source is the other format (R348). -/
def execFcvtFloat (d a : BitVec 5) (rm : BitVec 3) (fmt : BitVec 1) (s : State) : Out :=
  let x := fpVal (~~~fmt) (s.me.g a)
  s.fpOp (.fcvtFloat d a rm fmt) d rm fun m => fpRound fmt m [x] x

/-- FCVT_FROM_L (R348). -/
def execFcvtFromL (d a : BitVec 5) (rm : BitVec 3) (fmt : BitVec 1) (s : State) : Out :=
  let v := (s.me.g a).toInt
  s.fpOp (.fcvtFromL d a rm fmt) d rm fun m => fpRound fmt m [] (.fin (v < 0) v.natAbs 0)

/-- FCVT_FROM_LU (R348). -/
def execFcvtFromLu (d a : BitVec 5) (rm : BitVec 3) (fmt : BitVec 1) (s : State) : Out :=
  let v := (s.me.g a).toNat
  s.fpOp (.fcvtFromLu d a rm fmt) d rm fun m => fpRound fmt m [] (.fin false v 0)

/-- A float rounded to an integer in [lo, hi], the range compared after rounding: out of range the bound, a NaN 0, with NV
alone; NX where the value differs from the input (R61, R348). -/
def fpToInt (mode : Rm) (lo hi : Int) (v : FVal) : Int × BitVec 5 :=
  match v with
  | .nan _ => (0, 16)
  | .inf n => (if n then lo else hi, 16)
  | .fin n m e =>
    let (r, nx) := roundTo mode n m e 0
    let i : Int := if n then -(r : Int) else r
    if i < lo then (lo, 16) else if hi < i then (hi, 16) else (i, if nx then 1 else 0)

/-- A float-to-integer FCVT: the integer written by its low 64 bits. -/
def State.fpToIntOp (s : State) (i : Instr) (d a : BitVec 5) (rm : BitVec 3) (fmt : BitVec 1) (lo hi : Int) : Out :=
  match s.me.rounding rm with
  | none => .next (s.fault 0x01 (wordOf i))
  | some m =>
    let r := fpToInt m lo hi (fpVal fmt (s.me.g a))
    .next (s.fpResult d (lowBits 64 r.1) r.2)

/-- FCVT_TO_L (R348). -/
def execFcvtToL (d a : BitVec 5) (rm : BitVec 3) (fmt : BitVec 1) (s : State) : Out :=
  s.fpToIntOp (.fcvtToL d a rm fmt) d a rm fmt (-(2 ^ 63)) (2 ^ 63 - 1)

/-- FCVT_TO_LU (R348). -/
def execFcvtToLu (d a : BitVec 5) (rm : BitVec 3) (fmt : BitVec 1) (s : State) : Out :=
  s.fpToIntOp (.fcvtToLu d a rm fmt) d a rm fmt 0 (2 ^ 64 - 1)

/-- FCVT_TO_W: sign-extended (R348). -/
def execFcvtToW (d a : BitVec 5) (rm : BitVec 3) (fmt : BitVec 1) (s : State) : Out :=
  s.fpToIntOp (.fcvtToW d a rm fmt) d a rm fmt (-(2 ^ 31)) (2 ^ 31 - 1)

/-- FCVT_TO_WU: zero-extended (R348). -/
def execFcvtToWu (d a : BitVec 5) (rm : BitVec 3) (fmt : BitVec 1) (s : State) : Out :=
  s.fpToIntOp (.fcvtToWu d a rm fmt) d a rm fmt 0 (2 ^ 32 - 1)

end Sys2Proof.Machine
end

