-- ==== Sys2Proof/Machine/Gen.lean ====
section
/-! DEFINITION. The egress hold queue (R302 to R305), the scrubber (R312, R313), and what answers a streaming agent (R143, R149,
R239). -/

namespace Sys2Proof.Machine

/-! ### Hold queue (R302 to R305) -/

/-- The fields of a key (R304). -/
def keyDomain (k : Dword) : Nat := field k.toNat 39 32
def keySeq (k : Dword) : Nat := field k.toNat 31 0

def HoldEntry.of (e : HoldEntry) (domain seq : Nat) : Bool := e.domain = domain && e.seq = seq

/-- A posted GEN form (R123, R304): its tag, its release, its completion. -/
def State.genPosted (s : State) (d : BitVec 5) (f : State → Except EpFail Dword × State) : State :=
  let st := s.me
  let (tag, st1) := st.issueTag false
  let ids := s.drainPoint st.core 2
  let r := f ((s.complete (st1.setG d (tag.zeroExtend 64))).startDrain st.core ids)
  r.2.windowPut st.core st.sid tag (postedWord r.1)

/-- A form's refusals (R302, R305), and what it does where there are none. -/
def State.withDomain (s : State) (ctx : Nat) (key : Dword) (k : Nat → Nat → Except EpFail Dword × State) : Except EpFail Dword × State :=
  if field key.toNat 63 40 ≠ 0 then (.error (.refuse 0xA4), s)
  else
    match s.gen.domains.get? (keyDomain key) with
    | none => (.error (.refuse 0xA1), s)
    | some d =>
      if !d.configured then (.error (.refuse 0xA1), s)
      else if d.checker ≠ ctx then (.error (.refuse 0xA0), s)
      else k (keyDomain key) (keySeq key)

/-- Held entries of a key at or below p, released (R305). -/
def State.holdRelease (s : State) (p : Dword) (domain seq : Nat) : Except EpFail Dword × State :=
  let hit (e : HoldEntry) : Bool := e.of domain seq && !e.released && decide (e.position ≤ p.toNat)
  (.ok (dw ((s.gen.hold.filter hit).length * 2 ^ 8)),
   s.setGen { s.gen with hold := s.gen.hold.map fun (e : HoldEntry) => if hit e then { e with released := true } else e })

/-- Held entries of a key at or above p, dropped; the next accepted position becomes p where it was higher (R305). -/
def State.holdDrop (s : State) (p : Dword) (domain seq : Nat) : Except EpFail Dword × State :=
  let hit (e : HoldEntry) : Bool := e.of domain seq && !e.released && decide (p.toNat ≤ e.position)
  let g := { s.gen with hold := s.gen.hold.filter fun e => !hit e }
  (.ok (dw ((s.gen.hold.filter hit).length * 2 ^ 8)),
   s.setGen (if p.toNat < g.nextPosition domain seq then g.setNext domain seq p.toNat else g))

/-- The entry of the lowest position. -/
def oldestHeld : List HoldEntry → Option HoldEntry
  | [] => none
  | e :: es =>
    match oldestHeld es with
    | none => some e
    | some x => if x.position < e.position then some x else some e

/-- The held entry at p, or the oldest held one (R305). -/
def State.holdPeek (s : State) (p : Dword) (domain seq : Nat) : Except EpFail Dword × State :=
  match oldestHeld (s.gen.hold.filter fun e => e.of domain seq && !e.released && (p = allOnes || e.position = p.toNat)) with
  | none => (.error (.refuse 0xA2), s)
  | some e => (.ok (dw (e.position * 2 ^ 32 + e.token * 2 ^ 14)), s)

/-- HREL (R305). -/
def execHrel (d a b : BitVec 5) (s : State) : Out :=
  let st := s.me
  s.unlessScout d (s.genPosted d fun s1 => s1.withDomain st.ctx (st.g a) (s1.holdRelease (st.g b)))

/-- HDROP (R305). -/
def execHdrop (d a b : BitVec 5) (s : State) : Out :=
  let st := s.me
  s.unlessScout d (s.genPosted d fun s1 => s1.withDomain st.ctx (st.g a) (s1.holdDrop (st.g b)))

/-- HPEEK (R305). -/
def execHpeek (d a b : BitVec 5) (s : State) : Out :=
  let st := s.me
  s.unlessScout d (s.genPosted d fun s1 => s1.withDomain st.ctx (st.g a) (s1.holdPeek (st.g b)))

/-- HOLD_ENTRY_RELEASE (R303): the entry of a sequence's lowest position, once released, goes to its domain's ring. -/
def execHoldEntryRelease (domain : Nat) (seq : Nat) (s : State) : Out :=
  match oldestHeld (s.gen.hold.filter fun e => e.of domain seq) with
  | none => .next s
  | some e =>
    if e.released then
      let d := s.gen.domains.getD domain {}
      .next ((s.setGen { s.gen with hold := s.gen.hold.erase e }).ringWrite d.producer d.ring
        (leBytes 16 (Config.holdRecord domain seq e.position e.token).toNat))
    else .next s

/-! ### Scrubbing (R312, R313) -/

/-- The lines of main memory of translated pieces poisoned. -/
def State.poisonPieces (s : State) (ps : List (Nat × Nat × Nat)) : State :=
  let lines := (ps.filter fun p => isMain p.2.1).map fun p => p.2.1 / 128
  s.setSlice { s.slice with poison := lines.filter (fun l => !s.slice.poison.contains l) ++ s.slice.poison }

/-- An entry's page checked against its checksum word (R312, R313). -/
def State.scrub (s : State) (ctx index : Nat) (d : List Dword) : State :=
  let w (i : Nat) : Nat := (d.getD i 0).toNat
  let data := field (w 0) 55 0
  let scales := field (w 2) 55 0
  let dn := field (w 1) 31 0
  let sn := field (w 1) 63 32
  match s.engineRead ctx data dn, s.engineRead ctx scales sn, s.engineRead ctx (field (w 3) 55 0) 4 with
  | .ok b1, .ok b2, .ok b3 =>
    let sum := (crc32c (b1 ++ b2)).toNat
    let stored := leNat b3
    if sum = stored then s
    else
      match s.engineRange ctx data dn .read, s.engineRange ctx scales sn .read with
      | .ok p1, .ok p2 =>
        (s.poisonPieces (p1 ++ p2)).ringWrite ctx (s.ctx ctx).scrubRing
          (leBytes 8 index ++ leBytes 8 data ++ leBytes 8 (stored * 2 ^ 32 + sum) ++ leBytes 8 s.tns)
      | _, _ => s
  | _, _, _ => s

/-- SCRUB_ENTRY (R312). -/
def execScrubEntry (ctx : Nat) (index : Nat) (s : State) : Out :=
  let x := s.ctx ctx
  if !x.created || x.dead || !decide (index < x.scrubCount) then .next s
  else
    match s.engineDwords ctx (x.scrubList.toNat + 64 * index) 8 with
    | .error _ => .next s
    | .ok d => if bitN (d.getD 4 0).toNat 63 = 1 then .next (s.scrub ctx index d) else .next s

/-! ### Answers to streaming agents (R143, R149, R239) -/

/-- A command's memory requests answered. -/
def State.commandReply (s : State) (uid : Nat) : State :=
  match s.cmds.find? (·.uid = uid) with
  | none => s
  | some c =>
    if c.stage ≠ .running || s.stopped c.core c.ctx then s
    else
      match portOpOf c.opcode, c.opcode with
      | some op, _ => s.portReply op c
      | none, _ =>
        match decodeCommand c.bits with
        | .ok (.cpy f) => s.copyReply false f c
        | .ok (.cpyl f) => s.copyReply true f c
        | .ok (.fil f) => s.fillReply f c
        | .ok (.colAllReduce f) => s.colReply .allReduce f c
        | .ok (.colAllGather f) => s.colReply .allGather f c
        | .ok (.colReduceScatter f) => s.colReply .reduceScatter f c
        | _ => s

/-- Whether a feed's next token may be placed now. -/
def State.feedReady (s : State) (core : Nat) (f : PortFeed) : Option (Nat × Nat) :=
  if s.stopped core f.ctx then none
  else
    match (s.core core).portLink f.ctx (.input f.port) with
    | none => none
    | some (region, link) => if s.feedable core f.port region link (.feed f.id) then some (region, link) else none

/-- The budget of a kernel's row runs from its first token (R295). -/
def State.startBudget (s : State) (core slot : Nat) : State :=
  match s.iter core with
  | none => s
  | some it =>
    let sl := it.slot slot
    match sl.kernel with
    | none => s
    | some k =>
      if k.ends.isSome then s
      else s.setIter core (it.setSlot slot { sl with kernel := some { k with ends := some ((s.core core).cyc + it.budget slot) } })

/-- A feed's tokens all placed: a mask is answered (R311). -/
def State.feedOver (s : State) (f : PortFeed) : State :=
  match f.for_ with
  | .mask j => s.answer j.asker false (.ok (dw (j.allowed * 2 ^ 8)))
  | _ => s

/-- The next token of a port's feeds placed (R239). -/
def State.feedReply (s : State) (core port : Nat) : State :=
  let c := s.core core
  match c.feeds.find? fun f => f.port = port && (s.feedReady core f).isSome with
  | none => s
  | some f =>
    match s.feedReady core f, f.tokens with
    | some (region, link), t :: rest =>
      let s1 := s.feed core port region link (.feed f.id) t
      let s2 := match f.for_ with
        | .kernel slot => if t.kind = Kind.control then s1.startBudget core slot else s1
        | _ => s1
      let keep (c : CoreState) : CoreState :=
        if rest.isEmpty then { c with feeds := c.feeds.filter (·.id ≠ f.id) }
        else { c with feeds := c.feeds.map fun (x : PortFeed) => if x.id = f.id then { x with tokens := rest } else x }
      let s3 := s2.modCore core keep
      if rest.isEmpty then s3.feedOver f else s3
    | _, _ => s

/-- STREAM_REPLY (R149). -/
def execStreamReply (core : Nat) (agent : StreamAgent) (s : State) : Out :=
  match agent with
  | .command uid => .next (s.commandReply uid)
  | .cell region cell => .next (s.cellReply ⟨core, region, cell, false⟩)
  | .feed port => .next (s.feedReply core port)

end Sys2Proof.Machine
end

