-- ==== Sys2Proof/Machine/ICache.lean ====
section
/-! DEFINITION. Instruction caches of the cores and of the Rime cores (R88, R185). -/

namespace Sys2Proof.Machine

/-- The 32-bit word at a physical address through an instruction cache of so many lines, the cache afterwards, and the number of
the next free value: a cached word that differs from memory gives its old or its new contents (R185). -/
def icFetch (ic : List ICLine) (m : Memory) (cap pa fresh : Nat) : Nat × List ICLine × Nat :=
  let now := m.readN pa 4
  match ic.find? (·.line = pa / 128) with
  | some l =>
    let old := lineGet l.data (pa % 128) 4
    if old = now then (now, ic, fresh) else (if Config.coin fresh then now else old, ic, fresh + 1)
  | none =>
    let keep := if ic.length < cap then ic else ic.eraseIdx (Config.pick fresh % cap)
    (now, { line := pa / 128, data := m.line (pa / 128) } :: keep, if ic.length < cap then fresh else fresh + 1)

/-- Whether an instruction cache holds the line of a physical address. -/
def icHolds (ic : List ICLine) (pa : Nat) : Bool := ic.any (·.line = pa / 128)

end Sys2Proof.Machine
end

