-- ==== Sys2Proof/Machine/Riscv.lean ====
section
/-! DEFINITION. RV64IMAC as Rime cores execute it (R88): the base ISA with its M, A and C extensions, decoded from their published
encodings; arithmetic on registers. -/

namespace Sys2Proof.Machine

/-- Register-to-register operations of RV64IM. -/
inductive RvAlu where
  | add
  | sub
  | sll
  | slt
  | sltu
  | xor
  | srl
  | sra
  | or
  | and
  | mul
  | mulh
  | mulhsu
  | mulhu
  | div
  | divu
  | rem
  | remu
  deriving DecidableEq, Repr

/-- Branch conditions. -/
inductive RvCond where
  | eq
  | ne
  | lt
  | ge
  | ltu
  | geu
  deriving DecidableEq, Repr

/-- Atomic memory operations of the A extension. -/
inductive RvAmo where
  | swap
  | add
  | xor
  | and
  | or
  | min
  | max
  | minu
  | maxu
  deriving DecidableEq, Repr

/-- Instructions of RV64IMAC; sizes in bytes, word for the 32-bit forms. -/
inductive RvInstr where
  | lui (rd : Nat) (imm : Dword)
  | auipc (rd : Nat) (imm : Dword)
  | jal (rd : Nat) (off : Dword)
  | jalr (rd rs1 : Nat) (off : Dword)
  | branch (c : RvCond) (rs1 rs2 : Nat) (off : Dword)
  | load (size : Nat) (signed : Bool) (rd rs1 : Nat) (off : Dword)
  | store (size : Nat) (rs1 rs2 : Nat) (off : Dword)
  | opImm (op : RvAlu) (word : Bool) (rd rs1 : Nat) (imm : Dword)
  | op (op : RvAlu) (word : Bool) (rd rs1 rs2 : Nat)
  | fence
  | ecall
  | ebreak
  | lr (size : Nat) (rd rs1 : Nat)
  | sc (size : Nat) (rd rs1 rs2 : Nat)
  | amo (op : RvAmo) (size : Nat) (rd rs1 rs2 : Nat)
  deriving DecidableEq, Repr

/-! ### Decoding -/

/-- The immediates of formats I, S, B, U and J. -/
def immI (w : Nat) : Dword := signExt 12 (field w 31 20)
def immS (w : Nat) : Dword := signExt 12 (field w 31 25 * 2 ^ 5 + field w 11 7)
def immB (w : Nat) : Dword := signExt 13 (bitN w 31 * 2 ^ 12 + bitN w 7 * 2 ^ 11 + field w 30 25 * 2 ^ 5 + field w 11 8 * 2)
def immU (w : Nat) : Dword := signExt 32 (field w 31 12 * 2 ^ 12)
def immJ (w : Nat) : Dword :=
  signExt 21 (bitN w 31 * 2 ^ 20 + field w 19 12 * 2 ^ 12 + bitN w 20 * 2 ^ 11 + field w 30 21 * 2)

def rvCond : Nat → Option RvCond
  | 0 => some .eq
  | 1 => some .ne
  | 4 => some .lt
  | 5 => some .ge
  | 6 => some .ltu
  | 7 => some .geu
  | _ => none

/-- OP-IMM and OP-IMM-32: the operation, by funct3; shifts by the bits above their amount. -/
def rvOpImm (w : Nat) (word : Bool) : Option RvInstr :=
  let rd := field w 11 7
  let rs := field w 19 15
  let sh := dw (if word then field w 24 20 else field w 25 20)
  let top := if word then field w 31 25 else field w 31 26 * 2
  match field w 14 12, top with
  | 0, _ => some (.opImm .add word rd rs (immI w))
  | 1, 0 => some (.opImm .sll word rd rs sh)
  | 5, 0 => some (.opImm .srl word rd rs sh)
  | 5, 0x20 => some (.opImm .sra word rd rs sh)
  | 2, _ => if word then none else some (.opImm .slt false rd rs (immI w))
  | 3, _ => if word then none else some (.opImm .sltu false rd rs (immI w))
  | 4, _ => if word then none else some (.opImm .xor false rd rs (immI w))
  | 6, _ => if word then none else some (.opImm .or false rd rs (immI w))
  | 7, _ => if word then none else some (.opImm .and false rd rs (immI w))
  | _, _ => none

/-- The operation of OP and OP-32, by funct7 and funct3. -/
def rvAlu (f7 f3 : Nat) (word : Bool) : Option RvAlu :=
  match f7, f3 with
  | 0, 0 => some .add
  | 0x20, 0 => some .sub
  | 0, 1 => some .sll
  | 0, 5 => some .srl
  | 0x20, 5 => some .sra
  | 1, 0 => some .mul
  | 1, 4 => some .div
  | 1, 5 => some .divu
  | 1, 6 => some .rem
  | 1, 7 => some .remu
  | 0, 2 => if word then none else some .slt
  | 0, 3 => if word then none else some .sltu
  | 0, 4 => if word then none else some .xor
  | 0, 6 => if word then none else some .or
  | 0, 7 => if word then none else some .and
  | 1, 1 => if word then none else some .mulh
  | 1, 2 => if word then none else some .mulhsu
  | 1, 3 => if word then none else some .mulhu
  | _, _ => none

/-- The AMO of a funct5. -/
def rvAmo : Nat → Option RvAmo
  | 0 => some .add
  | 1 => some .swap
  | 4 => some .xor
  | 8 => some .or
  | 12 => some .and
  | 16 => some .min
  | 20 => some .max
  | 24 => some .minu
  | 28 => some .maxu
  | _ => none

/-- The instruction of a 32-bit word. -/
def rvDecode (w : Nat) : Option RvInstr :=
  let rd := field w 11 7
  let f3 := field w 14 12
  let rs1 := field w 19 15
  let rs2 := field w 24 20
  match field w 6 0 with
  | 0x37 => some (.lui rd (immU w))
  | 0x17 => some (.auipc rd (immU w))
  | 0x6F => some (.jal rd (immJ w))
  | 0x67 => if f3 = 0 then some (.jalr rd rs1 (immI w)) else none
  | 0x63 => (rvCond f3).map fun c => .branch c rs1 rs2 (immB w)
  | 0x03 => if f3 = 7 then none else some (.load (2 ^ (f3 % 4)) (f3 < 4) rd rs1 (immI w))
  | 0x23 => if 4 ≤ f3 then none else some (.store (2 ^ f3) rs1 rs2 (immS w))
  | 0x13 => rvOpImm w false
  | 0x1B => rvOpImm w true
  | 0x33 => (rvAlu (field w 31 25) f3 false).map fun o => .op o false rd rs1 rs2
  | 0x3B => (rvAlu (field w 31 25) f3 true).map fun o => .op o true rd rs1 rs2
  | 0x0F => if f3 = 0 then some .fence else none
  | 0x73 => if w = 0x73 then some .ecall else if w = 0x100073 then some .ebreak else none
  | 0x2F =>
    if f3 = 2 || f3 = 3 then
      let n := 2 ^ f3
      match field w 31 27 with
      | 2 => if rs2 = 0 then some (.lr n rd rs1) else none
      | 3 => some (.sc n rd rs1 rs2)
      | f => (rvAmo f).map fun o => .amo o n rd rs1 rs2
    else none
  | _ => none

/-! ### Compressed words -/

/-- The instruction of a 16-bit word of quadrant 0. -/
def rvc0 (w : Nat) : Option RvInstr :=
  let rd := 8 + field w 4 2
  let rs := 8 + field w 9 7
  let u4 := field w 12 10 * 8 + bitN w 6 * 4 + bitN w 5 * 64
  let u8 := field w 12 10 * 8 + field w 6 5 * 64
  match field w 15 13 with
  | 0 =>
    let imm := field w 12 11 * 16 + field w 10 7 * 64 + bitN w 6 * 4 + bitN w 5 * 8
    if imm = 0 then none else some (.opImm .add false rd 2 (dw imm))
  | 2 => some (.load 4 true rd rs (dw u4))
  | 3 => some (.load 8 true rd rs (dw u8))
  | 6 => some (.store 4 rs rd (dw u4))
  | 7 => some (.store 8 rs rd (dw u8))
  | _ => none

/-- The arithmetic forms of quadrant 1, funct3 4. -/
def rvcArith (w : Nat) : Option RvInstr :=
  let rd := 8 + field w 9 7
  let rs2 := 8 + field w 4 2
  let sh := dw (bitN w 12 * 32 + field w 6 2)
  match field w 11 10 with
  | 0 => some (.opImm .srl false rd rd sh)
  | 1 => some (.opImm .sra false rd rd sh)
  | 2 => some (.opImm .and false rd rd (signExt 6 (bitN w 12 * 32 + field w 6 2)))
  | _ =>
    match bitN w 12, field w 6 5 with
    | 0, 0 => some (.op .sub false rd rd rs2)
    | 0, 1 => some (.op .xor false rd rd rs2)
    | 0, 2 => some (.op .or false rd rd rs2)
    | 0, _ => some (.op .and false rd rd rs2)
    | _, 0 => some (.op .sub true rd rd rs2)
    | _, 1 => some (.op .add true rd rd rs2)
    | _, _ => none

/-- The instruction of a 16-bit word of quadrant 1. -/
def rvc1 (w : Nat) : Option RvInstr :=
  let rd := field w 11 7
  let imm := signExt 6 (bitN w 12 * 32 + field w 6 2)
  let off := signExt 9 (bitN w 12 * 256 + field w 11 10 * 8 + field w 6 5 * 64 + field w 4 3 * 2 + bitN w 2 * 32)
  match field w 15 13 with
  | 0 => some (.opImm .add false rd rd imm)
  | 1 => if rd = 0 then none else some (.opImm .add true rd rd imm)
  | 2 => some (.opImm .add false rd 0 imm)
  | 3 =>
    if imm = 0 then none
    else if rd = 2 then
      some (.opImm .add false 2 2 (signExt 10 (bitN w 12 * 512 + bitN w 6 * 16 + bitN w 5 * 64 + field w 4 3 * 128 + bitN w 2 * 32)))
    else some (.lui rd (signExt 18 (bitN w 12 * 2 ^ 17 + field w 6 2 * 2 ^ 12)))
  | 4 => rvcArith w
  | 5 =>
    some (.jal 0 (signExt 12 (bitN w 12 * 2048 + bitN w 11 * 16 + field w 10 9 * 256 + bitN w 8 * 1024 + bitN w 7 * 64
      + bitN w 6 * 128 + field w 5 3 * 2 + bitN w 2 * 32)))
  | 6 => some (.branch .eq (8 + field w 9 7) 0 off)
  | _ => some (.branch .ne (8 + field w 9 7) 0 off)

/-- The instruction of a 16-bit word of quadrant 2. -/
def rvc2 (w : Nat) : Option RvInstr :=
  let rd := field w 11 7
  let rs2 := field w 6 2
  match field w 15 13 with
  | 0 => some (.opImm .sll false rd rd (dw (bitN w 12 * 32 + rs2)))
  | 2 => if rd = 0 then none else some (.load 4 true rd 2 (dw (bitN w 12 * 32 + field w 6 4 * 4 + field w 3 2 * 64)))
  | 3 => if rd = 0 then none else some (.load 8 true rd 2 (dw (bitN w 12 * 32 + field w 6 5 * 8 + field w 4 2 * 64)))
  | 4 =>
    if bitN w 12 = 0 then
      (if rs2 ≠ 0 then some (.op .add false rd 0 rs2) else if rd = 0 then none else some (.jalr 0 rd 0))
    else if rs2 ≠ 0 then some (.op .add false rd rd rs2)
    else if rd = 0 then some .ebreak
    else some (.jalr 1 rd 0)
  | 6 => some (.store 4 2 rs2 (dw (field w 12 9 * 4 + field w 8 7 * 64)))
  | 7 => some (.store 8 2 rs2 (dw (field w 12 10 * 8 + field w 9 7 * 64)))
  | _ => none

/-- The instruction of a 16-bit word. -/
def rvDecodeC (w : Nat) : Option RvInstr :=
  match w % 4 with
  | 0 => rvc0 w
  | 1 => rvc1 w
  | _ => rvc2 w

/-! ### Arithmetic -/

/-- A 64-bit operation. -/
def RvAlu.on64 (op : RvAlu) (x y : Dword) : Dword :=
  match op with
  | .add => x + y
  | .sub => x - y
  | .sll => x <<< (y.toNat % 64)
  | .slt => if x.slt y then 1 else 0
  | .sltu => if x.ult y then 1 else 0
  | .xor => x ^^^ y
  | .srl => x >>> (y.toNat % 64)
  | .sra => x.sshiftRight (y.toNat % 64)
  | .or => x ||| y
  | .and => x &&& y
  | .mul => x * y
  | .mulh => dw (lowBits 64 (x.toInt * y.toInt / 2 ^ 64))
  | .mulhsu => dw (lowBits 64 (x.toInt * (y.toNat : Int) / 2 ^ 64))
  | .mulhu => dw (x.toNat * y.toNat / 2 ^ 64)
  | .div => if y = 0 then allOnes else x.sdiv y
  | .divu => if y = 0 then allOnes else x / y
  | .rem => if y = 0 then x else x.srem y
  | .remu => if y = 0 then x else x % y

/-- A 32-bit operation, its result sign-extended. -/
def RvAlu.on32 (op : RvAlu) (x y : Dword) : Dword :=
  let a : BitVec 32 := x.truncate 32
  let b : BitVec 32 := y.truncate 32
  let r : BitVec 32 := match op with
    | .sub => a - b
    | .sll => a <<< (b.toNat % 32)
    | .srl => a >>> (b.toNat % 32)
    | .sra => a.sshiftRight (b.toNat % 32)
    | .mul => a * b
    | .div => if b = 0 then 0xFFFFFFFF else a.sdiv b
    | .divu => if b = 0 then 0xFFFFFFFF else a / b
    | .rem => if b = 0 then a else a.srem b
    | .remu => if b = 0 then a else a % b
    | _ => a + b
  r.signExtend 64

def RvAlu.run (op : RvAlu) (word : Bool) (x y : Dword) : Dword := if word then op.on32 x y else op.on64 x y

def RvCond.holds (c : RvCond) (x y : Dword) : Bool :=
  match c with
  | .eq => x = y
  | .ne => x ≠ y
  | .lt => x.slt y
  | .ge => !x.slt y
  | .ltu => x.ult y
  | .geu => !x.ult y

end Sys2Proof.Machine
end

