-- ==== Sys2Proof/Machine/Memx.lean ====
section
/-! DEFINITION. MEMX: prefetch, cache maintenance, pins and locks (R186 to R188, R195); atomics as they leave the core (R85,
R86, R196). -/

namespace Sys2Proof.Machine

/-- The checks of the faulting MEMX forms (R195). -/
def State.memxAccess (s : State) (va : Dword) (k : Nat → State) : State :=
  if s.inStrata s.me.ctx va.toNat then s.fault 0x04 va
  else s.access va .read fun pa => if isMain pa then k (pa / 128) else s.fault 0x04 va

/-- A prefetch of a line whose address is known: requested if absent (R195). -/
def State.prefetchLine (s : State) (core ctx : Nat) (va : Dword) (pa : Nat) : State :=
  if isMain pa && !s.inStrata ctx va.toNat && ((s.core core).l1Valid (pa / 128)).isNone then
    s.modCore core fun c => c.request (pa / 128) ctx (lineVa va) .warm none
  else s

/-- PF (R195): no fault; a TLB miss is walked by the die without the strand. -/
def execPf (a : BitVec 5) (s : State) : Out :=
  let st := s.me
  let va := st.g a
  if 2 ^ 56 ≤ va.toNat then .next s.done
  else
    match s.tlbFind st.core st.ctx va.toNat with
    | some e =>
      if granted e.pte .read then .next (s.prefetchLine st.core st.ctx va (e.phys va.toNat)).done else .next s.done
    | none =>
      let s1 := s.modCore st.core fun c => { c with pfWaits := c.pfWaits ++ [{ ctx := st.ctx, va := va }] }
      .next (s1.joinWalk (dieOf st.core) st.ctx va.toNat (.prefetch st.core va)).done

/-- The drain of a line's entry (R195). -/
def State.drainLine (s : State) (core line : Nat) : State :=
  s.startDrain core ((s.core core).cb.filterMap fun e => if e.line = line then some e.id else none)

/-- FLSH (R195). -/
def execFlsh (a : BitVec 5) (s : State) : Out :=
  if s.me.scout then .next s.done
  else .next (s.memxAccess (s.me.g a) fun line => (s.drainLine s.me.core line).done)

/-- INVL: the entry drained, the line out of both caches, stale where pinned (R195). -/
def execInvl (a : BitVec 5) (s : State) : Out :=
  let core := s.me.core
  if s.me.scout then .next s.done
  else .next (s.memxAccess (s.me.g a) fun line =>
    ((s.drainLine core line).modCore core fun c =>
      { c.l1Drop line with icache := c.icache.filter (·.line ≠ line) }).done)

/-- The status of PIN (R188), its checks in the order of the codes. -/
def State.pinStatus (s : State) (core ctx line : Nat) : Nat :=
  let c := s.core core
  match (c.l1.find? (·.line = line)).bind (·.pin) with
  | some o => if o = ctx then 0x01 else 0x02
  | none =>
    if 12 ≤ (c.l1.filter fun l => l1Set l.line = l1Set line && l.pin.isSome).length then 0x03
    else if (s.ctx ctx).pinQuota ≤ (c.l1.filter (·.pin = some ctx)).length then 0x04
    else 0x00

/-- A line pinned: in its way, or in a way reserved for the fill it requests (R186). -/
def CoreState.pinLine (c : CoreState) (line ctx pick : Nat) (va : Dword) : CoreState :=
  if c.l1.any (·.line = line) then
    { c with l1 := c.l1.map fun (l : L1Line) => if l.line = line then { l with pin := some ctx } else l }
  else
    let c1 := c.l1Room line pick
    { c1 with l1 := { line := line, data := 0, stale := true, pin := some ctx } :: c1.l1 }.request line ctx (lineVa va) .warm none

/-- PIN (R186, R188). -/
def execPin (d a : BitVec 5) (s : State) : Out :=
  let st := s.me
  let va := st.g a
  if st.scout then .next (s.result d 0)
  else .next (s.memxAccess va fun line =>
    let code := s.pinStatus st.core st.ctx line
    if code = 0x00 then
      let c := s.choose 20
      (c.2.modCore st.core fun x => x.pinLine line st.ctx c.1 va).result d 0
    else s.result d (dw code))

/-- UNPIN (R188). A stale line that loses its pin has no data to keep. -/
def execUnpin (d a : BitVec 5) (s : State) : Out :=
  let st := s.me
  if st.scout then .next (s.result d 0)
  else .next (s.memxAccess (st.g a) fun line =>
    match ((s.core st.core).l1.find? (·.line = line)).bind (·.pin) with
    | none => s.result d 0x05
    | some o =>
      if o = st.ctx then
        (s.modCore st.core fun c =>
          { c with l1 := c.l1.filterMap fun (l : L1Line) =>
              if l.line = line then (if l.stale then none else some { l with pin := none }) else some l }).result d 0x00
      else s.result d 0x06)

/-- An operation sent to a home slice, its strand suspended until it returns (R84, R195). -/
def State.sliceOp (s : State) (d : BitVec 5) (va : Dword) (pa : Nat) (op : SliceOp) (after : Option Nat) : State :=
  let st := s.me
  s.suspend st d .completion .nothing fun s1 t =>
    (s1.startDrain st.core after.toList).setSlice { s1.slice with
      reqs := s1.slice.reqs ++ [{ id := s1.slice.nextId, core := st.core, sid := st.sid, tag := t, ctx := st.ctx, task := st.task,
                                  va := va, pa := pa, op := op, after := after }]
      nextId := s1.slice.nextId + 1 }

/-- LOCK (R81, R83, R195). -/
def execLock (d a : BitVec 5) (s : State) : Out :=
  let va := s.me.g a
  if s.me.scout then .next (s.result d 0) else .next (s.memxAccess va fun line => s.sliceOp d va (128 * line) .lock none)

/-- UNLOCK (R83, R195). -/
def execUnlock (d a : BitVec 5) (s : State) : Out :=
  let va := s.me.g a
  if s.me.scout then .next (s.result d 0) else .next (s.memxAccess va fun line => s.sliceOp d va (128 * line) .unlock none)

/-! ### Atomics -/

/-- The value an atomic writes, none where it writes nothing (R84). -/
def AtomOp.apply (op : AtomOp) (size : Nat) (m x c : Nat) : Option Nat :=
  let w := 8 * size
  let m := m % 2 ^ w
  let x := x % 2 ^ w
  let c := c % 2 ^ w
  match op with
  | .add => some ((m + x) % 2 ^ w)
  | .and => some (m &&& x)
  | .or => some (m ||| x)
  | .xor => some (m ^^^ x)
  | .min => some (if signedOf w m < signedOf w x then m else x)
  | .max => some (if signedOf w m < signedOf w x then x else m)
  | .minu => some (Nat.min m x)
  | .maxu => some (Nat.max m x)
  | .swp => some x
  | .cas => if m = c then some x else none

/-- The old value as g(d) receives it (R84). -/
def atomOld (size m : Nat) : Dword := if size = 4 then signExt 32 m else dw m

/-- Whether an operation may reach the host window (R85). -/
def AtomOp.hostAllowed : AtomOp → Bool
  | .add => true
  | .swp => true
  | .cas => true
  | _ => false

/-- A host-window atomic: one AtomicOp, its completion on the way (R85). -/
def State.hostAtomic (s : State) (d : BitVec 5) (pa : Nat) (op : AtomOp) (size : Nat) (x c : Dword) : State :=
  let st := s.me
  let m := s.mem.readN pa size
  s.suspend st d .completion .nothing fun s1 t =>
    let s2 := match op.apply size m x.toNat c.toNat with
      | some v => s1.store pa (leBytes size v)
      | none => s1
    s2.sendCompletion { core := st.core, sid := st.sid, space := 2, tag := t, value := atomOld size m }

/-- An atomic (R85, R86, R196). A scout drops it and writes 0. -/
def State.atomic (s : State) (op : AtomOp) (d a b : BitVec 5) (scope : BitVec 2) (size : BitVec 1) : Out :=
  let st := s.me
  let va := st.g a
  let n := if size = 1 then 8 else 4
  let x := st.g b
  let c := st.g d
  if st.scout then .next (s.result d 0)
  else if va.toNat % n ≠ 0 then .next (s.fault 0x02 va)
  else if s.inStrata st.ctx va.toNat then .next (s.fault 0x04 va)
  else .next (s.access va .atomic fun pa =>
    if isHost pa then
      if scope = 3 && op.hostAllowed && s.host.atomicOps then s.hostAtomic d pa op n x c else s.fault 0x04 va
    else s.sliceOp d va pa (.atom op n x c) (((s.core st.core).entryOf (pa / 128)).map (·.id)))

/-- ATOM_ADD (R196). -/
def execAtomAdd (d a b : BitVec 5) (scope : BitVec 2) (size : BitVec 1) (s : State) : Out := s.atomic .add d a b scope size

/-- ATOM_AND (R196). -/
def execAtomAnd (d a b : BitVec 5) (scope : BitVec 2) (size : BitVec 1) (s : State) : Out := s.atomic .and d a b scope size

/-- ATOM_OR (R196). -/
def execAtomOr (d a b : BitVec 5) (scope : BitVec 2) (size : BitVec 1) (s : State) : Out := s.atomic .or d a b scope size

/-- ATOM_XOR (R196). -/
def execAtomXor (d a b : BitVec 5) (scope : BitVec 2) (size : BitVec 1) (s : State) : Out := s.atomic .xor d a b scope size

/-- ATOM_MIN (R196). -/
def execAtomMin (d a b : BitVec 5) (scope : BitVec 2) (size : BitVec 1) (s : State) : Out := s.atomic .min d a b scope size

/-- ATOM_MAX (R196). -/
def execAtomMax (d a b : BitVec 5) (scope : BitVec 2) (size : BitVec 1) (s : State) : Out := s.atomic .max d a b scope size

/-- ATOM_MINU (R196). -/
def execAtomMinu (d a b : BitVec 5) (scope : BitVec 2) (size : BitVec 1) (s : State) : Out := s.atomic .minu d a b scope size

/-- ATOM_MAXU (R196). -/
def execAtomMaxu (d a b : BitVec 5) (scope : BitVec 2) (size : BitVec 1) (s : State) : Out := s.atomic .maxu d a b scope size

/-- ATOM_SWP (R196). -/
def execAtomSwp (d a b : BitVec 5) (scope : BitVec 2) (size : BitVec 1) (s : State) : Out := s.atomic .swp d a b scope size

/-- ATOM_CAS (R196). -/
def execAtomCas (d a b : BitVec 5) (scope : BitVec 2) (size : BitVec 1) (s : State) : Out := s.atomic .cas d a b scope size

end Sys2Proof.Machine
end

