-- ==== Sys2Proof/Machine/Strata.lean ====
section
/-! DEFINITION. Fences and versioned memory as strands issue them (R198, R200 to R207). -/

namespace Sys2Proof.Machine

/-- The scope codes that reach past the core. -/
def scopeNat (scope : BitVec 2) : Nat := scope.toNat

/-- FENCE_LD (R207): an acquire. A scout executes it without effect. -/
def execFenceLd (scope : BitVec 2) (s : State) : Out :=
  if s.me.scout then .next s.done else .next (s.acquire s.me.core (scopeNat scope)).done

/-- A FENCE of kind st or all (R207): a drain point, then a wait for it and for the strand's STVs; all then acquires. The
strand's host-window writes leave the part in the step that makes them, so sys waits for no more (R198). -/
def State.fenceStore (s : State) (scope : Nat) (act : OnResume) : State :=
  let st := s.me
  let ids := s.drainPoint st.core scope
  if scope = 0 || (ids.isEmpty && s.unackedStvs st.core st.sid == 0) then
    match act with
    | .acquire a => (s.acquire st.core a).done
    | _ => s.done
  else s.suspend st 0 (.drain ids true) act fun s1 _ => s1.startDrain st.core ids

/-- FENCE_ST (R207). A scout executes it without effect. -/
def execFenceSt (scope : BitVec 2) (s : State) : Out :=
  if s.me.scout then .next s.done else .next (s.fenceStore (scopeNat scope) .nothing)

/-- FENCE_ALL (R207). -/
def execFenceAll (scope : BitVec 2) (s : State) : Out :=
  if s.me.scout then .next s.done else .next (s.fenceStore (scopeNat scope) (.acquire (scopeNat scope)))

/-- Whether every response of the strand's window is present (R207). A tag pushed out of the window still counts while its
command runs. -/
def State.answered (s : State) (k : Nat) : Bool :=
  let st := s.strand k
  st.window.all (·.resp.isSome) && (s.streamOf st.stream).isEmpty

/-- FENCE_ENG (R207): waits for the responses of the strand's commands and requests, then acquires. The results of its
long-latency forms are present whenever it executes. -/
def execFenceEng (scope : BitVec 2) (s : State) : Out :=
  let st := s.me
  if st.scout then .next s.done
  else if s.answered s.meKey then .next (s.acquire st.core (scopeNat scope)).done
  else .next (s.suspend st 0 .responses (.acquire (scopeNat scope)) fun s1 _ => s1)

/-- The checks of a strata operation (R204 to R206): alignment, the window, the translation. -/
def State.strataAccess (s : State) (va : Dword) (acc : Access) (k : Nat → State) : State :=
  if va.toNat % 8 ≠ 0 then s.fault 0x02 va
  else if !s.inStrata s.me.ctx va.toNat then s.fault 0x04 va
  else s.access va acc k

/-- An LDV (R205): always long-latency, an acquire at the word's scope when it returns. -/
def State.ldv (s : State) (d a : BitVec 5) (form : LdvForm) : Out :=
  let st := s.me
  let va := st.g a
  if st.scout then .next (s.result d 0)
  else .next (s.strataAccess va .read fun pa =>
    s.suspend st d .completion (.acquire (s.strataScope st.ctx va.toNat)) fun s1 t =>
      s1.setSlice { s1.slice with
        ldvs := s1.slice.ldvs ++ [{ id := s1.slice.nextId, core := st.core, sid := st.sid, tag := t, ctx := st.ctx,
                                    task := st.task, va := va, pa := pa, form := form }]
        nextId := s1.slice.nextId + 1 })

/-- LDV_EQ (R205). -/
def execLdvEq (d a b : BitVec 5) (s : State) : Out := s.ldv d a (.eq (s.me.g b))

/-- LDV_GE (R205). -/
def execLdvGe (d a b : BitVec 5) (s : State) : Out := s.ldv d a (.ge (s.me.g b))

/-- STV (R203, R204): a release at the word's scope; with 8 STVs unacknowledged, a retry. A scout drops it. -/
def execStv (d a : BitVec 5) (imm : BitVec 16) (s : State) : Out :=
  let st := s.me
  let va := st.address a imm
  if st.scout then .next s.done
  else .next (s.strataAccess va .write fun pa =>
    if 8 ≤ s.unackedStvs st.core st.sid then s.retry .stvRoom fun s1 _ => s1
    else
      let scope := s.strataScope st.ctx va.toNat
      let ids := s.drainPoint st.core scope
      ((s.startDrain st.core ids).setSlice { s.slice with
        stvs := s.slice.stvs ++ [{ id := s.slice.nextId, core := st.core, sid := st.sid, ctx := st.ctx, task := st.task,
                                   va := va, pa := pa, value := st.g d, after := ids }]
        nextId := s.slice.nextId + 1 }).done)

/-- RCLM (R206). A scout drops it. -/
def execRclm (a b : BitVec 5) (s : State) : Out :=
  let st := s.me
  let va := st.g a
  if st.scout then .next s.done
  else .next (s.strataAccess va .read fun pa =>
    (s.setSlice { s.slice with
      rclms := s.slice.rclms ++ [{ id := s.slice.nextId, core := st.core, sid := st.sid, ctx := st.ctx, task := st.task,
                                   va := va, pa := pa, v := st.g b }]
      nextId := s.slice.nextId + 1 }).done)

end Sys2Proof.Machine
end

