-- ==== Sys2Proof/Machine/Moraine.lean ====
section
/-! DEFINITION. The Moraine's own steps (R316, R320 to R323, R327, R328): completions accepted, records relaunched, rotation,
parking, scouts that end, strand state that is lost (R319, R388). -/

namespace Sys2Proof.Machine

/-! ### Completions (R320, R321) -/

/-- A record as an accepted completion leaves it: its result, or a trap record with the fault (R320). -/
def Record.accept (r : Record) (c : Completion) : Record :=
  match c.fault with
  | none => { r with result := c.value }
  | some (code, v) =>
    ({ r with kind := .trap, pc := r.ownPc, loop := r.ownLoop, cause := BitVec.ofNat 8 code, result := v, dest := 0, act := .nothing } : Record).sealed

/-- What an atomic's completion does to the issuing core's copy of its line: gone, or overwritten where it is pinned (R86). -/
def State.atomicCopy (s : State) (core : Nat) (line : Option Nat) : State :=
  match line with
  | none => s
  | some l =>
    s.modCore core fun c =>
      if (c.l1.find? (·.line = l)).any (·.pin.isSome) then c.l1Install l (s.mem.line l) 0 else c.l1Drop l

/-- A completion that has reached its core: its record made ready, or discarded (R321). -/
def State.acceptCompletion (s : State) (k : Nat) (c : Completion) : State :=
  let s1 := s.atomicCopy c.core c.line
  match s1.records.get? k with
  | none => s1
  | some r =>
    if r.space = c.space && r.space ≠ 0 && r.tag = c.tag && !r.ready then s1.markReady k fun x => x.accept c else s1

/-- A record whose wait is over without a completion sent to it (R203, R207, R241, R242), and the state then. -/
def State.waitOver (s : State) (k : Nat) (r : Record) : Option State :=
  let core := k / 65536
  let sid := k % 65536
  let ready (b : Bool) : Option State := if b then some (s.markReady k id) else none
  match r.wait with
  | .drain ids _ => ready (s.drained core ids && s.unackedStvs core sid == 0)
  | .responses => ready (s.answered k)
  | .stvRoom => ready (decide (s.unackedStvs core sid < 8))
  | .held => ready (!s.holds core sid)
  | .portRoom port =>
    match (s.core core).portLink r.ctx (.input port) with
    | none => ready (!(s.core core).portAway r.ctx (.input port))
    | some (region, link) => ready (s.feedable core port region link .pwr)
  | .portToken port =>
    let earlier (x : Nat × Record) : Bool := decide (x.2.readyTick < r.readyTick)
    if (s.portWaiters core port).any earlier then none
    else
      match (s.core core).portLink r.ctx (.output port) with
      | none => none
      | some (region, link) => (s.readPort core port region link).map fun x => x.2.markReady k fun y => { y with result := x.1 }
  | _ => none

/-- COMPLETION_ACCEPT (R320, R321): the first completion for a strand, or what its record waits for without one. -/
def execCompletionAccept (core : Nat) (sid : Nat) (s : State) : Out :=
  let k := keyOf core sid
  match s.completions.find? fun c => c.core = core && c.sid = sid with
  | some c => .next ({ s with completions := s.completions.erase c }.acceptCompletion k c)
  | none =>
    match s.records.get? k with
    | none => .next s
    | some r => if r.ready then .next s else .next ((s.waitOver k r).getD s)

/-! ### Relaunch (R47, R320, R322) -/

/-- Resident strands of a core. -/
def State.residents (s : State) (core : Nat) : List (Nat × Strand) :=
  s.strands.filter fun x => x.1 / 65536 = core && (match x.2.place with
    | .resident _ => true
    | .recorded => false)

/-- Whether a core has a free slot (R316). -/
def State.slotFree (s : State) (core : Nat) : Bool := decide ((s.residents core).length < 64)

/-- Ready records of a core whose context occupies it: the strand's key, the strand, the record. -/
def State.readyRecords (s : State) (core : Nat) : List (Nat × Strand × Record) :=
  s.records.filterMap fun x =>
    if x.1 / 65536 = core && x.2.ready && !s.stopped core x.2.ctx then (s.strands.get? x.1).map fun st => (x.1, st, x.2) else none

/-- Whether two strands are siblings of a group (R329). -/
def siblings (a b : Strand) : Bool := a.parent.isSome && a.parent == b.parent

/-- Whether a ready record is relaunched before another (R322). -/
def relaunchedBefore (a b : Nat × Strand × Record) : Bool :=
  let x := a.2.1
  let y := b.2.1
  if x.scout != y.scout then !x.scout
  else if x.prio ≠ y.prio then y.prio < x.prio
  else if a.2.2.readyTick ≠ b.2.2.readyTick then decide (a.2.2.readyTick < b.2.2.readyTick)
  else if siblings x y then x.sibling < y.sibling
  else decide (x.sid < y.sid)

/-- Whether a ready record is passed over for a sibling of an ordered group (R322). -/
def passedOver (rs : List (Nat × Strand × Record)) (a : Nat × Strand × Record) : Bool :=
  a.2.1.ordered && rs.any fun b => siblings a.2.1 b.2.1 && b.2.1.sibling < a.2.1.sibling

/-- The record that a free slot takes (R322). -/
def State.nextRecord (s : State) (core : Nat) : Option (Nat × Strand × Record) :=
  let rs := s.readyRecords core
  (rs.filter fun a => !passedOver rs a).foldl (fun best a => match best with
    | none => some a
    | some b => if relaunchedBefore a b then some a else some b) none

/-- Registers as a relaunch restores them: the dirty ones of the record in ascending number, the others of the launch image. -/
def restoreRegs (mask : Word) (launch : Vector Dword 32) : Nat → List Dword → Vector Dword 32
  | 0, _ => launch
  | n + 1, ds =>
    -- registers 32 - (n + 1) and up, the head of the list for the first dirty one
    let i := 31 - n
    if mask.getLsbD i then (restoreRegs mask launch n ds.tail).setIfInBounds i (ds.headD 0) else restoreRegs mask launch n ds

/-- A strand restored from its record into a slot (R47, R325, R350). -/
def State.restored (s : State) (st : Strand) (r : Record) : Strand :=
  let base : Strand :=
    { st with
      regs := restoreRegs r.dmask (s.launchRegs st.task) 32 r.dirty
      dmask := r.dmask, pc := r.pc, sys := r.sys, ordered := r.ordered, sibling := r.sibling
      place := .resident s.tns
      loop := if r.sys then st.loop.cleared else r.loop.reload
      frame := if r.sys then r.loop.reload else st.frame }
  if r.kind = .trap then base else base.setG r.dest r.result

/-- What a relaunch does before the strand goes on (R86, R128, R151, R205, R207). -/
def State.resumeAct (s : State) (k : Nat) (r : Record) : State :=
  match r.act with
  | .nothing => s
  | .acquire scope => s.acquire (k / 65536) scope
  | .resp tag =>
    let s1 := s.acquire (k / 65536) 2
    (s1.setStrand k ((s1.strand k).retireTag tag)).raiseDeferred k tag r.result

/-- Strand state lost: event 0x04 and containment (R319, R376, R388). -/
def State.strandLost (s : State) (st : Strand) : State :=
  s.contain st.ctx st.task false { kind := 0x04, core := st.core, code := 0x07, value := dw st.sid }

/-- A record relaunched (R47, R319, R320). -/
def State.relaunch (s : State) (k : Nat) (st : Strand) (r : Record) : State :=
  if r.crc ≠ r.crcOf then s.strandLost st
  else
    let st1 := s.restored st r
    let s1 := { s with records := s.records.erase k }.setStrand k st1
    if r.kind = .trap then s1.takeTrap k st1 r.cause.toNat r.result else s1.resumeAct k r

/-- RELAUNCH (R320, R322). -/
def execRelaunch (core : Nat) (s : State) : Out :=
  if !s.slotFree core then .next s
  else
    match s.nextRecord core with
    | none => .next s
    | some (k, st, r) => .next (s.relaunch k st r)

/-! ### Ends of a residence at a boundary (R203, R316, R328) -/

/-- A resident strand deposited at its boundary. -/
def State.depositAt (s : State) (k : Nat) (who : Depositor) (d : SlotPlace → Deposit) : Option State :=
  let st := s.strand k
  (s.slotFor st.core st.ctx who).map fun p => s.deposit k st (d p)

/-- The longest-resident non-scout strand of a core. -/
def State.longestResident (s : State) (core : Nat) : Option Nat :=
  let since (st : Strand) : Nat := match st.place with
    | .resident n => n
    | .recorded => 0
  let best := ((s.residents core).filter (!·.2.scout)).foldl (fun (b : Option (Nat × Strand)) x => match b with
    | none => some x
    | some y => if since x.2 < since y.2 then some x else some y) none
  best.map (·.1)

/-- ROTATION (R316). -/
def execRotation (core : Nat) (s : State) : Out :=
  let due := (s.readyRecords core).any fun x => !x.2.1.scout && decide (x.2.2.readyAt + 10000 ≤ s.tns)
  if s.slotFree core || !due then .next s
  else
    match s.longestResident core with
    | none => .next s
    | some k => .next ((s.depositAt k .forced fun p => { y := true, ownPc := (s.strand k).pc, place := p }).getD s)

/-- Whether a strand occupies a slot. -/
def Strand.isResident (st : Strand) : Bool :=
  match st.place with
  | .resident _ => true
  | .recorded => false

/-- STRAND_PARK (R203): a strand that has had the notice of a held STV leaves its slot until all of them are applied. -/
def execStrandPark (core : Nat) (sid : Nat) (s : State) : Out :=
  let k := keyOf core sid
  match s.strands.get? k with
  | none => .next s
  | some st =>
    if !st.isResident || !st.parked then .next s
    else
      let s1 := s.setStrand k { st with parked := false }
      if s.holds core sid then
        .next ((s1.depositAt k st.depositor fun p => { wait := .held, ownPc := st.pc, place := p }).getD s)
      else .next s1

/-- SCOUT_YIELD (R328): a resident scout ends for a non-scout record. -/
def execScoutYield (core : Nat) (sid : Nat) (s : State) : Out :=
  let k := keyOf core sid
  match s.strands.get? k with
  | none => .next s
  | some st =>
    if st.scout && st.isResident && !s.slotFree core && (s.readyRecords core).any (!·.2.1.scout) then .next (s.endStrand k)
    else .next s

/-- SCOUT_BUDGET_EXPIRY (R327). -/
def execScoutBudgetExpiry (core : Nat) (sid : Nat) (s : State) : Out :=
  let k := keyOf core sid
  match s.strands.get? k with
  | none => .next s
  | some st => if st.scout && st.budget = 0 then .next (s.endStrand k) else .next s

/-- STRAND_STATE_ERROR (R388): an uncorrectable error in a resident strand's registers, or in a record, which then fails its CRC
(R319). -/
def execStrandStateError (core : Nat) (sid : Nat) (s : State) : Out :=
  let k := keyOf core sid
  match s.strands.get? k with
  | none => .next s
  | some st =>
    if st.isResident then .next (s.strandLost st)
    else
      match s.records.get? k with
      | none => .next s
      | some r => .next (s.setRecord k { r with crc := ~~~r.crcOf })

end Sys2Proof.Machine
end

