-- ==== Sys2Proof/Machine/Slices.lean ====
section
/-! DEFINITION. The steps between a core and the slices (R77 to R91, R178 to R182): line fills of the L1, drains of the coalescing
buffer, the slices' own fills and errors, atomics and locks, versioned memory (R201 to R206). -/

namespace Sys2Proof.Machine

/-! ### Coalescing buffer (R181, R182) -/

/-- COALESCING_BUFFER_DRAIN (R182): the part starts an entry's drain. -/
def execCoalescingBufferDrain (core : Nat) (entry : Nat) (s : State) : Out := .next (s.startDrain core [entry])

/-- The VA line of a store through a page, for a line of memory. -/
def ownerVa (page line : Nat) : Dword := dw (page * 2 ^ 16 + 128 * line % 2 ^ 16)

/-- Message events of an entry's owners (R90, R91). -/
def State.ownerMessages (s : State) (line : Nat) : List (Nat × LineMask × Nat) → State
  | [] => s
  | (ctx, mask, page) :: t => (s.messageEvent line ctx (ownerVa page line) mask).ownerMessages line t

/-- An entry's write accepted at its home slice: it frees (R182). -/
def State.acceptEntry (s : State) (core : Nat) (e : CbEntry) (full : Bool) : State :=
  let va := match e.owners with
    | (_, _, page) :: _ => ownerVa page e.line
    | [] => 0
  let ctx := match e.owners with
    | (c, _, _) :: _ => c
    | [] => 0
  let s1 := if full && !s.resident e.line then s.installLine e.line ctx va true else s.markDirty e.line
  let s2 := (s1.storeLine e.line e.data e.mask).modCore core fun (c : CoreState) => { c with cb := c.cb.filter (·.id ≠ e.id) }
  ((s2.ownerMessages e.line e.owners).drainEp).nextIter core

/-- CB_DRAIN_ACCEPT (R182): a partial write to an absent line fills it first (R77). -/
def execCbDrainAccept (core : Nat) (entry : Nat) (s : State) : Out :=
  match (s.core core).cb.find? fun e => e.id = entry && e.draining with
  | none => .next s
  | some e =>
    let full := e.mask = BitVec.allOnes 128
    if s.evictingLine e.line || s.filling e.line then .next s
    else if full || s.resident e.line then .next (s.acceptEntry core e full)
    else
      let o := e.owners.headD (0, 0, 0)
      .next (s.requestLine e.line o.1 (ownerVa o.2.2 e.line))

/-! ### Fills of the L1 (R179, R180) -/

/-- Whether a strand still waits under a suspension tag (R321). -/
def State.awaits (s : State) (core sid : Nat) (tag : BitVec 16) : Bool :=
  match s.records.get? (keyOf core sid) with
  | some r => r.space = 2 && r.tag = tag && !r.ready
  | none => false

/-- A line's data given to the uses that wait for it, in order. -/
def State.useLine (s : State) (core : Nat) (data : Line) : List LineUse → State
  | [] => s
  | .load sid tag _ pa form :: t =>
    (s.sendCompletion { core := core, sid := sid, space := 2, tag := tag,
                        value := form.extend (lineGet data (pa % 128) form.size) }).useLine core data t
  | .descriptor sid tag _ pa :: t =>
    if s.awaits core sid tag then
      let ds := (List.range 8).map fun i => dw (lineGet data (pa % 128 + 8 * i) 8)
      let r := s.register (s.strand (keyOf core sid)).ctx ds
      (r.2.sendCompletion { core := core, sid := sid, space := 2, tag := tag, value := r.1 }).useLine core data t
    else s.useLine core data t
  | .warm :: t => s.useLine core data t

/-- Poison given to the uses of a line: loads fault (R80), the others are dropped (R195). -/
def State.poisonUses (s : State) (core : Nat) : List LineUse → State
  | [] => s
  | .load sid tag va _ _ :: t | .descriptor sid tag va _ :: t =>
    (s.sendCompletion { core := core, sid := sid, space := 2, tag := tag, value := 0, fault := some (0x07, va) }).poisonUses core t
  | .warm :: t => s.poisonUses core t

/-- L1_FILL (R179, R180): the line of a request arrives from its home slice; an absent one is filled there first. -/
def execL1Fill (core : Nat) (line : Nat) (s : State) : Out :=
  let c := s.core core
  match c.lineReqs.find? (·.line = line) with
  | none => .next s
  | some r =>
    if !s.drained core r.after.toList then .next s
    else if !s.resident line then .next (s.requestLine line r.ctx r.va)
    else
      let s1 := s.modCore core fun (x : CoreState) => { x with lineReqs := x.lineReqs.filter (·.line ≠ line) }
      if s.linePoisoned line then .next (s1.poisonUses core r.uses)
      else
        let p := s1.choose 20
        let s2 := p.2.modCore core fun x => x.l1Install line (s.mem.line line) p.1
        let data := match (s2.core core).l1Valid line with
          | some l => l.data
          | none => s.mem.line line
        .next (s2.useLine core data r.uses)

/-! ### Fills and errors of the slice cache (R77, R80, R91, R388, R390) -/

/-- A line poisoned in its slice. -/
def State.poisonLine (s : State) (line : Nat) : State :=
  if s.linePoisoned line then s else s.setSlice { s.slice with poison := line :: s.slice.poison }

/-- A fetched line that has arrived: its fill event, or its install (R91, R92). -/
def State.fillArrived (s : State) (f : Fill) : State :=
  let sl := s.homeOf f.line
  match (if f.depth < 16 then s.handlerFor sl .fill f.ctx f.va.toNat else none) with
  | none => s.installLine f.line f.ctx f.va false
  | some i =>
    let r := s.rime sl
    let ev : RimeEvent := { kind := .fill, entry := i, ctx := f.ctx, depth := f.depth, line := some f.line, va := f.va, data := s.mem.line f.line }
    if r.bound.length < 16 then
      (s.setRime sl { r with bound := r.bound ++ [ev] }).setSlice
        { s.slice with fills := s.slice.fills.map fun (x : Fill) => if x.line = f.line then { x with handler := true } else x }
    else (s.reportDrop sl ev).installLine f.line f.ctx f.va false

/-- SLICE_FILL (R79, R91): the line of a miss arrives; a channel that fails 16 times in a row poisons it and reports (R390). -/
def execSliceFill (line : Nat) (s : State) : Out :=
  match s.slice.fills.find? fun f => f.line = line && !f.handler with
  | none => .next s
  | some f =>
    let s1 := if Config.linkFails s.fresh then
        (s.poisonLine line).setHost { s.host with reports := (2, s.homeOf line) :: s.host.reports }
      else s
    .next ({ s1 with fresh := s1.fresh + 1 }.fillArrived f)

/-- SLICE_CLEAN (R77). -/
def execSliceClean (line : Nat) (s : State) : Out :=
  .next (s.setSlice { s.slice with lines := s.slice.lines.map fun (x : SliceLine) =>
    if x.line = line then { x with dirty := false } else x })

/-- SLICE_UNCORRECTABLE_ERROR (R80): a resident line poisoned. -/
def execSliceUncorrectableError (line : Nat) (s : State) : Out := .next (if s.resident line then s.poisonLine line else s)

/-! ### Atomics and locks (R81 to R87) -/

/-- A request that has left the slice's queue, answered. -/
def State.answerSlice (s : State) (r : SliceReq) (c : Completion) : State :=
  (s.setSlice { s.slice with reqs := s.slice.reqs.filter (·.id ≠ r.id) }).sendCompletion
    { c with core := r.core, sid := r.sid, space := 2, tag := r.tag }

/-- An answer without a fault. -/
def sliceValue (v : Dword) : Completion := { core := 0, sid := 0, space := 2, tag := 0, value := v }

/-- A faulting answer. -/
def sliceFault (code : Nat) (va : Dword) : Completion := { core := 0, sid := 0, space := 2, tag := 0, value := 0, fault := some (code, va) }

/-- An atomic at its resident line (R84). -/
def State.atomicStep (s : State) (r : SliceReq) (op : AtomOp) (size : Nat) (x c : Dword) : State :=
  let line := r.pa / 128
  if s.linePoisoned line then s.answerSlice r (sliceFault 0x07 r.va)
  else
    let m := s.mem.readN r.pa size
    let s1 := match op.apply size m x.toNat c.toNat with
      | some v =>
        ((s.store r.pa (leBytes size v)).markDirty line).messageEvent line r.ctx (dw (r.va.toNat / 128 * 128))
          (byteMask (r.pa % 128) size)
      | none => s
    s1.answerSlice r { sliceValue (atomOld size m) with line := some line }

/-- The status of a LOCK (R83). -/
def State.lockStatus (s : State) (ctx line : Nat) : Nat :=
  match (s.slice.lines.find? (·.line = line)).bind (·.lockedBy) with
  | some o => if o = ctx then 0x01 else 0x02
  | none =>
    let key := s.setOf line
    if 8 ≤ (s.slice.lines.filter fun x => x.lockedBy.isSome && s.setOf x.line = key).length then 0x03
    else if (s.ctx ctx).lockQuota ≤ s.lockCount ctx then 0x04
    else 0x00

/-- A line's lock set or taken off. -/
def State.setLock (s : State) (line : Nat) (o : Option Nat) : State :=
  s.setSlice { s.slice with lines := s.slice.lines.map fun (x : SliceLine) => if x.line = line then { x with lockedBy := o } else x }

/-- A LOCK at its slice (R81, R83). -/
def State.lockStep (s : State) (r : SliceReq) : State :=
  let line := r.pa / 128
  let code := s.lockStatus r.ctx line
  if code ≠ 0 then s.answerSlice r (sliceValue (dw code))
  else if s.resident line then (s.setLock line (some r.ctx)).answerSlice r (sliceValue 0)
  else s.requestLine line r.ctx (dw (r.va.toNat / 128 * 128))

/-- An UNLOCK at its slice (R83). -/
def State.unlockStep (s : State) (r : SliceReq) : State :=
  match (s.slice.lines.find? (·.line = r.pa / 128)).bind (·.lockedBy) with
  | none => s.answerSlice r (sliceValue 0x05)
  | some o =>
    if o = r.ctx then (s.setLock (r.pa / 128) none).answerSlice r (sliceValue 0) else s.answerSlice r (sliceValue 0x06)

/-- ATOMIC_AT_SLICE (R84, R86): an atomic, LOCK or UNLOCK at its home slice, after the drain of its line's entry. -/
def execAtomicAtSlice (id : Nat) (s : State) : Out :=
  match s.slice.reqs.find? (·.id = id) with
  | none => .next s
  | some r =>
    if !s.drained r.core r.after.toList then .next s
    else
      match r.op with
      | .atom op size x c =>
        if s.resident (r.pa / 128) then .next (s.atomicStep r op size x c)
        else .next (s.requestLine (r.pa / 128) r.ctx (dw (r.va.toNat / 128 * 128)))
      | .lock => .next (s.lockStep r)
      | .unlock => .next (s.unlockStep r)

/-! ### Versioned memory (R201 to R206) -/

/-- A word's block: newest, floor, and the value of a version (R201). -/
def State.newest (s : State) (block : Nat) : Dword := s.mem.dword (block + 128)
def State.floor (s : State) (block : Nat) : Dword := s.mem.dword (block + 136)
def State.version (s : State) (block : Nat) (v : Dword) : Dword := s.mem.dword (block + 8 * (v.toNat % 16))

/-- Whether a block holds poison (R202). -/
def State.blockPoisoned (s : State) (block : Nat) : Bool := s.poisoned block 256

/-- The event of an STV or RCLM discarded on poison (R374, R375). -/
def State.discardEvent (s : State) (ctx core task : Nat) (va : Dword) : State :=
  s.raiseEvent ctx (s.eventOwner task { kind := 0x03, core := core, value := va })

/-- An LDV's answer, its request gone. -/
def State.answerLdv (s : State) (r : LdvReq) (c : Completion) : State :=
  (s.setSlice { s.slice with ldvs := s.slice.ldvs.filter (·.id ≠ r.id) }).sendCompletion
    { c with core := r.core, sid := r.sid, space := 2, tag := r.tag }

/-- Waiting LDVs of a word that its newest version now satisfies, answered (R204, R205). -/
def State.wakeLdvs (s : State) (pa block : Nat) : List LdvReq → State
  | [] => s
  | r :: t =>
    match r.waiting with
    | some u =>
      if r.pa = pa && decide (u ≤ (s.newest block).toNat) then
        (s.answerLdv r (sliceValue (s.version block (dw u)))).wakeLdvs pa block t
      else s.wakeLdvs pa block t
    | none => s.wakeLdvs pa block t

/-- Whether a word takes a new version (R203). -/
def State.versionRoom (s : State) (block : Nat) : Bool := s.newest block - s.floor block ≠ 15 && s.newest block ≠ allOnes

/-- A strand with no held STV left needs no parking (R203). -/
def State.unpark (s : State) (core sid : Nat) : State :=
  if s.holds core sid then s
  else
    match s.strands.get? (keyOf core sid) with
    | some st => s.setStrand (keyOf core sid) { st with parked := false }
    | none => s

/-- A version created (R204). -/
def State.applyStv (s : State) (r : StvReq) : State :=
  let block := s.versionBlock r.ctx r.va.toNat
  let n := s.newest block + 1
  let s1 := (s.store (block + 8 * (n.toNat % 16)) (leBytes 8 r.value.toNat)).store (block + 128) (leBytes 8 n.toNat)
  let s2 := ((s1.store r.pa (leBytes 8 r.value.toNat)).markDirty (r.pa / 128)).messageEvent (r.pa / 128) r.ctx
    (dw (r.va.toNat / 128 * 128)) (byteMask (r.pa % 128) 8)
  let s3 := s2.setSlice { s2.slice with stvs := s2.slice.stvs.filter (·.id ≠ r.id) }
  ((s3.wakeLdvs r.pa block s3.slice.ldvs).unpark r.core r.sid).drainEp

/-- An STV that finds no room: held, its strand noticed (R203). -/
def State.holdStv (s : State) (r : StvReq) : State :=
  let s1 := s.setSlice { s.slice with stvs := s.slice.stvs.map fun (x : StvReq) => if x.id = r.id then { x with held := true } else x }
  match s1.strands.get? (keyOf r.core r.sid) with
  | some st => s1.setStrand (keyOf r.core r.sid) { st with parked := true }
  | none => s1

/-- STV_AT_SLICE (R203, R204): after its release, and after the strand's earlier STVs. -/
def execStvAtSlice (id : Nat) (s : State) : Out :=
  match s.slice.stvs.find? (·.id = id) with
  | none => .next s
  | some r =>
    let earlier (x : StvReq) : Bool := x.core = r.core && x.sid = r.sid && decide (x.id < r.id)
    if r.held || !s.drained r.core r.after || s.slice.stvs.any earlier then .next s
    else
      let block := s.versionBlock r.ctx r.va.toNat
      if s.blockPoisoned block then
        .next (((s.setSlice { s.slice with stvs := s.slice.stvs.filter (·.id ≠ r.id) }).discardEvent r.ctx r.core r.task r.va).drainEp)
      else if !s.resident (r.pa / 128) then .next (s.requestLine (r.pa / 128) r.ctx (dw (r.va.toNat / 128 * 128)))
      else if s.versionRoom block then .next (s.applyStv r)
      else .next (s.holdStv r)

/-- Whether a strand has an earlier operation on a word that its slice has not taken. -/
def State.strataBefore (s : State) (core sid id pa : Nat) (held : Bool) : Bool :=
  s.slice.stvs.any (fun x => x.core = core && x.sid = sid && x.pa = pa && decide (x.id < id) && (held || !x.held))
    || s.slice.rclms.any fun x => x.core = core && x.sid = sid && x.pa = pa && decide (x.id < id)

/-- LDV_AT_SLICE (R178, R202, R205). -/
def execLdvAtSlice (id : Nat) (s : State) : Out :=
  match s.slice.ldvs.find? (·.id = id) with
  | none => .next s
  | some r =>
    let block := s.versionBlock r.ctx r.va.toNat
    let newest := s.newest block
    let floor := s.floor block
    let isLoad := match r.form with
      | .newest _ => true
      | _ => false
    if r.waiting.isSome || s.strataBefore r.core r.sid r.id r.pa isLoad then .next s
    else if s.blockPoisoned block || s.linePoisoned (r.pa / 128) then .next (s.answerLdv r (sliceFault 0x07 r.va))
    else if !s.resident (r.pa / 128) then .next (s.requestLine (r.pa / 128) r.ctx (dw (r.va.toNat / 128 * 128)))
    else
      let await (u : Dword) : State :=
        if u ≤ newest then s.answerLdv r (sliceValue (s.version block u))
        else s.setSlice { s.slice with ldvs := s.slice.ldvs.map fun (x : LdvReq) => if x.id = r.id then { x with waiting := some u.toNat } else x }
      match r.form with
      | .newest form => .next (s.answerLdv r (sliceValue (form.extend (s.mem.readN r.pa form.size))))
      | .eq v => if v < floor then .next (s.answerLdv r (sliceFault 0x08 r.va)) else .next (await v)
      | .ge v => .next (await (if v < floor then floor else v))

/-- Held STVs of a word applied in order while room remains (R203, R206). -/
def State.applyHeld (s : State) (pa block : Nat) : Nat → State
  | 0 => s
  | n + 1 =>
    match s.slice.stvs.find? fun x => x.pa = pa && x.held with
    | none => s
    | some r => if s.versionRoom block then (s.applyStv r).applyHeld pa block n else s

/-- RCLM_AT_SLICE (R206). -/
def execRclmAtSlice (id : Nat) (s : State) : Out :=
  match s.slice.rclms.find? (·.id = id) with
  | none => .next s
  | some r =>
    let block := s.versionBlock r.ctx r.va.toNat
    if s.strataBefore r.core r.sid r.id r.pa false then .next s
    else
      let s1 := s.setSlice { s.slice with rclms := s.slice.rclms.filter (·.id ≠ r.id) }
      if s.blockPoisoned block then .next (s1.discardEvent r.ctx r.core r.task r.va)
      else
        let top := if r.v < s.newest block then r.v else s.newest block
        let floor := if s.floor block < top then top else s.floor block
        .next ((s1.store (block + 136) (leBytes 8 floor.toNat)).applyHeld r.pa block s1.slice.stvs.length)

end Sys2Proof.Machine
end

