-- ==== Sys2Proof/Machine/Rime.lean ====
section
/-! DEFINITION. Rime cores (R88 to R98): dispatch, a handler's instructions, the slice window's operations, aborts. -/

namespace Sys2Proof.Machine

/-! ### Handlers -/

/-- The running handler of a slice. -/
def State.setHandler (s : State) (sl : Nat) (h : Handler) : State := s.modRime sl fun r => { r with running := some h }

def State.endHandler (s : State) (sl : Nat) : State := s.modRime sl fun r => { r with running := none }

/-- Whether a line is the one that the handler's fill or evict event holds (R96). -/
def Handler.holdsLine (h : Handler) (line : Nat) : Bool :=
  match h.ev.kind with
  | .fill => h.ev.line = some line
  | .evict => h.ev.line = some line
  | _ => false

/-- An abort (R96): the report, then the event's default action. -/
def State.abortHandler (s : State) (sl : Nat) (h : Handler) (cause : Nat) : State :=
  ((s.endHandler sl).rimeReport sl h.ev cause h.pc).eventDefault h.ev

/-- HANDLER_BUDGET_EXPIRY (R93): the budget has run out before DONE. -/
def execHandlerBudgetExpiry (slice : Nat) (s : State) : Out :=
  match (s.rime slice).running with
  | none => .next s
  | some h =>
    match h.op with
    | some (.done _) => .next s
    | _ => if h.budget = 0 then .next (s.abortHandler slice h 0x0D) else .next s

/-- The next event of a slice and the queues without it: the bound queue first, but the miss event of a fill before the fill
(R91, R92). -/
def Rime.nextEvent (r : Rime) : Option (RimeEvent × Rime) :=
  let free := match r.free with
    | [] => none
    | ev :: t => some (ev, { r with free := t })
  match r.bound with
  | [] => free
  | ev :: t =>
    if ev.kind = .fill && r.free.any (fun m => m.kind = .miss && m.line = ev.line) then free
    else some (ev, { r with bound := t })

/-- EV_KIND (R94). -/
def RimeEvent.kindWord (ev : RimeEvent) : Dword := dw (ev.depth * 2 ^ 28 + ev.ctx * 2 ^ 16 + ev.entry * 2 ^ 8 + ev.kind.code)

/-- A handler at its entry (R88, R91, R93, R94). -/
def HandlerEntry.start (e : HandlerEntry) (ev : RimeEvent) (data : Line) : Handler :=
  let n := Nat.max 1 (field (e.get 3).toNat 15 0)
  let timed := ev.kind = .fill || ev.kind = .evict
  { ev := ev
    pc := dw (field (e.get 2).toNat 55 1 * 2)
    regs := ((Vector.replicate 32 (0 : Dword)).set 10 ev.kindWord).set 11 ev.va
    budget := if timed then Nat.min n 2048 else n
    eventLine := data
    workLine := 0 }

/-- Whether an entry is in force for a context. -/
def HandlerEntry.serves (e : HandlerEntry) (ctx : Nat) : Bool :=
  bitN (e.get 3).toNat 63 = 1 && field (e.get 3).toNat 47 36 = ctx

/-- HANDLER_DISPATCH (R92): the next event's handler starts; an event whose entry is no longer in force takes its default
action. -/
def execHandlerDispatch (slice : Nat) (s : State) : Out :=
  let r := s.rime slice
  match r.running, r.nextEvent with
  | none, some (ev, r1) =>
    let data := match ev.kind, ev.line with
      | .fill, some l => s.mem.line l
      | .evict, some l => s.mem.line l
      | _, _ => ev.data
    match r1.table.get? ev.entry with
    | some e =>
      if e.serves ev.ctx then
        .next (s.setRime slice { r1 with running := some (e.start ev data), started := r1.started + 1 })
      else .next ((s.setRime slice r1).eventDefault ev)
    | none => .next ((s.setRime slice r1).eventDefault ev)
  | _, _ => .next s

/-! ### Access to memory (R88, R96) -/

/-- What an access comes to: a value and the state after it, a wait, or an abort. -/
inductive RimeRes where
  | val (s : State) (v : Dword)
  | wait (s : State)
  | abort (cause : Nat)

/-- A line that a Rime core asks for: its fill raises a fill event of a depth, 16 none, and no miss event (R90). -/
def State.rimeFill (s : State) (line ctx : Nat) (va : Dword) (depth : Nat) : State :=
  if s.resident line || s.filling line || s.evictingLine line then s
  else s.setSlice { s.slice with fills := s.slice.fills ++ [{ line := line, ctx := ctx, va := lineVa va, depth := depth }] }

/-- An access of main memory at a known address. -/
def State.rimeAtLine (s : State) (h : Handler) (va : Dword) (pa : Nat) (poison : Bool) (k : Nat → RimeRes) : RimeRes :=
  if h.holdsLine (pa / 128) then .abort 0x04
  else if !s.resident (pa / 128) then .wait (s.rimeFill (pa / 128) h.ev.ctx va 16)
  else if poison && s.linePoisoned (pa / 128) then .abort 0x07
  else k pa

/-- An access at a tenant VA (R88, R96); poison: whether poisoned data stop it. -/
def State.rimeAccess (s : State) (h : Handler) (va : Dword) (size : Nat) (acc : Access) (poison host : Bool) (k : Nat → RimeRes) :
    RimeRes :=
  if 2 ^ 56 ≤ va.toNat then .abort 0x04
  else if va.toNat % size ≠ 0 then .abort 0x02
  else
    match s.engineXlat h.ev.ctx va.toNat acc with
    | .error c => .abort c
    | .ok pa => if isMain pa then s.rimeAtLine h va pa poison k else if host then k pa else .abort 0x04

/-- The aligned instruction word of a handler's VA, through the instruction cache (R88). -/
def State.rimeWord (s : State) (sl : Nat) (h : Handler) (va : Dword) : RimeRes :=
  let take (pa : Nat) : RimeRes :=
    let f := icFetch (s.rime sl).icache s.mem 128 pa s.fresh
    .val (({ s with fresh := f.2.2 }).modRime sl fun r => { r with icache := f.2.1 }) (dw f.1)
  if 2 ^ 56 ≤ va.toNat then .abort 0x04
  else
    match s.engineXlat h.ev.ctx va.toNat .exec with
    | .error c => .abort c
    | .ok pa =>
      if icHolds (s.rime sl).icache pa then take pa
      else if isMain pa then s.rimeAtLine h va pa true take
      else .abort 0x04

/-- The instruction at the handler's pc: a 32-bit word, or a 16-bit one in the low half. -/
def State.rimeFetch (s : State) (sl : Nat) (h : Handler) : RimeRes :=
  let base := dw (h.pc.toNat / 4 * 4)
  match s.rimeWord sl h base with
  | .val s1 w =>
    if h.pc.toNat % 4 = 0 then .val s1 w
    else
      let low := field w.toNat 31 16
      if low % 4 ≠ 3 then .val s1 (dw low)
      else
        match s1.rimeWord sl h (base + 4) with
        | .val s2 w2 => .val s2 (dw (low + field w2.toNat 15 0 * 2 ^ 16))
        | r => r
  | r => r

/-! ### The slice window (R94) -/

/-- The window's base. -/
def windowBase : Nat := 2 ^ 64 - 2048

/-- A doubleword of a line mask. -/
def maskHalf (m : LineMask) (hi : Bool) : Dword := dw (if hi then m.toNat / 2 ^ 64 else m.toNat % 2 ^ 64)

/-- A register of the window as it reads. -/
def Handler.winReg (h : Handler) (o : Nat) : Option Dword :=
  match o with
  | 0x000 => some h.ev.kindWord
  | 0x008 => some h.ev.va
  | 0x010 => some (maskHalf h.ev.mask false)
  | 0x018 => some (maskHalf h.ev.mask true)
  | 0x020 =>
    match h.ev.src with
    | some (sl, i) => some (dw (2 ^ 16 + i * 2 ^ 8 + sl))
    | none => some 0
  | 0x028 => some (dw h.budget)
  | 0x048 => some (dw (h.pfDropped * 2 ^ 16 + h.pfQueued))
  | 0x058 => some h.lnVa
  | 0x060 => some (maskHalf h.lnMask false)
  | 0x068 => some (maskHalf h.lnMask true)
  | 0x070 => some (dw h.lnStat)
  | 0x080 => some (dw h.fwStat)
  | _ => none

/-- n bytes of the window at an offset; none is misuse. -/
def Handler.winRead (h : Handler) (o n : Nat) : Option Dword :=
  if o % n ≠ 0 then none
  else if 0x100 ≤ o && o < 0x180 then some (dw (lineGet h.eventLine (o - 0x100) n))
  else if 0x200 ≤ o && o < 0x280 then some (dw (lineGet h.workLine (o - 0x200) n))
  else if 0x280 ≤ o && o < 0x2C0 then some (dw (field h.ev.msg.toNat (8 * (o - 0x280 + n) - 1) (8 * (o - 0x280))))
  else if 0x2C0 ≤ o && o < 0x300 then some (dw (field h.fwData.toNat (8 * (o - 0x2C0 + n) - 1) (8 * (o - 0x2C0))))
  else if n = 8 then h.winReg o
  else none

/-- A store to a register of the window: the handler after it, or the abort's cause (R93, R94, R95). -/
def Handler.winSetReg (h : Handler) (o : Nat) (v : Dword) : Except Nat Handler :=
  match o with
  | 0x030 =>
    if v = 0 then .ok { h with op := some (.done 0) }
    else if v = 1 && h.ev.kind = .fill then .ok { h with op := some (.done 1) }
    else .error 0x01
  | 0x040 => .ok { h with op := some (.prefetch v) }
  | 0x050 =>
    if v = 1 then .ok { h with op := some .lnRead } else if v = 2 then .ok { h with op := some .lnWrite } else .error 0x04
  | 0x058 => .ok { h with lnVa := v }
  | 0x060 => .ok { h with lnMask := BitVec.ofNat 128 (setField h.lnMask.toNat 63 0 v.toNat) }
  | 0x068 => .ok { h with lnMask := BitVec.ofNat 128 (setField h.lnMask.toNat 127 64 v.toNat) }
  | 0x078 => if v.toNat < 2 ^ 16 then .ok { h with op := some (.forward v) } else .error 0x04
  | _ => .error 0x04

/-- A store of n bytes to the window. -/
def Handler.winWrite (h : Handler) (o n : Nat) (v : Dword) : Except Nat Handler :=
  if o % n ≠ 0 then .error 0x04
  else if 0x100 ≤ o && o < 0x180 then .ok { h with eventLine := linePut h.eventLine (o - 0x100) n v.toNat }
  else if 0x200 ≤ o && o < 0x280 then .ok { h with workLine := linePut h.workLine (o - 0x200) n v.toNat }
  else if 0x2C0 ≤ o && o < 0x300 then
    .ok { h with fwData := BitVec.ofNat 512 (setField h.fwData.toNat (8 * (o - 0x2C0 + n) - 1) (8 * (o - 0x2C0)) v.toNat) }
  else if n = 8 then h.winSetReg o v
  else .error 0x04

/-! ### A handler's instructions (R88, R96) -/

def Handler.x (h : Handler) (r : Nat) : Dword := if r = 0 then 0 else h.regs.toList.getD r 0

/-- A register written, x0 apart. -/
def Handler.setX (h : Handler) (r : Nat) (v : Dword) : Handler :=
  if r = 0 then h else { h with regs := h.regs.setIfInBounds r v }

/-- An atomic memory operation of the A extension as the slice's own (R84, R96). -/
def RvAmo.atom : RvAmo → AtomOp
  | .swap => .swp
  | .add => .add
  | .xor => .xor
  | .and => .and
  | .or => .or
  | .min => .min
  | .max => .max
  | .minu => .minu
  | .maxu => .maxu

/-- A load of a handler. -/
def State.rimeLoad (s : State) (h : Handler) (va : Dword) (f : LoadForm) : RimeRes :=
  if windowBase ≤ va.toNat then
    match h.winRead (va.toNat - windowBase) f.size with
    | some v => .val s (f.extend v.toNat)
    | none => .abort 0x04
  else s.rimeAccess h va f.size .read true true fun pa => .val s (f.extend (s.mem.readN pa f.size))

/-- Bytes of a handler's store at its slice; it raises no event (R90). -/
def State.rimePut (s : State) (pa n v : Nat) : State := (s.store pa (leBytes n v)).markDirty (pa / 128)

/-- A store of a handler, which has moved on to h1. -/
def State.rimeStore (s : State) (sl : Nat) (h h1 : Handler) (va : Dword) (n : Nat) (v : Dword) : RimeRes :=
  if windowBase ≤ va.toNat then
    match h1.winWrite (va.toNat - windowBase) n v with
    | .ok h2 => .val (s.setHandler sl h2) 0
    | .error c => .abort c
  else s.rimeAccess h va n .write false true fun pa => .val ((s.setHandler sl h1).rimePut pa n (v.toNat % 2 ^ (8 * n))) 0

/-- The instruction of a handler h whose successor is at pc next: the state after it, a wait in place, or an abort. -/
def State.rimeInstr (s : State) (sl : Nat) (h : Handler) (next : Dword) : RvInstr → RimeRes
  | .lui rd imm => .val (s.setHandler sl ({ h with pc := next }.setX rd imm)) 0
  | .auipc rd imm => .val (s.setHandler sl ({ h with pc := next }.setX rd (h.pc + imm))) 0
  | .jal rd off => .val (s.setHandler sl ({ h with pc := h.pc + off }.setX rd next)) 0
  | .jalr rd rs off => .val (s.setHandler sl ({ h with pc := (h.x rs + off) &&& ~~~(1 : Dword) }.setX rd next)) 0
  | .branch c a b off => .val (s.setHandler sl { h with pc := if c.holds (h.x a) (h.x b) then h.pc + off else next }) 0
  | .load n sg rd rs off =>
    match s.rimeLoad h (h.x rs + off) { size := n, signed := sg } with
    | .val s1 v => .val (s1.setHandler sl ({ h with pc := next }.setX rd v)) 0
    | r => r
  | .store n rs1 rs2 off => s.rimeStore sl h { h with pc := next } (h.x rs1 + off) n (h.x rs2)
  | .opImm op word rd rs imm => .val (s.setHandler sl ({ h with pc := next }.setX rd (op.run word (h.x rs) imm))) 0
  | .op op word rd a b => .val (s.setHandler sl ({ h with pc := next }.setX rd (op.run word (h.x a) (h.x b)))) 0
  | .fence => .val (s.setHandler sl { h with pc := next }) 0
  | .ecall => .abort 0x10
  | .ebreak => .abort 0x0F
  | .lr n rd rs =>
    s.rimeAccess h (h.x rs) n .read true false fun pa =>
      let h1 : Handler := { h with pc := next, reserved := some (pa / 128) }
      .val (s.setHandler sl (h1.setX rd (signExt (8 * n) (s.mem.readN pa n)))) 0
  | .sc n rd rs1 rs2 =>
    s.rimeAccess h (h.x rs1) n .write false false fun pa =>
      let h1 : Handler := { h with pc := next, reserved := none }
      if h.reserved = some (pa / 128) then
        .val ((s.setHandler sl (h1.setX rd 0)).rimePut pa n ((h.x rs2).toNat % 2 ^ (8 * n))) 0
      else .val (s.setHandler sl (h1.setX rd 1)) 0
  | .amo op n rd rs1 rs2 =>
    s.rimeAccess h (h.x rs1) n .atomic true false fun pa =>
      let m := s.mem.readN pa n
      let s1 := s.setHandler sl ({ h with pc := next }.setX rd (atomOld n m))
      match op.atom.apply n m (h.x rs2).toNat 0 with
      | some v => .val (s1.rimePut pa n v) 0
      | none => .val s1 0

/-- RIME_HANDLER_INSTRUCTION (R88, R96): the running handler's next instruction, while no window operation of it is pending and
its budget lasts. -/
def execRimeHandlerInstruction (slice : Nat) (s : State) : Out :=
  match (s.rime slice).running with
  | none => .next s
  | some h =>
    if h.op.isSome || h.budget = 0 then .next s
    else
      match s.rimeFetch slice h with
      | .wait s1 => .next s1
      | .abort c => .next (s.abortHandler slice h c)
      | .val s1 w =>
        let i := if w.toNat % 4 = 3 then rvDecode w.toNat else rvDecodeC (w.toNat % 2 ^ 16)
        match i with
        | none => .next (s1.abortHandler slice h 0x01)
        | some i =>
          match s1.rimeInstr slice h (h.pc + if w.toNat % 4 = 3 then 4 else 2) i with
          | .val s2 _ => .next s2
          | .wait s2 => .next s2
          | .abort c => .next (s1.abortHandler slice h c)

/-! ### Operations of the window (R93, R95) -/

/-- A pending operation of a slice's handler. -/
def State.pendingOp (s : State) (sl : Nat) : Option (Handler × WindowOp) :=
  match (s.rime sl).running with
  | some h => h.op.map fun o => (h, o)
  | none => none

/-- DONE_DEFAULT (R93): the handler ends with its event's default action. -/
def execDoneDefault (slice : Nat) (s : State) : Out :=
  match s.pendingOp slice with
  | some (h, .done 0) => .next ((s.endHandler slice).eventDefault h.ev)
  | _ => .next s

/-- EVENT LINE stored over its line in one operation: the line holds no poison, and bytes written meanwhile come after it. -/
def State.installEvent (s : State) (l : Nat) (h : Handler) : State :=
  let s1 := s.storeLine l h.eventLine (~~~h.late)
  s1.setSlice (s1.slice.unpoison (· != l))

/-- DONE_INSTALL (R91): EVENT LINE installed in place of the fetched line, dirty. -/
def execDoneInstall (slice : Nat) (s : State) : Out :=
  match s.pendingOp slice with
  | some (h, .done 1) =>
    match h.ev.line with
    | some l => .next (((s.endHandler slice).installEvent l h).installLine l h.ev.ctx h.ev.va true)
    | none => .next (s.endHandler slice)
  | _ => .next s

/-- A count that saturates at 0xFFFF (R94). -/
def satUp (n : Nat) : Nat := Nat.min (n + 1) 0xFFFF

/-- PREFETCH (R95): accepted into the queue of 16, or refused. -/
def execPrefetch (slice : Nat) (va : Dword) (s : State) : Out :=
  match s.pendingOp slice with
  | some (h, .prefetch v) =>
    if v ≠ va then .next s
    else
      let r := s.rime slice
      if r.pf.length < 16 then
        .next (s.setRime slice
          { r with running := some { h with op := none, pfQueued := satUp h.pfQueued }
                   pf := r.pf ++ [{ ctx := h.ev.ctx, va := va, depth := h.ev.depth + 1, by_ := r.started }] })
      else .next (s.setHandler slice { h with op := none, pfDropped := satUp h.pfDropped })
  | _ => .next s

/-- A queued prefetch that is dropped, counted for its handler while that one runs (R95). -/
def Rime.dropPf (r : Rime) (p : RimePf) : Rime :=
  match r.running with
  | some h => if r.started = p.by_ then { r with running := some { h with pfDropped := satUp h.pfDropped } } else r
  | none => r

/-- PREFETCH_ISSUE (R90, R95): the oldest queued prefetch translated, its line asked for. -/
def execPrefetchIssue (slice : Nat) (s : State) : Out :=
  match (s.rime slice).pf with
  | [] => .next s
  | p :: t =>
    let s1 := s.modRime slice fun r => { r with pf := t }
    match s.engineXlat p.ctx p.va.toNat .read with
    | .error _ => .next (s1.modRime slice fun r => r.dropPf p)
    | .ok pa =>
      if !isMain pa then .next (s1.modRime slice fun r => r.dropPf p)
      else if s.evictingLine (pa / 128) then .next s
      else .next (s1.rimeFill (pa / 128) p.ctx p.va p.depth)

/-- The line of LN_VA, or the status that stops the command before its line is looked at (R95). -/
def State.lnLine (s : State) (sl : Nat) (h : Handler) (acc : Access) : Except Nat Nat :=
  match s.engineXlat h.ev.ctx (h.lnVa.toNat / 128 * 128) acc with
  | .error 0x03 => .error 2
  | .error 0x07 => .error 4
  | .error _ => .error 3
  | .ok pa =>
    if !isMain pa || s.homeOf (pa / 128) ≠ sl then .error 1
    else if s.evictingLine (pa / 128) || (s.slice.fills.any fun f => f.line = pa / 128 && f.handler) then .error 5
    else .ok (pa / 128)

/-- A line command that has ended with a status. -/
def State.lnEnd (s : State) (sl : Nat) (h : Handler) (stat : Nat) : State := s.setHandler sl { h with op := none, lnStat := stat }

/-- LN_READ (R95): the line copied into WORK LINE, filled first where it is absent. -/
def execLnRead (slice : Nat) (s : State) : Out :=
  match s.pendingOp slice with
  | some (h, .lnRead) =>
    match s.lnLine slice h .read with
    | .error c => .next (s.lnEnd slice h c)
    | .ok line =>
      if !s.resident line then .next (s.rimeFill line h.ev.ctx h.lnVa 16)
      else if s.linePoisoned line then .next (s.lnEnd slice h 4)
      else .next (s.lnEnd slice { h with workLine := s.mem.line line } 0)
  | _ => .next s

/-- LN_WRITE (R80, R95): WORK LINE merged into the line under the byte mask. -/
def execLnWrite (slice : Nat) (s : State) : Out :=
  match s.pendingOp slice with
  | some (h, .lnWrite) =>
    match s.lnLine slice h .write with
    | .error c => .next (s.lnEnd slice h c)
    | .ok line =>
      if !s.resident line then .next (s.rimeFill line h.ev.ctx h.lnVa 16)
      else if s.linePoisoned line && h.lnMask ≠ BitVec.allOnes 128 then .next (s.lnEnd slice h 4)
      else .next (((s.lnEnd slice h 0).storeLine line h.workLine h.lnMask).markDirty line)
  | _ => .next s

/-- The status of a forward (R95). -/
def State.fwStatus (s : State) (ctx target entry : Nat) : Nat :=
  if 191 < target then 3
  else
    match (s.rime target).table.get? entry with
    | none => 1
    | some e =>
      if !(e.serves ctx && bitN (e.get 3).toNat 59 = 1) then 1
      else if 48 ≤ (s.rime target).free.length then 2
      else 0

/-- FORWARD (R90, R95): one attempt to queue a message event at the target. -/
def execForward (slice : Nat) (cmd : Dword) (s : State) : Out :=
  match s.pendingOp slice with
  | some (h, .forward c) =>
    if c ≠ cmd then .next s
    else
      let target := field cmd.toNat 7 0
      let entry := field cmd.toNat 15 8
      let code := s.fwStatus h.ev.ctx target entry
      let s1 := s.setHandler slice { h with op := none, fwStat := code }
      if code ≠ 0 then .next s1
      else
        let ev : RimeEvent := { kind := .message, entry := entry, ctx := h.ev.ctx, src := some (slice, h.ev.entry), msg := h.fwData }
        .next (s1.modRime target fun r => { r with free := r.free ++ [ev] })
  | _ => .next s

end Sys2Proof.Machine
end

