-- ==== Sys2Proof/Machine/Host.lean ====
section
/-! DEFINITION. The host's steps and bring-up (R74, R412 to R419): register writes, BAR4 accesses, link flits, firmware,
attestation, power. -/

namespace Sys2Proof.Machine

/-! ### Memory partition (R74) -/

/-- MPART_WRITE (R74): taken once, before the first context is created. -/
def execMpartWrite (value : Dword) (s : State) : Out :=
  if s.host.mpartSet || s.ctxs.any (·.2.created) then .next s
  else .next (s.setHost { s.host with mpart := field value.toNat 8 0, mpartSet := true })

/-! ### Records and registers (R412) -/

/-- A ring record's doubleword written: VA, log2 of its records, counter VA, vector plus 1 or 0 for none (R97). -/
def Ring.write (r : Ring) (i : Nat) (v : Dword) : Ring :=
  match i with
  | 0 => { r with va := v }
  | 1 => { r with logSize := v.toNat }
  | 2 => { r with counter := v }
  | 3 => { r with vector := if v = 0 then none else some (v.toNat - 1) }
  | _ => r

/-- The spill area record's doubleword written (R323). -/
def Ctx.writeSpill (x : Ctx) (i : Nat) (v : Dword) : Ctx :=
  match i with
  | 0 => { x with spillBase := dw (field v.toNat 51 7 * 2 ^ 7) }
  | 1 => { x with spillRecords := field v.toNat 20 0 }
  | _ => x

/-- The scrub list's doubleword written (R312). -/
def Ctx.writeScrub (x : Ctx) (i : Nat) (v : Dword) : Ctx :=
  match i with
  | 0 => { x with scrubList := v }
  | 1 => { x with scrubCount := v.toNat }
  | _ => x

/-- A hold domain's doubleword written (R302). -/
def HoldDomain.write (d : HoldDomain) (i : Nat) (v : Dword) : HoldDomain :=
  match i with
  | 0 => { d with producer := v.toNat }
  | 1 => { d with checker := v.toNat }
  | 2 => { d with configured := v.getLsbD 0 }
  | _ => { d with ring := d.ring.write (i - 3) v }

/-- A collective group's doubleword written (R415). -/
def Group.write (g : Group) (i : Nat) (v : Dword) : Group :=
  match i with
  | 0 => { g with members := v.toNat }
  | 1 => { g with rank := v.toNat }
  | 2 => { g with ports := field v.toNat 15 0 }
  | _ => g

/-- A handler entry's doubleword written (R89). -/
def Rime.writeEntry (r : Rime) (entry i : Nat) (v : Dword) : Rime :=
  { r with table := r.table.set entry ((r.table.getD entry (Vector.replicate 4 0)).setIfInBounds i v) }

/-- A record or register written by the host. A context exists from the write of its root on (R383). -/
def State.writeReg (s : State) (v : Dword) : HostReg → State
  | .ctxRoot c => s.modCtx c fun x => { x with created := true, root := v }
  | .ctxSpill c i => s.modCtx c fun x => x.writeSpill i v
  | .ctxStrata c i => s.modCtx c fun x => { x with strata := x.strata.setIfInBounds i v }
  | .ctxEventRing c i => s.modCtx c fun x => { x with eventRing := x.eventRing.write i v }
  | .ctxReportRing c i => s.modCtx c fun x => { x with reportRing := x.reportRing.write i v }
  | .ctxScrubRing c i => s.modCtx c fun x => { x with scrubRing := x.scrubRing.write i v }
  | .ctxScrubList c i => s.modCtx c fun x => x.writeScrub i v
  | .ctxPolicy c => s.modCtx c fun x => { x with cp := v.getLsbD 0, fk := v.getLsbD 1, scoutPriv := v.getLsbD 2 }
  | .ctxSeed c => s.modCtx c fun x => { x with seed := v }
  | .ctxLockQuota c => s.modCtx c fun x => { x with lockQuota := v.toNat }
  | .ctxPinQuota c => s.modCtx c fun x => { x with pinQuota := v.toNat }
  | .ctxFreezeArea c => s.modCtx c fun x => { x with freezeArea := v }
  | .coreStateSlots k => s.modCore k fun c => { c with stateSlots := v.toNat }
  | .coreBypass k => s.modCore k fun c => { c with bypass := field v.toNat 7 0 }
  | .coreFreeze k => s.modCore k fun c => { c with freezeUs := v.toNat }
  | .ageing q => s.setSched { s.sched with ageing := s.sched.ageing.set (queueNo q) (field v.toNat 15 0) }
  | .holdDomain d i => s.setGen { s.gen with domains := s.gen.domains.set d ((s.gen.domains.getD d {}).write i v) }
  | .group g i => s.setHost { s.host with groups := s.host.groups.set g ((s.host.groups.getD g {}).write i v) }
  | .handler sl e i => s.modRime sl fun r => r.writeEntry e i v
  | .bar4Base => s.setHost { s.host with bar4Base := v }
  | .fwAddr => s.setHost { s.host with fwAddr := v }
  | .atomicOps => s.setHost { s.host with atomicOps := v.getLsbD 0 }
  | .powerCap => s.setHost { s.host with powerCap := v }

/-- REGISTER_WRITE (R412). -/
def execRegisterWrite (reg : HostReg) (value : Dword) (s : State) : Out := .next (s.writeReg value reg)

/-! ### BAR4 (R412, R413) -/

/-- A context number that no handler entry can name: what the host itself fills belongs to no context (R90). -/
def noCtx : Nat := 4096

/-- Lines that a host's write has reached: dirty where resident, installed where absent (R77). -/
def State.hostLines (s : State) : List (Nat × Nat) → State
  | [] => s
  | (pa, _) :: t =>
    let line := pa / 128
    let s1 := if s.resident line then s.markDirty line
      else if s.filling line || s.evictingLine line then s
      else s.installLine line noCtx 0 true
    s1.hostLines t

/-- HOST_MEMORY_WRITE (R413): taken at its slices at once; past 1,536 GiB nothing is written. -/
def execHostMemoryWrite (offset : Nat) (bytes : List (BitVec 8)) (s : State) : Out :=
  let pa := offset + s.host.bar4Base.toNat
  if mainTop < pa + bytes.length then .next s
  else .next ((s.store pa bytes).hostLines (lineCuts (bytes.length / 128 + 2) pa bytes.length))

/-- Whether a line is held by a fill's handler or stands in an eviction buffer: a request to it waits (R91). -/
def State.heldByEvent (s : State) (line : Nat) : Bool :=
  s.evictingLine line || s.slice.fills.any fun f => f.line = line && f.handler

/-- The bytes a host read returns; those of poisoned lines are free. -/
def State.hostBytes (s : State) (pa n : Nat) : List Byte :=
  if s.poisoned pa n then (List.range n).map fun i => (Config.freeWord (s.fresh + i)).truncate 8 else s.mem.bytes pa n

/-- A host read answered. -/
def State.answerHost (s : State) (offset n : Nat) (r : Option (List Byte)) : State :=
  s.setHost { s.host with reads := (offset, r) :: s.host.reads, waiting := s.host.waiting.erase (offset, n) }

/-- HOST_MEMORY_READ (R412, R413): served by the home slice; past 1,536 GiB it completes with Unsupported Request. -/
def execHostMemoryRead (offset : Nat) (size : Nat) (s : State) : Out :=
  let pa := offset + s.host.bar4Base.toNat
  if mainTop < pa + size then .next (s.answerHost offset size none)
  else if (lineCuts (size / 128 + 2) pa size).any fun p => s.heldByEvent (p.1 / 128) then
    (if s.host.waiting.contains (offset, size) then .next s
     else .next (s.setHost { s.host with waiting := s.host.waiting ++ [(offset, size)] }))
  else
    let s1 := s.answerHost offset size (some (s.hostBytes pa size))
    .next (if s.poisoned pa size then { s1 with fresh := s1.fresh + size } else s1)

/-! ### Yelou Link (R414) -/

def State.link (s : State) (port : Nat) : LinkPort := s.host.links.getD port {}

def State.setLink (s : State) (port : Nat) (l : LinkPort) : State :=
  s.setHost { s.host with links := s.host.links.set port l }

/-- Bytes 0 to 251 of a flit (R414). -/
def flitBody (f : Flit) : List Byte :=
  leBytes 2 f.seq.toNat ++ leBytes 2 f.ack.toNat ++ [f.kind ++ f.vc] ++ [0, 0, 0] ++ leBytes 244 f.payload.toNat

/-- Whether a flit's CRC holds. -/
def flitOk (f : Flit) : Bool := f.crc = crc32c (flitBody f)

/-- Whether a collective under way uses a port. -/
def State.colUses (s : State) (port : Nat) (c : Command) : Bool :=
  c.opcode = 0x09 && c.stage = .running
    && bitN (s.host.groups.getD (groupOf (cmdOf c.bits)) {}).ports port = 1

/-- Collectives of a port that has gone down, ended with engine code 0x23. -/
def State.failCols (s : State) : List Command → State
  | [] => s
  | c :: t => (s.engineCmd c 0x23).failCols t

/-- A port down: reported to the host, its collectives failed (R414). -/
def State.portDown (s : State) (port : Nat) : State :=
  let s1 := s.setLink port { s.link port with up := false, enabled := false }
  let s2 := s1.setHost { s1.host with reports := (1, port) :: s1.host.reports }
  s2.failCols (s2.cmds.filter (s2.colUses port))

/-- Acknowledged sequences leave the retry buffer: any progress ends a row of failed replays. -/
def LinkPort.acked (l : LinkPort) (ack : BitVec 16) : LinkPort :=
  if ack + 1 = l.oldest then l else { l with oldest := ack + 1, replays := 0 }

/-- A NAK that names a sequence: the flit is replayed once more (R414). -/
def LinkPort.nak (l : LinkPort) (seq : BitVec 16) : LinkPort :=
  if seq = l.oldest then { l with replays := l.replays + 1 } else { l with oldest := seq, replays := 1 }

/-- FLIT_RECEIVE (R414): a flit whose CRC fails is discarded and NAKed; collective flits are delivered in sequence; a NAK asks for
a replay, and the one that follows eight failed replays takes the port down. -/
def execFlitReceive (port : Nat) (flit : Flit) (s : State) : Out :=
  let l := s.link port
  if !l.up then .next s
  else if !flitOk flit then .next (s.setLink port { l with naks := l.expect :: l.naks })
  else
    match flit.kind.toNat with
    | 0 => .next (s.setLink port (l.acked flit.ack))
    | 3 =>
      let l1 := l.nak (flit.payload.truncate 16)
      if 8 < l1.replays then .next ((s.setLink port l1).portDown port) else .next (s.setLink port l1)
    | 1 | 2 =>
      let l1 := l.acked flit.ack
      if flit.seq = l.expect then
        .next (s.setLink port { l1 with expect := l.expect + 1, inbox := l1.inbox ++ [(flit.vc, flit.kind, flit.payload)] })
      else .next (s.setLink port l1)
    | _ => .next s

/-- LINK_PORT_ENABLE (R414, R418): the port comes up, its replay count begun anew. -/
def execLinkPortEnable (port : Nat) (s : State) : Out :=
  .next (s.setLink port { s.link port with enabled := true, up := true, replays := 0 })

/-! ### Bring-up and identity (R416, R417) -/

/-- The machine without power: everything lost but the latched cause, the host's own memory, and what the host has been told
(R419). The agenda is the world's. -/
def State.bare (s : State) (powered : Bool) : State :=
  { State.reset with
    agenda := s.agenda
    tick := s.tick
    fresh := s.fresh
    mem := s.mem.filter fun (c : Host.Cell) => hostBase ≤ c.1
    host := { powered := powered, cause := s.host.cause, msix := s.host.msix, reports := s.host.reports,
              reads := s.host.reads } }

/-- POWER_UP (R416): a power cycle; cores held in reset, BOOT in state 0. -/
def execPowerUp (s : State) : Out := .next (s.bare true)

/-- FIRMWARE_LOAD (R416): a write of FWLEN, ignored unless an image is awaited or one has been refused. -/
def execFirmwareLoad (length : Dword) (s : State) : Out :=
  match s.host.boot with
  | .awaiting | .refused => .next (s.setHost { s.host with fwLen := length, boot := .verifying })
  | .verifying | .running => .next s

/-- The DER prefix of a SHA-256 digest in PKCS#1 v1.5. -/
def digestInfo : Nat := 0x3031300d060960864801650304020105000420

/-- The 384-byte encoded message of a digest under PKCS#1 v1.5: 00 01 FF … FF 00, the prefix, the digest. -/
def pkcsEncode (digest : Nat) : Nat :=
  2 ^ (8 * 382) + (2 ^ (8 * 330) - 1) * 2 ^ (8 * 52) + digestInfo * 2 ^ 256 + digest

/-- BOOT's code for a staged image, 0 where it is accepted (R416). -/
def imageCode (body sig : List Byte) : Nat :=
  let key := body.take 512
  if sha256 key ≠ Config.romKeyDigest then 1
  else
    let m := leNat (key.take 384)
    let e := leNat (key.drop 384)
    if modPow (leNat sig) e m 1024 ≠ pkcsEncode (sha256 body).toNat then 2 else 0

/-- The verification of the image of FWADDR and FWLEN: its code, and the digest of its body. -/
def State.verifyImage (s : State) : Nat × BitVec 256 :=
  let pa := s.host.fwAddr.toNat
  let n := s.host.fwLen.toNat
  if pa % 4096 ≠ 0 || n < 512 + 384 then (3, 0)
  else if mainTop < pa + n || s.poisoned pa n then (4, 0)
  else
    let bs := s.mem.bytes pa n
    let body := bs.take (n - 384)
    (imageCode body (bs.drop (n - 384)), sha256 body)

/-- FIRMWARE_VERIFY_DONE (R416). -/
def execFirmwareVerifyDone (s : State) : Out :=
  if s.host.boot ≠ .verifying then .next s
  else
    let v := s.verifyImage
    if v.1 = 0 then .next (s.setHost { s.host with boot := .running, bootCode := 0, fwDigest := v.2 })
    else .next (s.setHost { s.host with boot := .refused, bootCode := v.1 })

/-- BOOT as it reads (R416). -/
def HostState.bootWord (h : HostState) : Nat := h.bootCode * 2 ^ 16 + h.boot.code

/-- ATTESTATION_REQUEST (R417): a nonce written; a report begun is begun again. -/
def execAttestationRequest (nonce : BitVec 256) (s : State) : Out :=
  .next (s.setHost { s.host with nonce := some nonce, attDone := false })

/-- The device's public key, modulus and exponent, as BAR0 shows it (R417). -/
def deviceKey : List Byte := leBytes 384 Config.deviceModulus ++ leBytes 128 Config.deviceExponent

/-- The bytes of a digest, in the order SHA-256 gives them. -/
def digestBytes (d : BitVec 256) : List Byte := (leBytes 32 d.toNat).reverse

/-- The report on a nonce (R417). -/
def HostState.attest (h : HostState) (nonce : BitVec 256) : Report :=
  let id := sha256 deviceKey
  let d := sha256 (digestBytes id ++ digestBytes h.fwDigest ++ leBytes 32 nonce.toNat ++ leBytes 8 Config.straps.toNat)
  { deviceId := id
    bodyDigest := h.fwDigest
    nonce := nonce
    straps := Config.straps
    signature := BitVec.ofNat 3072 (modPow (pkcsEncode d.toNat) Config.devicePrivate Config.deviceModulus 3072) }

/-- ATTESTATION_REPORT (R417): the signed report written, its done bit set. -/
def execAttestationReport (s : State) : Out :=
  match s.host.nonce with
  | none => .next s
  | some n => .next (s.setHost { s.host with report := some (s.host.attest n), attDone := true, nonce := none })

/-! ### Power (R419) -/

/-- POWER_THROTTLE (R20, R419): clocks lowered above 95 °C or the power cap; this changes only time. -/
def execPowerThrottle (cause : ThermalCause) (s : State) : Out :=
  match cause with
  | .junction95 | .powerCap => .next (s.setHost { s.host with throttled := true })
  | .junction110 | .coolantLoss => .next s

/-- THERMAL_TRIP (R419): at 110 °C or without coolant flow power is removed, all state lost, the cause latched. -/
def execThermalTrip (cause : ThermalCause) (s : State) : Out :=
  match cause with
  | .junction110 | .coolantLoss =>
    let s1 := s.bare false
    .next (s1.setHost { s1.host with cause := some cause })
  | .junction95 | .powerCap => .next s

end Sys2Proof.Machine
end

