-- ==== Sys2Proof/Machine/LoadStore.lean ====
section
/-! DEFINITION. Loads and stores (R178 to R181, R193, R194). -/

namespace Sys2Proof.Machine

/-- A load that misses: its residence ends with a line request of the core; an entry it overlaps drains first (R179). -/
def State.loadMiss (s : State) (d : BitVec 5) (va : Dword) (pa : Nat) (form : LoadForm) (after : Option Nat) : State :=
  let st := s.me
  s.suspend st d .completion .nothing fun s1 t =>
    (s1.startDrain st.core after.toList).modCore st.core fun c =>
      c.request (pa / 128) st.ctx (lineVa va) (.load st.sid t va pa form) after

/-- An ordinary load of a strata word: served at its home slice (R178, R202). -/
def State.strataLoad (s : State) (d : BitVec 5) (va : Dword) (pa : Nat) (form : LoadForm) : State :=
  let st := s.me
  s.suspend st d .completion .nothing fun s1 t =>
    s1.setSlice { s1.slice with
      ldvs := s1.slice.ldvs ++ [{ id := s1.slice.nextId, core := st.core, sid := st.sid, tag := t, ctx := st.ctx, task := st.task,
                                  va := va, pa := pa, form := .newest form }]
      nextId := s1.slice.nextId + 1 }

/-- A load of the host window: one PCI Express read, its completion on the way (R73, R178). -/
def State.hostLoad (s : State) (d : BitVec 5) (pa : Nat) (form : LoadForm) : State :=
  let st := s.me
  s.suspend st d .completion .nothing fun s1 t =>
    s1.sendCompletion { core := st.core, sid := st.sid, space := 2, tag := t, value := form.extend (s.mem.readN pa form.size) }

/-- A load whose address has been translated (R178, R179). -/
def State.loadAt (s : State) (d : BitVec 5) (va : Dword) (form : LoadForm) (pa : Nat) : State :=
  let st := s.me
  if s.inStrata st.ctx va.toNat then s.strataLoad d va pa form
  else if isHost pa then s.hostLoad d pa form
  else
    match (s.core st.core).loadPath (pa / 128) (pa % 128) form.size with
    | .value v => s.result d (form.extend v)
    | .miss after => s.loadMiss d va pa form after

/-- A load (R193). -/
def State.load (s : State) (d a : BitVec 5) (imm : BitVec 16) (form : LoadForm) : Out :=
  let va := s.me.address a imm
  if va.toNat % form.size ≠ 0 then .next (s.fault 0x02 va)
  else .next (s.access va .read (s.loadAt d va form))

/-- A store whose address has been translated: the L1 copy, the coalescing buffer; or one posted write to the host (R181,
R194). Where the store must wait for an entry, the strand stays at it. -/
def State.storeAt (s : State) (va : Dword) (n v pa : Nat) : State :=
  let st := s.me
  if isHost pa then (s.store pa (leBytes n v)).done
  else
    let line := pa / 128
    let off := pa % 128
    match (s.core st.core).cbStore line off n v st.ctx (va.toNat / 2 ^ 16) with
    | (true, c) => (s.setCore st.core (c.l1Write line fun x => linePut x off n v)).done
    | (false, c) => s.setCore st.core c

/-- A store of n bytes of g(d) (R193). A scout's store has no effect (R194). -/
def State.storeOp (s : State) (d a : BitVec 5) (imm : BitVec 16) (n : Nat) : Out :=
  let st := s.me
  let va := st.address a imm
  if st.scout then .next s.done
  else if va.toNat % n ≠ 0 then .next (s.fault 0x02 va)
  else if s.inStrata st.ctx va.toNat then .next (s.fault 0x04 va)
  else .next (s.access va .write (s.storeAt va n ((st.g d).toNat % 2 ^ (8 * n))))

/-- LDB (R193). -/
def execLdb (d a : BitVec 5) (imm : BitVec 16) (s : State) : Out := s.load d a imm ⟨1, true⟩

/-- LDBU (R193). -/
def execLdbu (d a : BitVec 5) (imm : BitVec 16) (s : State) : Out := s.load d a imm ⟨1, false⟩

/-- LDH (R193). -/
def execLdh (d a : BitVec 5) (imm : BitVec 16) (s : State) : Out := s.load d a imm ⟨2, true⟩

/-- LDHU (R193). -/
def execLdhu (d a : BitVec 5) (imm : BitVec 16) (s : State) : Out := s.load d a imm ⟨2, false⟩

/-- LDW (R193). -/
def execLdw (d a : BitVec 5) (imm : BitVec 16) (s : State) : Out := s.load d a imm ⟨4, true⟩

/-- LDWU (R193). -/
def execLdwu (d a : BitVec 5) (imm : BitVec 16) (s : State) : Out := s.load d a imm ⟨4, false⟩

/-- LDD (R193). -/
def execLdd (d a : BitVec 5) (imm : BitVec 16) (s : State) : Out := s.load d a imm ⟨8, false⟩

/-- STB (R193). -/
def execStb (d a : BitVec 5) (imm : BitVec 16) (s : State) : Out := s.storeOp d a imm 1

/-- STH (R193). -/
def execSth (d a : BitVec 5) (imm : BitVec 16) (s : State) : Out := s.storeOp d a imm 2

/-- STW (R193). -/
def execStw (d a : BitVec 5) (imm : BitVec 16) (s : State) : Out := s.storeOp d a imm 4

/-- STD (R193). -/
def execStd (d a : BitVec 5) (imm : BitVec 16) (s : State) : Out := s.storeOp d a imm 8

end Sys2Proof.Machine
end

