-- ==== Sys2Proof/Machine/Translation.lean ====
section
/-! DEFINITION. Walks and shootdowns (R383 to R387). -/

namespace Sys2Proof.Machine

/-- WALK_START (R386): the oldest miss of a die's queue, where fewer than 1,024 walks are in flight. -/
def execWalkStart (die : Nat) (s : State) : Out :=
  let mine := s.trans.walks.filter (·.die = die)
  match mine.find? (!·.started) with
  | none => .next s
  | some w =>
    if 1024 ≤ (mine.filter (·.started)).length then .next s
    else .next (s.setTrans { s.trans with walks := s.trans.walks.map fun (x : Walk) => if x.id = w.id then { x with started := true } else x })

/-- A leaf put into a TLB of n entries: one that is there already replaced, else a victim's place taken (R386). -/
def tlbInsert (n pick : Nat) (t : TlbEntry) (l : List TlbEntry) : List TlbEntry :=
  let rest := l.filter fun x => !(x.ctx = t.ctx && x.bits = t.bits && x.page = t.page)
  if rest.length < n then t :: rest else t :: rest.eraseIdx (pick % n)

/-- A leaf cached at a die and, for a waiting strand, at its core. -/
def State.cacheAtDie (s : State) (die : Nat) (t : TlbEntry) : State :=
  let c := s.choose 32768
  c.2.setTrans { c.2.trans with dieTlb := c.2.trans.dieTlb.set die (tlbInsert 32768 c.1 t (c.2.trans.dieTlb.getD die [])) }

def State.cacheAtCore (s : State) (core : Nat) (t : TlbEntry) : State :=
  let c := s.choose 256
  c.2.modCore core fun (x : CoreState) => { x with tlb := tlbInsert 256 c.1 t x.tlb }

/-- A prefetch that waits for a walk no longer (R195). -/
def CoreState.dropPf (c : CoreState) (ctx : Nat) (va : Dword) : CoreState := { c with pfWaits := c.pfWaits.erase ⟨ctx, va⟩ }

/-- Who waited for a walk, told its end (R47, R195, R386). -/
def State.tellWaiters (s : State) (ctx : Nat) (r : Except Nat TlbEntry) : List WalkWaiter → State
  | [] => s
  | .strand core sid tag va acc :: t =>
    let k := keyOf core sid
    let s1 := match r with
      | .ok e => s.cacheAtCore core e
      | .error code =>
        if s.awaits core sid tag then s.setStrand k { s.strand k with walkFault := some ⟨va, acc, code⟩ } else s
    (s1.sendCompletion { core := core, sid := sid, space := 2, tag := tag, value := 0 }).tellWaiters ctx r t
  | .prefetch core va :: t =>
    let s1 := s.modCore core fun c => c.dropPf ctx va
    let s2 := match r with
      | .ok e => if granted e.pte .read then s1.prefetchLine core ctx va (e.phys va.toNat) else s1
      | .error _ => s1
    s2.tellWaiters ctx r t

/-- WALK_DONE (R385, R386): a leaf is cached and also satisfies the misses inside its page; a refusal is told to those that wait.
A walk that a shootdown has caught is walked again (R387). -/
def execWalkDone (walk : Nat) (s : State) : Out :=
  match s.trans.walks.find? fun w => w.id = walk && w.started with
  | none => .next s
  | some w =>
    if w.again then
      .next (s.setTrans { s.trans with walks := s.trans.walks.map fun (x : Walk) => if x.id = walk then { x with again := false } else x })
    else
      let r := s.walkVa w.ctx (w.page * 2 ^ 16)
      let inside (x : Walk) : Bool := match r with
        | .ok e => x.die = w.die && e.covers x.ctx (x.page * 2 ^ 16)
        | .error _ => false
      let hit (x : Walk) : Bool := x.id = walk || inside x
      let waiters := (s.trans.walks.filter hit).flatMap (·.waiters)
      let s1 := s.setTrans { s.trans with walks := s.trans.walks.filter fun x => !hit x }
      let s2 := match r with
        | .ok e => s1.cacheAtDie w.die e
        | .error _ => s1
      .next (s2.tellWaiters w.ctx r waiters)

/-! ### Shootdowns (R387) -/

/-- Whether a shootdown drops a cached leaf. -/
def Shootdown.drops (d : Shootdown) (e : TlbEntry) : Bool :=
  match d.range with
  | 0 => e.covers d.ctx d.va
  | 1 => e.ctx = d.ctx
  | _ => true

/-- Whether a shootdown may concern a context. -/
def Shootdown.concerns (d : Shootdown) (ctx : Nat) : Bool := decide (2 ≤ d.range) || d.ctx = ctx

/-- Whether a coalescing-buffer entry holds stores of a context that a shootdown concerns. -/
def Shootdown.holdsIn (d : Shootdown) (e : CbEntry) : Bool := e.owners.any fun o => d.concerns o.1

/-- TLB_SHOOTDOWN (R387): entries dropped, walks in flight to be walked again, stores that were translated draining. -/
def execTlbShootdown (range : BitVec 2) (va : BitVec 64) (ctx : Nat) (s : State) : Out :=
  if s.trans.shootdown.isSome then .next s
  else
    let d : Shootdown := { range := range.toNat, va := field va.toNat 55 16 * 2 ^ 16, ctx := ctx }
    let s1 := { s with cores := s.cores.map fun (c : Nat × CoreState) =>
      (c.1, { c.2 with
        tlb := c.2.tlb.filter fun e => !d.drops e
        cb := c.2.cb.map fun (e : CbEntry) => if d.holdsIn e then { e with draining := true } else e }) }
    .next (s1.setTrans { s1.trans with
      shootdown := some d
      dieTlb := s1.trans.dieTlb.map fun x => (x.1, x.2.filter fun e => !d.drops e)
      walks := s1.trans.walks.map fun (w : Walk) => if w.started && d.concerns w.ctx then { w with again := true } else w })

/-- Whether an access translated before a shootdown may still be on its way (R387). -/
def State.accessesLeft (s : State) (d : Shootdown) : Bool :=
  s.trans.walks.any (fun w => w.again && d.concerns w.ctx)
    || s.cores.any (fun c => c.2.cb.any (fun e => e.draining && d.holdsIn e) || c.2.lineReqs.any fun r => d.concerns r.ctx)
    || s.slice.reqs.any (fun r => d.concerns r.ctx) || s.slice.stvs.any (fun r => !r.held && d.concerns r.ctx)
    || s.slice.ldvs.any (fun r => r.waiting.isNone && d.concerns r.ctx) || s.slice.rclms.any fun r => d.concerns r.ctx

/-- SHOOTDOWN_COMPLETE (R387): busy reads 0. -/
def execShootdownComplete (s : State) : Out :=
  match s.trans.shootdown with
  | none => .next s
  | some d => if s.accessesLeft d then .next s else .next (s.setTrans { s.trans with shootdown := none })

end Sys2Proof.Machine
end

