-- ==== Sys2Proof/Machine/Preempt.lean ====
section
/-! DEFINITION. Pre-emption, freeze-and-spill, context switches, resumption (R378 to R382, R420), and contexts destroyed (R377). -/

namespace Sys2Proof.Machine

/-! ### The request and its notice (R378, R379) -/

/-- Whether a context occupies a core: strands, regions, configurations, iterations or commands of it are there. -/
def State.occupies (s : State) (core ctx : Nat) : Bool :=
  let c := s.core core
  s.strands.any (fun x => x.1 / 65536 = core && x.2.ctx = ctx) || c.regions.any (·.2.ctx = ctx) || c.ready.any (·.ctx = ctx)
    || c.iters.any (·.ctx = ctx) || s.cmds.any fun x => x.core = core && x.ctx = ctx

/-- The system strand: the live root strand of a context with the lowest id (R379). -/
def State.systemStrand (s : State) (core ctx : Nat) : Option Nat :=
  (s.strands.filter fun x => x.1 / 65536 = core && x.2.ctx = ctx && !x.2.scout && x.2.parent.isNone).foldl
    (fun (b : Option Nat) x => match b with
      | none => some x.1
      | some k => if x.1 < k then some x.1 else some k) none

/-- A record as a notice leaves it: made ready where it is ready, on the Retry path, or a JOIN's, which executes again (R379). -/
def State.noticeRecord (s : State) (k : Nat) : State :=
  match s.records.get? k with
  | none => s
  | some r =>
    if r.sys then s
    else if r.kind = .join then
      s.markReady k fun x => ({ x with y := true, pc := x.ownPc, loop := x.ownLoop } : Record).sealed
    else if r.ready || r.retry then s.markReady k fun x => ({ x with y := true, space := 0, tag := 0 } : Record).sealed
    else s

/-- The notice given to the system strand, where there is one with a handler (R379). -/
def State.giveNotice (s : State) (core ctx deadline : Nat) : State :=
  match s.systemStrand core ctx with
  | none => s
  | some k =>
    let st := s.strand k
    if field st.tvec.toNat 55 2 = 0 then s
    else (s.setStrand k { st with notice := some deadline }).noticeRecord k

/-- PREEMPT (R378, R379). -/
def execPreempt (core : Nat) (ctx : Nat) (notice : Bool) (window : Nat) (s : State) : Out :=
  let c := s.core core
  if c.preemption.isSome || c.out.contains ctx || !s.occupies core ctx then .next s
  else
    let w := if notice then 1000 * window else 0
    let s1 := s.modCore core fun (x : CoreState) => { x with preemption := some { ctx := ctx, deadline := s.tns + w } }
    .next (if 0 < w then s1.giveNotice core ctx (s.tns + w) else s1)

/-! ### The deadline (R323, R380) -/

/-- A context killed for want of room for its records (R323, R376). The detail of its event is a free value. -/
def State.overflowKill (s : State) (core ctx : Nat) : State :=
  let d := s.draw
  (d.2.raiseEvent ctx { kind := 0x07, core := core, detail := field d.1.toNat 7 0, code := 0x06 }).killCtx ctx 0x06

/-- Resident strands deposited as kind 2; a scout ends, for its record is never spilled (R323, R327, R380). -/
def State.yieldStrands (s : State) (core ctx : Nat) : List Nat → State
  | [] => s
  | k :: ks =>
    let st := s.strand k
    if st.scout then (s.endStrand k).yieldStrands core ctx ks
    else
      match s.depositAt k .forced fun p => { kind := .preempted, wait := .resumption, ownPc := st.pc, place := p } with
      | some s1 => s1.yieldStrands core ctx ks
      | none => s.overflowKill core ctx

/-- PREEMPT_DEADLINE (R380): strands yield at their boundaries, the boundary of generation where R301 lets it; a notice not yet
delivered no longer is. -/
def execPreemptDeadline (core : Nat) (s : State) : Out :=
  let c := s.core core
  match c.preemption with
  | none => .next s
  | some p =>
    if p.yielded || s.tns < p.deadline then .next s
    else
      let mine (x : Nat × Strand) : Bool := x.1 / 65536 = core && x.2.ctx = p.ctx
      let s1 := { s with strands := s.strands.map fun x => if mine x then (x.1, { x.2 with notice := none }) else x }
      let going := (c.regions.filter fun r => r.2.ctx = p.ctx && r.2.status = .running).map (·.1)
      let s2 := s1.modCore core fun (x : CoreState) =>
        { x with preemption := some { p with yielded := true, freezeAt := s.tns + 1000 * c.freezeUs, passing := going } }
      let keys := ((s2.residents core).filter mine).map (·.1)
      .next ((s2.yieldStrands core p.ctx keys).nextIter core)

/-! ### Freeze and spill (R381) -/

/-- Ports that a region binds. -/
def Region.boundPorts (r : Region) : List Nat :=
  r.links.filterMap fun (l : Link) => match l.binding with
    | .internal => none
    | .input p => some p
    | .output p => some p

/-- The regions of a context taken off a core with all that R381 names: every region but one whose pass, under way at the
deadline, has completed since (R380). -/
def CoreState.freeze (c : CoreState) (ctx : Nat) (passing : List Nat) : CoreState :=
  let mine (r : Region) : Bool := r.ctx = ctx && !(passing.contains r.number && r.status = .idle)
  let rs := (c.regions.filter fun r => mine r.2).map (·.2)
  if rs.isEmpty then c
  else
    let ports := rs.flatMap Region.boundPorts
    let f : Frozen :=
      { ctx := ctx, regions := rs, w := c.w, a := c.a, c := c.c
        streams := c.streams.filter (·.ctx = ctx), ports := c.ports.filter fun p => ports.contains p.1 }
    { c with
      regions := c.regions.filter fun r => !mine r.2
      streams := c.streams.filter (·.ctx ≠ ctx)
      ports := c.ports.filter fun p => !ports.contains p.1
      frozen := c.frozen ++ [f] }

/-- Whether a pass of a context runs on a core. -/
def CoreState.passes (c : CoreState) (ctx : Nat) : Bool := c.regions.any fun r => r.2.ctx = ctx && r.2.status = .running

/-- FREEZE_THRESHOLD_EXPIRY (R380, R381): at the threshold's end, or as soon as no pass is left to wait for. -/
def execFreezeThresholdExpiry (core : Nat) (s : State) : Out :=
  match (s.core core).preemption with
  | none => .next s
  | some p =>
    if !p.yielded || p.frozen || ((s.core core).passes p.ctx && s.tns < p.freezeAt) then .next s
    else .next (s.modCore core fun c => { c.freeze p.ctx p.passing with preemption := some { p with frozen := true } })

/-! ### Resumption (R382, R420) -/

/-- Whether a region stands in the way of one to be restored: a cell, a port, an MRE or a typed-buffer range in common (R420). -/
def Region.standsOn (x y : Region) : Bool := x.clashes y || x.area.any y.area.contains

/-- Idle regions that hold what regions to be restored need, unloaded (R420). -/
def CoreState.makeWay (c : CoreState) : CoreState :=
  { c with regions := c.regions.filter fun x => x.2.status = .running || !c.awaited.any x.2.standsOn }

/-- Kind-2 records made ready (R320). -/
def State.readyPreempted (s : State) (core ctx : Nat) : State :=
  ((s.records.filter fun x => x.1 / 65536 = core && x.2.ctx = ctx && x.2.kind = .preempted).map (·.1)).foldl
    (fun (a : State) k => a.markReady k id) s

/-- A context resumed on a core (R301, R382, R420). -/
def State.resumeCtx (s : State) (core ctx : Nat) : State :=
  let s1 := s.modCore core fun (c : CoreState) =>
    ({ c with
       out := c.out.filter (· ≠ ctx)
       frozen := c.frozen.map fun (f : Frozen) => if f.ctx = ctx then { f with toRestore := f.regions.map (·.number) } else f
       iters := c.iters.map fun (it : Iter) => if it.ctx = ctx then { it with commit := {} } else it } : CoreState).makeWay
  ((s1.readyPreempted core ctx).nextIter core).drainEp

/-- RESUME (R378, R382). -/
def execResume (core : Nat) (ctx : Nat) (s : State) : Out :=
  let c := s.core core
  match c.preemption with
  | some p =>
    if p.ctx = ctx then .next (s.setCore core { c with preemption := some { p with resumeAfter := true } })
    else if c.out.contains ctx then .next (s.resumeCtx core ctx)
    else .next s
  | none => if c.out.contains ctx then .next (s.resumeCtx core ctx) else .next s

/-! ### The switch (R323, R382) -/

/-- Every record of a context on a core spilled; none where the area lacks room (R323). Scouts' records end. -/
def State.spillAll (s : State) (core ctx : Nat) : Option State :=
  let mine (x : Nat × Record) : Bool := x.1 / 65536 = core && x.2.ctx = ctx
  let scouts := (s.strands.filter fun x => x.1 / 65536 = core && x.2.ctx = ctx && x.2.scout).map (·.1)
  let s1 := s.dropStrands scouts
  let s2 := { s1 with records := s1.records.map fun x => if mine x then (x.1, { x.2 with place := .spill }) else x }
  if s2.spillUsed ctx ≤ (s.ctx ctx).spillRecords then some s2 else none

/-- The core vacated: a resumption that waited takes place (R378). -/
def State.vacate (s : State) (core : Nat) (p : Preemption) : State :=
  let s1 := s.modCore core fun (c : CoreState) =>
    { (c.acquire 2).clearBuffers none with preemption := none, out := p.ctx :: c.out }
  if p.resumeAfter then s1.resumeCtx core p.ctx else s1

/-- Whether the pre-emption points of R380 are past: its strands and its iteration have yielded, its regions are frozen. -/
def CoreState.pointsPast (c : CoreState) (p : Preemption) : Bool := p.yielded && p.frozen && !c.passes p.ctx

/-- CONTEXT_SWITCH (R382): the coalescing buffer drains; then the L1 is invalidated, the records are spilled, the typed buffers
are cleared, and the core is vacated. -/
def execContextSwitch (core : Nat) (s : State) : Out :=
  let c := s.core core
  match c.preemption with
  | none => .next s
  | some p =>
    if !c.pointsPast p then .next s
    else if !c.cb.isEmpty then .next (s.drainAll core)
    else
      match s.spillAll core p.ctx with
      | none => .next (s.overflowKill core p.ctx)
      | some s1 => .next (s1.vacate core p)

/-! ### Restoration (R381, R420) -/

/-- A saved table's entries of some places put back over a table's. -/
def mergeTbl {α : Type} (at_ : Nat → Bool) (saved now : Tbl α) : Tbl α :=
  saved.filter (fun x => at_ x.1) ++ now.filter fun x => !at_ x.1

/-- W, A and C of a frozen context as they were saved, but for what running configurations hold (R192, R381). -/
def CoreState.refill (c : CoreState) (f : Frozen) : CoreState :=
  { c.clearBuffers (some f.ctx) with
    w := mergeTbl (fun k => !c.held .w (8 * k)) f.w c.w
    a := mergeTbl (fun k => !c.heldA k) f.a c.a
    c := mergeTbl (fun k => !c.held .c (4 * k)) f.c c.c }

/-- A held AG tries its element again whenever its context is resumed (R376). -/
def Cell.retryNow (c : Cell) (tns : Nat) : Cell :=
  { c with ag := { c.ag with fault := c.ag.fault.map fun (f : AgFault) => { f with retryAt := tns } } }

/-- A frozen region put back with its ports; the first also brings the typed buffers and the stream map. -/
def CoreState.restore (c : CoreState) (f : Frozen) (r : Region) (tns : Nat) : CoreState :=
  let c1 := if c.bufCtx = some f.ctx then c else c.refill f
  let ports := r.boundPorts
  let left := f.regions.filter (·.number ≠ r.number)
  let f1 : Frozen := { f with regions := left, toRestore := f.toRestore.filter (· ≠ r.number), streams := [] }
  { c1 with
    regions := c1.regions.set r.number { r with cells := r.cells.map fun x => (x.1, x.2.retryNow tns) }
    streams := f.streams ++ c1.streams
    ports := mergeTbl ports.contains f.ports c1.ports
    frozen := if left.isEmpty then c1.frozen.filter (·.ctx ≠ f.ctx)
              else c1.frozen.map fun (x : Frozen) => if x.ctx = f.ctx then f1 else x }

/-- Whether the state slots of a frozen context's streams are free again. -/
def CoreState.slotsFree (c : CoreState) (f : Frozen) : Bool :=
  f.streams.all fun x => x.slot.isNone || c.streams.all fun y => y.slot ≠ x.slot

/-- REGION_RESTORE (R420): once nothing that runs holds its cells and resources. -/
def execRegionRestore (core : Nat) (region : Nat) (s : State) : Out :=
  let c := (s.core core).makeWay
  match c.frozen.find? fun f => f.toRestore.contains region with
  | none => .next s
  | some f =>
    match f.regions.find? (·.number = region) with
    | none => .next s
    | some r =>
      if c.regions.any (fun x => x.2.standsOn r) || !(c.clearBuffers (some f.ctx)).slotsFree f then .next (s.setCore core c)
      else .next (s.setCore core (c.restore f r s.tns))

/-! ### Contexts destroyed (R81, R98, R121, R186, R377) -/

/-- The pins of a context taken off: a stale line without one has no data to keep. -/
def CoreState.unpinAll (c : CoreState) (ctx : Nat) : CoreState :=
  { c with l1 := c.l1.filterMap fun (l : L1Line) =>
      if l.pin = some ctx then (if l.stale then none else some { l with pin := none }) else some l }

/-- CONTEXT_DESTROY (R377). The failure code of a replay that the destruction ends is a free value. -/
def execContextDestroy (ctx : Nat) (s : State) : Out :=
  if !(s.ctx ctx).created then .next s
  else
    let d := s.draw
    let s1 := if (s.ctx ctx).dead then s else d.2.killCtx ctx (field d.1.toNat 7 0)
    let s2 := { s1 with
      cores := s1.cores.map fun (c : Nat × CoreState) => (c.1, c.2.unpinAll ctx)
      ctxs := s1.ctxs.erase ctx }
    let free (x : SliceLine) : SliceLine := if x.lockedBy = some ctx then { x with lockedBy := none } else x
    .next (s2.setSlice { s2.slice with lines := s2.slice.lines.map free })

end Sys2Proof.Machine
end

