-- ==== Sys2Proof/Machine/System.lean ====
section
/-! DEFINITION. CSRs, traps, ERET, NOP and illegal words (R27, R349 to R355). -/

namespace Sys2Proof.Machine

/-- Lines a context holds pinned on a core (R187). -/
def State.pinCount (s : State) (core ctx : Nat) : Nat := ((s.core core).l1.filter (·.pin = some ctx)).length

/-- The loop values a CSR names: live in task mode, the trap frame's in system mode (R349). -/
def Strand.loopView (st : Strand) : LoopState := if st.sys then st.frame else st.loop

/-- A CSR's value (R349, R350). -/
def State.csr (s : State) (st : Strand) (n : BitVec 12) : Dword :=
  match n.toNat with
  | 0x000 => dw st.ctx
  | 0x001 => dw (st.sibling.toNat * 2 ^ 32 + st.core * 2 ^ 16 + st.sid)
  | 0x002 => st.dmask.zeroExtend 64
  | 0x003 => s.mstat st
  | 0x004 => st.cause.zeroExtend 64
  | 0x005 => st.epc
  | 0x006 => st.tval
  | 0x007 => st.tvec
  | 0x008 => st.loopView.lcnt.zeroExtend 64
  | 0x009 => st.loopView.lbeg
  | 0x00A => st.loopView.lend
  | 0x00B => st.loopView.rcnt.zeroExtend 64
  | 0x00C => st.fflags.zeroExtend 64
  | 0x00D => st.frm.zeroExtend 64
  | 0x010 => dw (s.core st.core).cyc
  | 0x011 => dw s.tns
  | 0x020 => dw ((s.ctx st.ctx).pinQuota % 2 ^ 24 * 2 ^ 24 + s.pinCount st.core st.ctx % 2 ^ 24)
  | 0x021 => dw ((s.ctx st.ctx).lockQuota % 2 ^ 24 * 2 ^ 24 + s.lockCount st.ctx % 2 ^ 24)
  | 0x030 => st.prio.zeroExtend 64
  | 0x031 => st.budget.zeroExtend 64
  | 0x040 => (s.ctx st.ctx).seed
  | _ => 0

/-- PC bits [55:2] of a value (R350). -/
def pcBits (v : Dword) : Dword := dw (field v.toNat 55 2 * 4)

/-- The priority of a strand's task, which bounds its prio (R350). -/
def State.taskPrio (s : State) (st : Strand) : Nat :=
  match s.task st.task with
  | some t => t.priority
  | none => 0

/-- A CSR written; reserved bits are ignored (R350). -/
def State.csrSet (s : State) (st : Strand) (n : BitVec 12) (v : Dword) : Strand :=
  match n.toNat with
  | 0x004 => { st with cause := v.truncate 8 }
  | 0x005 => { st with epc := pcBits v }
  | 0x006 => { st with tval := v }
  | 0x007 => { st with tvec := pcBits v }
  | 0x008 => { st with frame := { st.frame with lcnt := v.truncate 32 } }
  | 0x009 => { st with frame := { st.frame with lbeg := pcBits v } }
  | 0x00A => { st with frame := { st.frame with lend := pcBits v } }
  | 0x00B => { st with frame := { st.frame with rcnt := v.truncate 32 } }
  | 0x00C => { st with fflags := v.truncate 5 }
  | 0x00D => { st with frm := v.truncate 3 }
  | 0x030 => { st with prio := BitVec.ofNat 3 (min (v.toNat % 8) (s.taskPrio st)) }
  | 0x031 => { st with budget := v.truncate 32 }
  | _ => st

/-- Whether some mode may write a CSR; a scout's budget is read-only in both (R349). -/
def Strand.mayEverWrite (st : Strand) (n : BitVec 12) : Bool := csrWritable n && !(st.scout && n == 0x031)

/-- A write form: illegal where no mode writes the CSR, a privilege fault where only system mode does, else the write, with
the old value to g(d) (R28, R349, R351). -/
def State.csrOp (s : State) (i : Instr) (d : BitVec 5) (n : BitVec 12) (f : Dword → Dword) : Out :=
  let st := s.me
  if !st.mayEverWrite n then .next (s.fault 0x01 (wordOf i))
  else if !st.sys && !csrTaskWritable n then .next (s.fault 0x05 (wordOf i))
  else .next (s.complete ((s.csrSet st n (f (s.csr st n))).setG d (s.csr st n)))

/-- CSRR (R351). -/
def execCsrr (d : BitVec 5) (csr : BitVec 12) (s : State) : Out :=
  if csrPresent csr then .next (s.result d (s.csr s.me csr)) else .next (s.fault 0x01 (wordOf (.csrr d csr)))

/-- CSRW (R351). -/
def execCsrw (d a : BitVec 5) (csr : BitVec 12) (s : State) : Out := s.csrOp (.csrw d a csr) d csr fun _ => s.me.g a

/-- CSRS (R351). -/
def execCsrs (d a : BitVec 5) (csr : BitVec 12) (s : State) : Out := s.csrOp (.csrs d a csr) d csr fun old => old ||| s.me.g a

/-- CSRC (R351). -/
def execCsrc (d a : BitVec 5) (csr : BitVec 12) (s : State) : Out :=
  s.csrOp (.csrc d a csr) d csr fun old => old &&& ~~~(s.me.g a)

/-- TRAP: fault 0x10 with the code (R353). -/
def execTrap (code : BitVec 12) (s : State) : Out := .next (s.fault 0x10 (code.zeroExtend 64))

/-- BRK: fault 0x0F (R353). -/
def execBrk (s : State) : Out := .next (s.fault 0x0F 0)

/-- ERET: system-only; an unreturnable frame is a fault in system mode (R354). -/
def execEret (s : State) : Out :=
  let st := s.me
  if !st.sys then .next (s.fault 0x05 (wordOf .eret))
  else if !st.frame.returnable then .next (s.fault 0x01 (wordOf .eret))
  else .next (s.putMe st.leave)

/-- NOP (R355). -/
def execNop (s : State) : Out := .next s.done

/-- A fetched word that no form assigns (R27). -/
def execIllegalInstruction (word : BitVec 32) (s : State) : Out := .next (s.fault 0x01 (word.zeroExtend 64))

end Sys2Proof.Machine
end

