-- ==== Sys2Proof/Machine/Dispatch.lean ====
section
/-! DEFINITION. What each instruction does: one arm per constructor, each a direct call of its meaning. -/

namespace Sys2Proof.Machine

def exec (i : Instr) (s : State) : Host.Outcome State Fault Refusal :=
  match i with
  | .add d a b => Sys2Proof.Machine.execAdd d a b s
  | .sub d a b => Sys2Proof.Machine.execSub d a b s
  | .and d a b => Sys2Proof.Machine.execAnd d a b s
  | .or d a b => Sys2Proof.Machine.execOr d a b s
  | .xor d a b => Sys2Proof.Machine.execXor d a b s
  | .shl d a b => Sys2Proof.Machine.execShl d a b s
  | .shr d a b => Sys2Proof.Machine.execShr d a b s
  | .sra d a b => Sys2Proof.Machine.execSra d a b s
  | .mul d a b => Sys2Proof.Machine.execMul d a b s
  | .mulh d a b => Sys2Proof.Machine.execMulh d a b s
  | .mulhu d a b => Sys2Proof.Machine.execMulhu d a b s
  | .div d a b => Sys2Proof.Machine.execDiv d a b s
  | .divu d a b => Sys2Proof.Machine.execDivu d a b s
  | .rem d a b => Sys2Proof.Machine.execRem d a b s
  | .remu d a b => Sys2Proof.Machine.execRemu d a b s
  | .min d a b => Sys2Proof.Machine.execMin d a b s
  | .max d a b => Sys2Proof.Machine.execMax d a b s
  | .minu d a b => Sys2Proof.Machine.execMinu d a b s
  | .maxu d a b => Sys2Proof.Machine.execMaxu d a b s
  | .slt d a b => Sys2Proof.Machine.execSlt d a b s
  | .sltu d a b => Sys2Proof.Machine.execSltu d a b s
  | .clz d a => Sys2Proof.Machine.execClz d a s
  | .popc d a => Sys2Proof.Machine.execPopc d a s
  | .addW d a b => Sys2Proof.Machine.execAddW d a b s
  | .subW d a b => Sys2Proof.Machine.execSubW d a b s
  | .andW d a b => Sys2Proof.Machine.execAndW d a b s
  | .orW d a b => Sys2Proof.Machine.execOrW d a b s
  | .xorW d a b => Sys2Proof.Machine.execXorW d a b s
  | .shlW d a b => Sys2Proof.Machine.execShlW d a b s
  | .shrW d a b => Sys2Proof.Machine.execShrW d a b s
  | .sraW d a b => Sys2Proof.Machine.execSraW d a b s
  | .mulW d a b => Sys2Proof.Machine.execMulW d a b s
  | .addi d a imm => Sys2Proof.Machine.execAddi d a imm s
  | .andi d a imm => Sys2Proof.Machine.execAndi d a imm s
  | .ori d a imm => Sys2Proof.Machine.execOri d a imm s
  | .xori d a imm => Sys2Proof.Machine.execXori d a imm s
  | .shli d a amount => Sys2Proof.Machine.execShli d a amount s
  | .shri d a amount => Sys2Proof.Machine.execShri d a amount s
  | .srai d a amount => Sys2Proof.Machine.execSrai d a amount s
  | .slti d a imm => Sys2Proof.Machine.execSlti d a imm s
  | .sltiu d a imm => Sys2Proof.Machine.execSltiu d a imm s
  | .lih d a imm => Sys2Proof.Machine.execLih d a imm s
  | .addpc d imm => Sys2Proof.Machine.execAddpc d imm s
  | .jal d off => Sys2Proof.Machine.execJal d off s
  | .jalr d a imm => Sys2Proof.Machine.execJalr d a imm s
  | .beq a b off => Sys2Proof.Machine.execBeq a b off s
  | .bne a b off => Sys2Proof.Machine.execBne a b off s
  | .blt a b off => Sys2Proof.Machine.execBlt a b off s
  | .bge a b off => Sys2Proof.Machine.execBge a b off s
  | .bltu a b off => Sys2Proof.Machine.execBltu a b off s
  | .bgeu a b off => Sys2Proof.Machine.execBgeu a b off s
  | .loop a len => Sys2Proof.Machine.execLoop a len s
  | .rep a => Sys2Proof.Machine.execRep a s
  | .repImm count => Sys2Proof.Machine.execRepImm count s
  | .ldb d a imm => Sys2Proof.Machine.execLdb d a imm s
  | .ldbu d a imm => Sys2Proof.Machine.execLdbu d a imm s
  | .ldh d a imm => Sys2Proof.Machine.execLdh d a imm s
  | .ldhu d a imm => Sys2Proof.Machine.execLdhu d a imm s
  | .ldw d a imm => Sys2Proof.Machine.execLdw d a imm s
  | .ldwu d a imm => Sys2Proof.Machine.execLdwu d a imm s
  | .ldd d a imm => Sys2Proof.Machine.execLdd d a imm s
  | .stb d a imm => Sys2Proof.Machine.execStb d a imm s
  | .sth d a imm => Sys2Proof.Machine.execSth d a imm s
  | .stw d a imm => Sys2Proof.Machine.execStw d a imm s
  | .std d a imm => Sys2Proof.Machine.execStd d a imm s
  | .pf a => Sys2Proof.Machine.execPf a s
  | .flsh a => Sys2Proof.Machine.execFlsh a s
  | .invl a => Sys2Proof.Machine.execInvl a s
  | .pin d a => Sys2Proof.Machine.execPin d a s
  | .unpin d a => Sys2Proof.Machine.execUnpin d a s
  | .lock d a => Sys2Proof.Machine.execLock d a s
  | .unlock d a => Sys2Proof.Machine.execUnlock d a s
  | .atomAdd d a b scope size => Sys2Proof.Machine.execAtomAdd d a b scope size s
  | .atomAnd d a b scope size => Sys2Proof.Machine.execAtomAnd d a b scope size s
  | .atomOr d a b scope size => Sys2Proof.Machine.execAtomOr d a b scope size s
  | .atomXor d a b scope size => Sys2Proof.Machine.execAtomXor d a b scope size s
  | .atomMin d a b scope size => Sys2Proof.Machine.execAtomMin d a b scope size s
  | .atomMax d a b scope size => Sys2Proof.Machine.execAtomMax d a b scope size s
  | .atomMinu d a b scope size => Sys2Proof.Machine.execAtomMinu d a b scope size s
  | .atomMaxu d a b scope size => Sys2Proof.Machine.execAtomMaxu d a b scope size s
  | .atomSwp d a b scope size => Sys2Proof.Machine.execAtomSwp d a b scope size s
  | .atomCas d a b scope size => Sys2Proof.Machine.execAtomCas d a b scope size s
  | .fenceLd scope => Sys2Proof.Machine.execFenceLd scope s
  | .fenceSt scope => Sys2Proof.Machine.execFenceSt scope s
  | .fenceAll scope => Sys2Proof.Machine.execFenceAll scope s
  | .fenceEng scope => Sys2Proof.Machine.execFenceEng scope s
  | .ldvEq d a b => Sys2Proof.Machine.execLdvEq d a b s
  | .ldvGe d a b => Sys2Proof.Machine.execLdvGe d a b s
  | .stv d a imm => Sys2Proof.Machine.execStv d a imm s
  | .rclm a b => Sys2Proof.Machine.execRclm a b s
  | .fork d a b => Sys2Proof.Machine.execFork d a b s
  | .join => Sys2Proof.Machine.execJoin s
  | .endStrand => Sys2Proof.Machine.execEndStrand s
  | .yield => Sys2Proof.Machine.execYield s
  | .scmd d a b => Sys2Proof.Machine.execScmd d a b s
  | .scml d a b => Sys2Proof.Machine.execScml d a b s
  | .resp d a => Sys2Proof.Machine.execResp d a s
  | .pwr a port => Sys2Proof.Machine.execPwr a port s
  | .pwrS a port => Sys2Proof.Machine.execPwrS a port s
  | .pwrSl a port => Sys2Proof.Machine.execPwrSl a port s
  | .prd d port => Sys2Proof.Machine.execPrd d port s
  | .aclr port => Sys2Proof.Machine.execAclr port s
  | .ereg d a => Sys2Proof.Machine.execEreg d a s
  | .enew d a => Sys2Proof.Machine.execEnew d a s
  | .eapp d a b => Sys2Proof.Machine.execEapp d a b s
  | .ecur d a b => Sys2Proof.Machine.execEcur d a b s
  | .eseek d a b => Sys2Proof.Machine.execEseek d a b s
  | .ecfg d a b => Sys2Proof.Machine.execEcfg d a b s
  | .eplay d a b => Sys2Proof.Machine.execEplay d a b s
  | .ebranch d a => Sys2Proof.Machine.execEbranch d a s
  | .ecopy d a => Sys2Proof.Machine.execEcopy d a s
  | .esplice d a b => Sys2Proof.Machine.execEsplice d a b s
  | .ecalve d a b => Sys2Proof.Machine.execEcalve d a b s
  | .epos d a b => Sys2Proof.Machine.execEpos d a b s
  | .efree d a b => Sys2Proof.Machine.execEfree d a b s
  | .ginit d a => Sys2Proof.Machine.execGinit d a s
  | .gstep d a b => Sys2Proof.Machine.execGstep d a b s
  | .gmask d a b => Sys2Proof.Machine.execGmask d a b s
  | .gfork d a => Sys2Proof.Machine.execGfork d a s
  | .gsnap d a => Sys2Proof.Machine.execGsnap d a s
  | .groll d a b => Sys2Proof.Machine.execGroll d a b s
  | .gfree d a b => Sys2Proof.Machine.execGfree d a b s
  | .iter d a => Sys2Proof.Machine.execIter d a s
  | .hrel d a b => Sys2Proof.Machine.execHrel d a b s
  | .hdrop d a b => Sys2Proof.Machine.execHdrop d a b s
  | .hpeek d a b => Sys2Proof.Machine.execHpeek d a b s
  | .fadd d a b rm fmt => Sys2Proof.Machine.execFadd d a b rm fmt s
  | .fsub d a b rm fmt => Sys2Proof.Machine.execFsub d a b rm fmt s
  | .fmul d a b rm fmt => Sys2Proof.Machine.execFmul d a b rm fmt s
  | .fdiv d a b rm fmt => Sys2Proof.Machine.execFdiv d a b rm fmt s
  | .fsqrt d a rm fmt => Sys2Proof.Machine.execFsqrt d a rm fmt s
  | .fmin d a b fmt => Sys2Proof.Machine.execFmin d a b fmt s
  | .fmax d a b fmt => Sys2Proof.Machine.execFmax d a b fmt s
  | .ffma d a b rm fmt => Sys2Proof.Machine.execFfma d a b rm fmt s
  | .feq d a b fmt => Sys2Proof.Machine.execFeq d a b fmt s
  | .flt d a b fmt => Sys2Proof.Machine.execFlt d a b fmt s
  | .fle d a b fmt => Sys2Proof.Machine.execFle d a b fmt s
  | .fclass d a fmt => Sys2Proof.Machine.execFclass d a fmt s
  | .fcvtFloat d a rm fmt => Sys2Proof.Machine.execFcvtFloat d a rm fmt s
  | .fcvtFromL d a rm fmt => Sys2Proof.Machine.execFcvtFromL d a rm fmt s
  | .fcvtFromLu d a rm fmt => Sys2Proof.Machine.execFcvtFromLu d a rm fmt s
  | .fcvtToL d a rm fmt => Sys2Proof.Machine.execFcvtToL d a rm fmt s
  | .fcvtToLu d a rm fmt => Sys2Proof.Machine.execFcvtToLu d a rm fmt s
  | .fcvtToW d a rm fmt => Sys2Proof.Machine.execFcvtToW d a rm fmt s
  | .fcvtToWu d a rm fmt => Sys2Proof.Machine.execFcvtToWu d a rm fmt s
  | .csrr d csr => Sys2Proof.Machine.execCsrr d csr s
  | .csrw d a csr => Sys2Proof.Machine.execCsrw d a csr s
  | .csrs d a csr => Sys2Proof.Machine.execCsrs d a csr s
  | .csrc d a csr => Sys2Proof.Machine.execCsrc d a csr s
  | .trap code => Sys2Proof.Machine.execTrap code s
  | .eret => Sys2Proof.Machine.execEret s
  | .brk => Sys2Proof.Machine.execBrk s
  | .nop => Sys2Proof.Machine.execNop s
  | .vadd e => Sys2Proof.Machine.execVadd e s
  | .vsub e => Sys2Proof.Machine.execVsub e s
  | .vmul e => Sys2Proof.Machine.execVmul e s
  | .vmulh e => Sys2Proof.Machine.execVmulh e s
  | .vmad e => Sys2Proof.Machine.execVmad e s
  | .vmin e => Sys2Proof.Machine.execVmin e s
  | .vmax e => Sys2Proof.Machine.execVmax e s
  | .vabs e => Sys2Proof.Machine.execVabs e s
  | .vneg e => Sys2Proof.Machine.execVneg e s
  | .vand e => Sys2Proof.Machine.execVand e s
  | .vor e => Sys2Proof.Machine.execVor e s
  | .vxor e => Sys2Proof.Machine.execVxor e s
  | .vnot e => Sys2Proof.Machine.execVnot e s
  | .vshl e => Sys2Proof.Machine.execVshl e s
  | .vshr e => Sys2Proof.Machine.execVshr e s
  | .vsra e => Sys2Proof.Machine.execVsra e s
  | .vclip e => Sys2Proof.Machine.execVclip e s
  | .vadds e => Sys2Proof.Machine.execVadds e s
  | .vsubs e => Sys2Proof.Machine.execVsubs e s
  | .vcmp e => Sys2Proof.Machine.execVcmp e s
  | .vsel e => Sys2Proof.Machine.execVsel e s
  | .vval e => Sys2Proof.Machine.execVval e s
  | .vscan e => Sys2Proof.Machine.execVscan e s
  | .fvadd e => Sys2Proof.Machine.execFvadd e s
  | .fvsub e => Sys2Proof.Machine.execFvsub e s
  | .fvmul e => Sys2Proof.Machine.execFvmul e s
  | .fvfma e => Sys2Proof.Machine.execFvfma e s
  | .fvmin e => Sys2Proof.Machine.execFvmin e s
  | .fvmax e => Sys2Proof.Machine.execFvmax e s
  | .fvexp2 e => Sys2Proof.Machine.execFvexp2 e s
  | .fvlog2 e => Sys2Proof.Machine.execFvlog2 e s
  | .fvrcp e => Sys2Proof.Machine.execFvrcp e s
  | .fvrsq e => Sys2Proof.Machine.execFvrsq e s
  | .fvtanh e => Sys2Proof.Machine.execFvtanh e s
  | .fvsigm e => Sys2Proof.Machine.execFvsigm e s
  | .fvcmp e => Sys2Proof.Machine.execFvcmp e s
  | .fvdot e => Sys2Proof.Machine.execFvdot e s
  | .fvlrec e => Sys2Proof.Machine.execFvlrec e s
  | .vbcast e => Sys2Proof.Machine.execVbcast e s
  | .vperm e => Sys2Proof.Machine.execVperm e s
  | .vpack e => Sys2Proof.Machine.execVpack e s
  | .vunpk e => Sys2Proof.Machine.execVunpk e s
  | .vslice e => Sys2Proof.Machine.execVslice e s
  | .cturn e => Sys2Proof.Machine.execCturn e s
  | .vred e => Sys2Proof.Machine.execVred e s
  | .vconst e => Sys2Proof.Machine.execVconst e s
  | .cvt e => Sys2Proof.Machine.execCvt e s
  | .scale e => Sys2Proof.Machine.execScale e s
  | .steer e => Sys2Proof.Machine.execSteer e s
  | .merge e => Sys2Proof.Machine.execMerge e s
  | .amerge e => Sys2Proof.Machine.execAmerge e s
  | .carry e => Sys2Proof.Machine.execCarry e s
  | .invar e => Sys2Proof.Machine.execInvar e s
  | .permit e => Sys2Proof.Machine.execPermit e s
  | .sink e => Sys2Proof.Machine.execSink e s
  | .mrow e => Sys2Proof.Machine.execMrow e s
  | .mldb e => Sys2Proof.Machine.execMldb e s
  | .mdrn e => Sys2Proof.Machine.execMdrn e s
  | .mclr e => Sys2Proof.Machine.execMclr e s
  | .smxi e => Sys2Proof.Machine.execSmxi e s
  | .smxu e => Sys2Proof.Machine.execSmxu e s
  | .smxf e => Sys2Proof.Machine.execSmxf e s
  | .pred e => Sys2Proof.Machine.execPred e s
  | .red e => Sys2Proof.Machine.execRed e s
  | .stld e => Sys2Proof.Machine.execStld e s
  | .stst e => Sys2Proof.Machine.execStst e s
  | .agld e => Sys2Proof.Machine.execAgld e s
  | .agst e => Sys2Proof.Machine.execAgst e s
  | .agga e => Sys2Proof.Machine.execAgga e s
  | .aguf e => Sys2Proof.Machine.execAguf e s
  | .agep e => Sys2Proof.Machine.execAgep e s
  | .lds c => Sys2Proof.Machine.execLds c s
  | .sts c => Sys2Proof.Machine.execSts c s
  | .gth c => Sys2Proof.Machine.execGth c s
  | .sct c => Sys2Proof.Machine.execSct c s
  | .unf c => Sys2Proof.Machine.execUnf c s
  | .cpy c => Sys2Proof.Machine.execCpy c s
  | .cpyl c => Sys2Proof.Machine.execCpyl c s
  | .fil c => Sys2Proof.Machine.execFil c s
  | .colAllReduce c => Sys2Proof.Machine.execColAllReduce c s
  | .colAllGather c => Sys2Proof.Machine.execColAllGather c s
  | .colReduceScatter c => Sys2Proof.Machine.execColReduceScatter c s
  | .cfg c => Sys2Proof.Machine.execCfg c s
  | .barc c => Sys2Proof.Machine.execBarc c s
  | .hand c => Sys2Proof.Machine.execHand c s
  | .drn c => Sys2Proof.Machine.execDrn c s
  | .ptch c => Sys2Proof.Machine.execPtch c s
  | .tsk c => Sys2Proof.Machine.execTsk c s
  | .swsSwapOut c => Sys2Proof.Machine.execSwsSwapOut c s
  | .swsSwapIn c => Sys2Proof.Machine.execSwsSwapIn c s
  | .kick slot word => Sys2Proof.Machine.execKick slot word s
  | .replayStart slot => Sys2Proof.Machine.execReplayStart slot s
  | .nodeFinish task => Sys2Proof.Machine.execNodeFinish task s
  | .nodeDispatch q => Sys2Proof.Machine.execNodeDispatch q s
  | .readyQueueAgeing q level => Sys2Proof.Machine.execReadyQueueAgeing q level s
  | .configAdmit core => Sys2Proof.Machine.execConfigAdmit core s
  | .passComplete core region => Sys2Proof.Machine.execPassComplete core region s
  | .samplingRound core region => Sys2Proof.Machine.execSamplingRound core region s
  | .stallTimerExpiry core region link => Sys2Proof.Machine.execStallTimerExpiry core region link s
  | .completionAccept core sid => Sys2Proof.Machine.execCompletionAccept core sid s
  | .relaunch core => Sys2Proof.Machine.execRelaunch core s
  | .rotation core => Sys2Proof.Machine.execRotation core s
  | .strandPark core sid => Sys2Proof.Machine.execStrandPark core sid s
  | .scoutYield core sid => Sys2Proof.Machine.execScoutYield core sid s
  | .scoutBudgetExpiry core sid => Sys2Proof.Machine.execScoutBudgetExpiry core sid s
  | .l1Fill core line => Sys2Proof.Machine.execL1Fill core line s
  | .cbDrainAccept core entry => Sys2Proof.Machine.execCbDrainAccept core entry s
  | .sliceFill line => Sys2Proof.Machine.execSliceFill line s
  | .sliceClean line => Sys2Proof.Machine.execSliceClean line s
  | .atomicAtSlice id => Sys2Proof.Machine.execAtomicAtSlice id s
  | .stvAtSlice id => Sys2Proof.Machine.execStvAtSlice id s
  | .ldvAtSlice id => Sys2Proof.Machine.execLdvAtSlice id s
  | .rclmAtSlice id => Sys2Proof.Machine.execRclmAtSlice id s
  | .handlerDispatch slice => Sys2Proof.Machine.execHandlerDispatch slice s
  | .handlerBudgetExpiry slice => Sys2Proof.Machine.execHandlerBudgetExpiry slice s
  | .doneDefault slice => Sys2Proof.Machine.execDoneDefault slice s
  | .doneInstall slice => Sys2Proof.Machine.execDoneInstall slice s
  | .prefetch slice va => Sys2Proof.Machine.execPrefetch slice va s
  | .prefetchIssue slice => Sys2Proof.Machine.execPrefetchIssue slice s
  | .lnRead slice => Sys2Proof.Machine.execLnRead slice s
  | .lnWrite slice => Sys2Proof.Machine.execLnWrite slice s
  | .forward slice cmd => Sys2Proof.Machine.execForward slice cmd s
  | .appendAtEngine id => Sys2Proof.Machine.execAppendAtEngine id s
  | .calveAtEngine id => Sys2Proof.Machine.execCalveAtEngine id s
  | .spliceAtEngine id => Sys2Proof.Machine.execSpliceAtEngine id s
  | .branchAtEngine id => Sys2Proof.Machine.execBranchAtEngine id s
  | .playStep cursor => Sys2Proof.Machine.execPlayStep cursor s
  | .logitRow core => Sys2Proof.Machine.execLogitRow core s
  | .sampleRow core slot => Sys2Proof.Machine.execSampleRow core slot s
  | .kernelRowReturn core slot => Sys2Proof.Machine.execKernelRowReturn core slot s
  | .kernelBudgetExpiry core slot => Sys2Proof.Machine.execKernelBudgetExpiry core slot s
  | .acceptance core entry => Sys2Proof.Machine.execAcceptance core entry s
  | .rowsEnd core => Sys2Proof.Machine.execRowsEnd core s
  | .commit core => Sys2Proof.Machine.execCommit core s
  | .holdEntryRelease domain seq => Sys2Proof.Machine.execHoldEntryRelease domain seq s
  | .scrubEntry ctx index => Sys2Proof.Machine.execScrubEntry ctx index s
  | .preempt core ctx notice window => Sys2Proof.Machine.execPreempt core ctx notice window s
  | .resume core ctx => Sys2Proof.Machine.execResume core ctx s
  | .preemptDeadline core => Sys2Proof.Machine.execPreemptDeadline core s
  | .freezeThresholdExpiry core => Sys2Proof.Machine.execFreezeThresholdExpiry core s
  | .contextSwitch core => Sys2Proof.Machine.execContextSwitch core s
  | .regionRestore core region => Sys2Proof.Machine.execRegionRestore core region s
  | .contextDestroy ctx => Sys2Proof.Machine.execContextDestroy ctx s
  | .agFaultRetry core region cell => Sys2Proof.Machine.execAgFaultRetry core region cell s
  | .strandStateError core sid => Sys2Proof.Machine.execStrandStateError core sid s
  | .sliceUncorrectableError line => Sys2Proof.Machine.execSliceUncorrectableError line s
  | .walkStart die => Sys2Proof.Machine.execWalkStart die s
  | .walkDone walk => Sys2Proof.Machine.execWalkDone walk s
  | .tlbShootdown range va ctx => Sys2Proof.Machine.execTlbShootdown range va ctx s
  | .shootdownComplete => Sys2Proof.Machine.execShootdownComplete s
  | .mpartWrite value => Sys2Proof.Machine.execMpartWrite value s
  | .registerWrite reg value => Sys2Proof.Machine.execRegisterWrite reg value s
  | .hostMemoryWrite offset bytes => Sys2Proof.Machine.execHostMemoryWrite offset bytes s
  | .hostMemoryRead offset size => Sys2Proof.Machine.execHostMemoryRead offset size s
  | .flitReceive port flit => Sys2Proof.Machine.execFlitReceive port flit s
  | .powerUp => Sys2Proof.Machine.execPowerUp s
  | .firmwareLoad length => Sys2Proof.Machine.execFirmwareLoad length s
  | .firmwareVerifyDone => Sys2Proof.Machine.execFirmwareVerifyDone s
  | .attestationRequest nonce => Sys2Proof.Machine.execAttestationRequest nonce s
  | .attestationReport => Sys2Proof.Machine.execAttestationReport s
  | .powerThrottle cause => Sys2Proof.Machine.execPowerThrottle cause s
  | .thermalTrip cause => Sys2Proof.Machine.execThermalTrip cause s
  | .illegalInstruction word => Sys2Proof.Machine.execIllegalInstruction word s
  | .rimeHandlerInstruction slice => Sys2Proof.Machine.execRimeHandlerInstruction slice s
  | .coalescingBufferDrain core entry => Sys2Proof.Machine.execCoalescingBufferDrain core entry s
  | .streamReply core agent => Sys2Proof.Machine.execStreamReply core agent s
  | .kickSlotBind slot rec_ => Sys2Proof.Machine.execKickSlotBind slot rec_ s
  | .linkPortEnable port => Sys2Proof.Machine.execLinkPortEnable port s

end Sys2Proof.Machine
end

