-- ==== Sys2Proof/Machine/Fetch.lean ====
section
/-! DEFINITION. How an agent takes its turn: time passes (R20, R21, R93, R230); a strand fetches and executes (R27 to R29, R344),
a unit runs its word, a stream command is read, checked and run (R45, R150, R158, R171), the part takes a step of its own. The
turns that the part's agents can take, from which the arbiter chooses. -/

namespace Sys2Proof.Machine

/-! ### Time -/

/-- A link's branches given one slot more. -/
def Region.widen (r : Region) (js : List Nat) : Region :=
  { r with links := (List.range r.links.length).map fun j =>
      if js.contains j then { r.link j with slots := (r.link j).slots + 1 } else r.link j }

/-- The step of a unit, with what a direct link joins to it. -/
def State.unitStep (s : State) (u : UnitAt) : Option State :=
  match s.unitInstr u with
  | none => none
  | some i => (stepOf i).bind fun f => s.jointStep u f

/-- Whether a multicast's producer is ready but for full branches (R230). -/
def State.heldByBranches (s : State) (core n : Nat) (r : Region) (root : Nat) : Bool :=
  let full := r.fullBranches root
  match (r.link root).prod with
  | none => false
  | some u =>
    let at_ : UnitAt := ⟨core, n, u.cell, u.router⟩
    !full.isEmpty && (s.unitStep at_).isNone && ((s.setRegion core n (r.widen full)).unitStep at_).isSome

/-- A stall timer that has run. -/
def addStall (root dt : Nat) (ts : List (Nat × Nat)) : List (Nat × Nat) :=
  match ts.lookup root with
  | none => (root, dt) :: ts
  | some n => ts.map fun t => if t.1 = root then (root, n + dt) else t

/-- The stall timers of a region after a time (R230). -/
def State.stallTimers (s : State) (core n : Nat) (r : Region) (dt : Nat) : Region :=
  if r.stall = 0 then r
  else
    let roots := (List.range r.links.length).filter fun i => r.links.any (·.root = some i) && s.heldByBranches core n r i
    { r with stalls := roots.foldl (fun ts i => addStall i dt ts) r.stalls }

/-- A handler's budget after a time: it counts until DONE is accepted (R93). -/
def Handler.spend (h : Handler) (cycles : Nat) : Handler :=
  match h.op with
  | some (.done _) => h
  | _ => { h with budget := h.budget - cycles }

/-- The time that a step takes (R20, R21): free, for the time base, the cores' cycles, the handlers' budgets. -/
def State.advance (s : State) : State :=
  let dt := Config.elapsed s.tick
  let core (c : Nat × CoreState) : Nat × CoreState :=
    (c.1, { c.2 with
      cyc := c.2.cyc + Config.cycles s.tick
      regions := c.2.regions.map fun (r : Nat × Region) => (r.1, s.stallTimers c.1 r.1 r.2 dt) })
  let rime (r : Nat × Rime) : Nat × Rime :=
    (r.1, { r.2 with running := r.2.running.map fun (h : Handler) => h.spend (Config.sliceCycles s.tick) })
  { s with tick := s.tick + 1, tns := s.tns + dt, cores := s.cores.map core, rimes := s.rimes.map rime }

/-! ### A strand's turn -/

/-- Whether REP accepts an instruction (R344): by its major, and by name in the groups it takes only in part. -/
def repeatable (w : Word) (i : Instr) : Bool :=
  let major := field w.toNat 31 26
  match i with
  | .pf _ | .flsh _ | .invl _ | .pwr _ _ | .pwrS _ _ | .pwrSl _ _ | .prd _ _ | .nop => true
  | _ => major ≤ 0x09 || (0x14 ≤ major && major ≤ 0x1E) || major = 0x2D

/-- A word that REP does not accept: rcnt cleared, then the illegal-instruction fault (R344). -/
def State.refuseRepeat (s : State) (w : Word) : State :=
  let st := s.me
  (s.putMe { st with loop := { st.loop with rcnt := 0 } }).fault 0x01 (w.zeroExtend 64)

/-- A fetched word executed (R27, R344). -/
def State.execWord (s : State) (w : Word) : Out :=
  match decodeStrand w with
  | .ok i => if s.me.loop.rcnt ≠ 0 && !repeatable w i then .next (s.refuseRepeat w) else exec i s
  | .error _ => if s.me.loop.rcnt ≠ 0 then .next (s.refuseRepeat w) else Sys2Proof.Machine.execIllegalInstruction w s

/-- A word taken through the core's instruction cache (R185), 512 lines. -/
def State.cachedWord (s : State) (core pa : Nat) : Word × State :=
  let f := icFetch (s.core core).icache s.mem 512 pa s.fresh
  (BitVec.ofNat 32 f.1, { s with fresh := f.2.2 }.modCore core fun (c : CoreState) => { c with icache := f.2.1 })

/-- The word at a translated PC executed: from the instruction cache, from its home slice once the line stands there, or over
PCI Express (R29, R73, R185). -/
def State.fetchAt (s : State) (pa : Nat) : Out :=
  let st := s.me
  if !isMain pa then s.execWord (BitVec.ofNat 32 (s.mem.readN pa 4))
  else if icHolds (s.core st.core).icache pa then
    let f := s.cachedWord st.core pa
    f.2.execWord f.1
  else if !s.resident (pa / 128) then .next (s.requestLine (pa / 128) st.ctx (lineVa st.pc))
  else if s.linePoisoned (pa / 128) then .next (s.fault 0x07 st.pc)
  else
    let f := s.cachedWord st.core pa
    f.2.execWord f.1

/-- Fetch and execution at the PC of the strand that takes the step (R29). -/
def State.fetch (s : State) : Out :=
  let st := s.me
  match s.xlat st st.pc .exec with
  | .fault c => .next (s.fault c st.pc)
  | .miss => .next (s.missWalk st.pc .exec)
  | .hit pa => s.fetchAt pa

/-- What stands before a strand's next instruction: a notice of pre-emption to be delivered (R379), or none. -/
def Strand.noticed (st : Strand) : Option Nat :=
  if st.sys || field st.tvec.toNat 55 2 = 0 then none else st.notice

/-- Whether a strand takes a turn: in a slot, a scout with budget left (R316, R327), and not behind a held STV (R203). -/
def State.mayRun (s : State) (st : Strand) : Bool :=
  st.isResident && !(st.scout && st.budget = 0) && !(st.parked && s.holds st.core st.sid)

/-- A strand's turn: the notice of a pre-emption delivered as fault 0x11, or an instruction. -/
def State.strandTurn (s : State) (k : Nat) : Out :=
  match s.strands.get? k with
  | none => .next s
  | some st =>
    if !s.mayRun st then .next s
    else
      match st.noticed with
      | some deadline => .next (s.takeTrap k { st with notice := none } 0x11 (dw deadline))
      | none => { s with actor := .strand k }.fetch

/-! ### A unit's turn -/

/-- A unit's turn: its word, as its cell holds it (R221, R226). -/
def State.unitTurn (s : State) (u : UnitAt) : Out :=
  match s.unitInstr u with
  | none => .next s
  | some i => exec i { s with actor := .unit u.core u.region u.cell u.router }

/-! ### A command's turn -/

/-- Commands that name a port (R43, R150). -/
def Command.atPort (c : Command) : Bool := within 1 5 c.opcode || c.opcode = 0x14

/-- Whether another command stands before this one at its port (R150). -/
def State.portBusy (s : State) (c : Command) : Bool :=
  c.atPort && s.cmds.any fun x =>
    x.uid ≠ c.uid && x.core = c.core && x.src.isNone && x.atPort && (cmdOf x.bits).dest = (cmdOf c.bits).dest
      && !x.stage.finished && (x.stage = .running || decide (x.uid < c.uid))

/-- Whether an STV that the issuing strand had sent before is not yet applied (R203). -/
def State.stvsBefore (s : State) (c : Command) : Bool :=
  let sid := c.sid.getD (65536 + c.stream)
  s.slice.stvs.any fun r => r.core = c.core && r.sid = sid && decide (r.id < c.stvs)

/-- Whether a command may start or be read: its release complete (R151), its context not pre-empted (R380), every earlier entry of
its stream read (R150, R158), no earlier BARC incomplete (R171), its port free (R150). -/
def State.mayStart (s : State) (c : Command) : Bool :=
  let before := (s.streamOf c.stream).takeWhile (·.uid ≠ c.uid)
  s.drained c.core c.after && !s.stvsBefore c && !s.stopped c.core c.ctx
    && before.all (fun x => x.src.isNone && !(x.opcode = barcOpcode && !x.stage.finished))
    && (c.src.isSome || !s.portBusy c)

/-- Entries of a list from one that cannot be read on: status 0x04, each with its own index (R158). -/
def State.endList (s : State) (list cause : Nat) : List Command → State
  | [] => s
  | c :: t =>
    match c.src with
    | some (_, i, l) =>
      if l = list then (s.answerCmd c 0x04 (cause + i * 2 ^ 8)).endList list cause t else s.endList list cause t
    | none => s.endList list cause t

/-- A list's entry read: the command that then waits for its start (R158). -/
def State.readListEntry (s : State) (c : Command) (va : Dword) (list : Nat) : State :=
  match s.readThrough c.ctx va.toNat 16 with
  | .fault cause => s.endList list cause (s.streamOf c.stream)
  | .poison => s.endList list 0x07 (s.streamOf c.stream)
  | .waiting s1 => s1
  | .bytes bs =>
    { s with cmds := s.cmds.map fun (x : Command) =>
        if x.uid = c.uid then { x with bits := BitVec.ofNat 128 (leNat bs), src := none } else x }

/-- A command that R45 refuses: status 0x01; one with BARC's opcode ends a skip run in its turn (R171). -/
def State.badCommand (s : State) (c : Command) : State :=
  if c.opcode = barcOpcode then
    (if (s.barc c.stream).skipping && s.earlierRuns c then s else (s.skipping c false).answerOpen c 0x01)
  else s.answerOpen c 0x01

/-- A command's turn. -/
def State.commandTurn (s : State) (uid : Nat) : Out :=
  match s.cmds.find? (·.uid = uid) with
  | none => .next s
  | some c =>
    let run : Out := match decodeCommand c.bits with
      | .ok i => exec i { s with actor := .command uid }
      | .error _ => .next (s.badCommand c)
    match c.stage with
    | .done _ => .next s
    | .running => run
    | .waiting =>
      if !s.mayStart c then .next s
      else
        match c.src with
        | some (va, _, list) => .next (s.readListEntry c va list)
        | none => if (s.barc c.stream).skipping && c.opcode ≠ barcOpcode then .next (s.answerOpen c 0x80) else run

/-! ### The part's and the host's turns -/

/-- Whether an instruction is a program word, which only its agent's fetch executes. -/
def Instr.isWord (i : Instr) : Bool :=
  match i with
  | .illegalInstruction _ => true
  | _ => (encodeStrand i).isSome || (elemOp i).isSome || (cmdOp i).isSome

/-- What happens while the cores are held in reset (R416): the host's accesses, bring-up, links, slices, power. -/
def Instr.beforeBoot (i : Instr) : Bool :=
  match i with
  | .mpartWrite _ | .registerWrite _ _ | .hostMemoryWrite _ _ | .hostMemoryRead _ _ | .flitReceive _ _ | .linkPortEnable _
  | .powerUp | .firmwareLoad _ | .firmwareVerifyDone | .attestationRequest _ | .attestationReport | .powerThrottle _
  | .thermalTrip _ | .kick _ _ | .kickSlotBind _ _ | .sliceFill _ | .sliceClean _ | .sliceUncorrectableError _
  | .tlbShootdown _ _ _ | .shootdownComplete | .contextDestroy _ => true
  | _ => false

/-- Whether an instruction is POWER_UP. -/
def Instr.isPowerUp (i : Instr) : Bool :=
  match i with
  | .powerUp => true
  | _ => false

/-- A turn, while the part has power. -/
def State.takeTurn (s : State) (t : Turn) : Out :=
  let running := s.host.boot = .running
  match t with
  | .strand k => if running then s.strandTurn k else .next s
  | .unit core region cell router => if running then s.unitTurn ⟨core, region, cell, router⟩ else .next s
  | .command uid => if running then s.commandTurn uid else .next s
  | .event i =>
    if Instr.isWord i || !(running || Instr.beforeBoot i) then .next s else exec i { s with actor := .part }

/-! ### The steps from which the arbiter chooses -/

/-- A step of an agent or of the part itself. -/
abbrev StepFn := State → Out

/-- A step of the part itself. -/
def partStep (f : StepFn) : StepFn := fun s => f { s with actor := .part }

/-- Turns of strands, units and commands. -/
def State.agentSteps (s : State) : List StepFn :=
  (s.strands.map fun x => fun (a : State) => a.strandTurn x.1)
    ++ (s.cores.flatMap fun c => c.2.regions.flatMap fun r => r.2.cells.flatMap fun x =>
        [fun (a : State) => a.unitTurn ⟨c.1, r.1, x.1, false⟩, fun (a : State) => a.unitTurn ⟨c.1, r.1, x.1, true⟩])
    ++ (s.cmds.map fun c => fun (a : State) => a.commandTurn c.uid)

/-- Steps of the Moraine for a strand. -/
def strandSteps (k : Nat) : List StepFn :=
  [execCompletionAccept (k / 65536) (k % 65536), execStrandPark (k / 65536) (k % 65536),
   execScoutYield (k / 65536) (k % 65536), execScoutBudgetExpiry (k / 65536) (k % 65536)]

/-- Steps of a core's memory side. -/
def CoreState.memorySteps (c : CoreState) (n : Nat) : List StepFn :=
  (c.lineReqs.map fun r => execL1Fill n r.line)
    ++ (c.cb.map fun e => if e.draining then execCbDrainAccept n e.id else execCoalescingBufferDrain n e.id)

/-- Steps of a core's fabric. -/
def CoreState.fabricSteps (c : CoreState) (n : Nat) : List StepFn :=
  execConfigAdmit n
    :: ((c.regions.flatMap fun r =>
          [execSamplingRound n r.1, execPassComplete n r.1] ++ (r.2.stalls.map fun t => execStallTimerExpiry n r.1 t.1)
            ++ (r.2.cells.flatMap fun x => [execAgFaultRetry n r.1 x.1, execStreamReply n (.cell r.1 x.1)]))
      ++ (c.frozen.flatMap fun f => f.toRestore.map fun r => execRegionRestore n r)
      ++ (c.feeds.map fun f => execStreamReply n (.feed f.port)))

/-- Steps of a core's generation boundary and of its pre-emption. -/
def CoreState.boundarySteps (c : CoreState) (n : Nat) : List StepFn :=
  [execRelaunch n, execRotation n, execLogitRow n, execRowsEnd n, execCommit n, execPreemptDeadline n,
   execFreezeThresholdExpiry n, execContextSwitch n]
    ++ ((List.range 8).flatMap fun i => [execSampleRow n i, execKernelRowReturn n i, execKernelBudgetExpiry n i])
    ++ (match c.iters with
      | it :: _ => (List.range it.seqs.length).map fun j => execAcceptance n j
      | [] => [])

/-- Steps of the slices on requests that have reached them. -/
def State.requestSteps (s : State) : List StepFn :=
  (s.slice.reqs.map fun r => execAtomicAtSlice r.id) ++ (s.slice.stvs.map fun r => execStvAtSlice r.id)
    ++ (s.slice.ldvs.map fun r => execLdvAtSlice r.id) ++ (s.slice.rclms.map fun r => execRclmAtSlice r.id)

/-- The step of a handler's pending window operation. -/
def WindowOp.step (sl : Nat) : WindowOp → StepFn
  | .done 0 => execDoneDefault sl
  | .done _ => execDoneInstall sl
  | .prefetch va => execPrefetch sl va
  | .lnRead => execLnRead sl
  | .lnWrite => execLnWrite sl
  | .forward cmd => execForward sl cmd

def Rime.steps (r : Rime) (sl : Nat) : List StepFn :=
  [execHandlerDispatch sl, execPrefetchIssue sl]
    ++ (match r.running with
      | some h => [execRimeHandlerInstruction sl, execHandlerBudgetExpiry sl] ++ (h.op.toList.map fun o => o.step sl)
      | none => [])

/-- Steps of the episode engines. -/
def State.firnSteps (s : State) : List StepFn :=
  (s.firn.reqs.filterMap fun r =>
      match r.op with
      | .append _ _ _ => some (execAppendAtEngine r.id)
      | .calve _ _ => some (execCalveAtEngine r.id)
      | .splice _ _ => some (execSpliceAtEngine r.id)
      | .branch _ => some (execBranchAtEngine r.id)
      | _ => none)
    ++ (s.firn.cursors.map fun c => execPlayStep c.1)

/-- Every ready queue (R366). -/
def allQueues : List QueueId :=
  ((List.range 96).flatMap fun c => [QueueId.strand c, QueueId.fabric c])
    ++ [QueueId.copy 0, QueueId.copy 1, QueueId.episode 0, QueueId.episode 1, QueueId.grammar 0, QueueId.grammar 1]

/-- Steps of the scheduler. -/
def State.schedSteps (s : State) : List StepFn :=
  (s.sched.slots.map fun x => execReplayStart x.1) ++ (s.sched.tasks.map fun x => execNodeFinish x.1)
    ++ (allQueues.flatMap fun q => execNodeDispatch q :: (List.range 7).map fun l => execReadyQueueAgeing q l)

/-- Steps of translation, of the hold queue and of the scrubbers. -/
def State.otherSteps (s : State) : List StepFn :=
  [execWalkStart 0, execWalkStart 1] ++ (s.trans.walks.map fun w => execWalkDone w.id)
    ++ (s.gen.hold.map fun e => execHoldEntryRelease e.domain e.seq)
    ++ (s.ctxs.flatMap fun c => (List.range c.2.scrubCount).map fun i => execScrubEntry c.1 i)

/-- The part's own steps once its cores run. -/
def State.partSteps (s : State) : List StepFn :=
  (s.strands.flatMap fun x => strandSteps x.1)
    ++ (s.cores.flatMap fun c => c.2.memorySteps c.1 ++ c.2.fabricSteps c.1 ++ c.2.boundarySteps c.1)
    ++ (s.cmds.map fun c => execStreamReply c.core (.command c.uid))
    ++ s.requestSteps ++ (s.rimes.flatMap fun r => r.2.steps r.1) ++ s.firnSteps ++ s.schedSteps ++ s.otherSteps

/-- The part's own steps in any boot state: fills and write-backs, bring-up, shootdowns, host reads that wait. -/
def State.baseSteps (s : State) : List StepFn :=
  [execFirmwareVerifyDone, execAttestationReport, execShootdownComplete] ++ (s.slice.fills.map fun f => execSliceFill f.line)
    ++ ((s.slice.lines.filter (·.dirty)).map fun l => execSliceClean l.line)
    ++ (s.host.waiting.map fun r => execHostMemoryRead r.1 r.2)

/-- The steps from which the arbiter chooses: each agent's turn, and the part's own steps; one that cannot take place changes
nothing. -/
def State.choices (s : State) : List StepFn :=
  if s.host.boot = .running then s.agentSteps ++ (s.baseSteps ++ s.partSteps).map partStep else s.baseSteps.map partStep

/-- Whether a turn is POWER_UP: the only one a part without power takes (R419). -/
def Turn.powersUp (t : Turn) : Bool :=
  match t with
  | .event i => Instr.isPowerUp i
  | _ => false

/-- One step: the agenda's next turn, or the arbiter's choice (R10, R20, R197), in the time it takes. -/
def State.turnStep (s : State) : Out :=
  match s.agenda with
  | t :: ts => if s.host.powered || t.powersUp then ({ s with agenda := ts }.advance).takeTurn t else .fault .noPower
  | [] =>
    if !s.host.powered then .fault .noPower
    else
      let fs := s.choices
      match fs[Config.arbiter s.tick % fs.length]? with
      | some f => f s.advance
      | none => .next s.advance

end Sys2Proof.Machine
end

