-- ==== Sys2Proof/Machine/Step.lean ====
section
/-! DEFINITION. One step of the machine, and a state whose next step fetches a given instruction word. -/

namespace Sys2Proof.Machine

/-- One step: whoever's turn it is fetches and takes it. -/
def step (s : State) : Host.Outcome State Fault Refusal := s.turnStep

/-- Where withFetchWord places its strand's code: VA and PA are equal under its leaf. -/
def fetchBase : Nat := 0x1_0000

/-- A 64 GiB leaf of context 1 that grants read, write and execute, VA 0 to PA 0 (R384). -/
def fetchLeaf : TlbEntry := { ctx := 1, bits := 36, page := 0, pte := 0x1F }

/-- The part running, context 1 created, its strand 0 of core 0 in a slot at fetchBase with the word there and the line in its
slice, that strand's turn next. -/
def State.withStrandWord (s : State) (w : Nat) : State :=
  let c := s.core 0
  let line := fetchBase / 128
  { s with
    agenda := [.strand 0]
    mem := s.mem.writeN fetchBase 4 w
    slice := { s.slice with
      lines := { line := line, ctx := 1, va := dw fetchBase } :: s.slice.lines.filter (·.line ≠ line)
      poison := s.slice.poison.filter (· ≠ line)
      stvs := [] }
    cores := s.cores.set 0 { c with tlb := fetchLeaf :: c.tlb, icache := c.icache.filter (·.line ≠ line) }
    ctxs := s.ctxs.set 1 { s.ctx 1 with created := true, dead := false }
    strands := s.strands.set 0 { ctx := 1, pc := dw fetchBase, place := .resident s.tns }
    host := { s.host with powered := true, boot := .running } }

/-- The part running, the word in the unit of cell 0 that executes it, a region of core 0 with no links, that unit's turn
next. -/
def State.withUnitWord (s : State) (nbits w : Nat) : State :=
  let i := decodeTableWord nbits w
  let op := field w 63 56
  let router := decide (0x70 ≤ op) && decide (op ≤ 0x76)
  let cell : Cell := if router then { router := i } else { elem := i }
  let r : Region :=
    { number := 0, x0 := 0, y0 := 0, w := 1, h := 1, ctx := 1, task := 0, image := 0, subs := [], links := [], cells := [(0, cell)],
      shapes := [], ranges := [], bufs := [], loops := [], stall := 0 }
  { s with
    agenda := [.unit 0 0 0 router]
    cores := s.cores.set 0 { s.core 0 with regions := [(0, r)] }
    ctxs := s.ctxs.set 1 { s.ctx 1 with created := true, dead := false }
    host := { s.host with powered := true, boot := .running } }

/-- The part running, the command the only one issued, its turn next. -/
def State.withCommandWord (s : State) (w : Nat) : State :=
  { s with
    agenda := [.command s.nextUid]
    cmds := [{ uid := s.nextUid, core := 0, sid := none, stream := 0, ctx := 1, task := 0, tag := 0, bits := BitVec.ofNat 128 w,
               after := [] }]
    nextUid := s.nextUid + 1
    cores := s.cores.set 0 { s.core 0 with out := [], preemption := none }
    sched := { s.sched with barcs := s.sched.barcs.set 0 {} }
    ctxs := s.ctxs.set 1 { s.ctx 1 with created := true, dead := false }
    host := { s.host with powered := true, boot := .running } }

/-- The state whose next step executes the instruction of a table row's bits: a strand word from memory, an element word from its
cell, a stream command from the stream. -/
def State.withFetchWord (s : State) (nbits w : Nat) : State :=
  match layerOfBits nbits with
  | .strand => s.withStrandWord w
  | .element => s.withUnitWord nbits w
  | .command => s.withCommandWord w

end Sys2Proof.Machine
end

