-- ==== Sys2Proof/Safety.lean ====
section
/-! DEFINITION. What counts as a safe run, in the terms that claims use: next states, frames over strands, registers, memory
and the rest of the part. -/

namespace Sys2Proof.Machine

/-- Whether an outcome is a next state. -/
def goesOn (o : Out) : Prop := ∃ t, o = .next t

/-- A run of n steps in which none ends in a fault or a refusal. -/
def SafeRun : Nat → State → Prop
  | 0, _ => True
  | n + 1, s => ∃ t, step s = .next t ∧ SafeRun n t

/-- Every byte of memory reads as before but for those of a set of addresses. -/
def memoryUnchangedBut (s t : State) (hit : Nat → Prop) : Prop := ∀ a, ¬hit a → t.mem.read a = s.mem.read a

/-- Everything but the strands is as before. -/
def onlyStrands (s t : State) : Prop := t = { s with strands := t.strands }

/-- Everything but one strand is as before. -/
def onlyStrand (k : Nat) (s t : State) : Prop := t = s.setStrand k (t.strand k)

/-- A strand with other registers, PC, loop state and dirty mask, the rest of it as before: what an instruction that computes in
registers may change. -/
def Strand.computes (st st' : Strand) : Prop :=
  st' = { st with regs := st'.regs, dmask := st'.dmask, pc := st'.pc, loop := st'.loop, budget := st'.budget, walkFault := none }

/-- Every register but g(d) reads as before. -/
def Strand.regsBut (st st' : Strand) (d : BitVec 5) : Prop := ∀ n, n ≠ d → st'.g n = st.g n

/-- A scout's budget after one instruction more (R327). -/
def Strand.spends (st st' : Strand) : Prop := st'.budget = if st.scout then st.budget - 1 else st.budget

/-- PC, loop and repeat state after an instruction that transfers no control (R326). -/
def Strand.advances (st st' : Strand) : Prop :=
  if 1 < st.loop.rcnt.toNat then st'.pc = st.pc ∧ st'.loop = { st.loop with rcnt := st.loop.rcnt - 1 }
  else if st.loop.lcnt ≠ 0 ∧ st.pc = st.loop.lend - 4 then
    st'.pc = (if st.loop.lcnt = 1 then st.loop.lend else st.loop.lbeg)
      ∧ st'.loop = { st.loop with rcnt := 0, lcnt := st.loop.lcnt - 1 }
  else st'.pc = st.pc + 4 ∧ st'.loop = { st.loop with rcnt := 0 }

/-- The dirty mask after a write of g(d) (R47, R317). -/
def Strand.dirties (st st' : Strand) (d : BitVec 5) : Prop :=
  st'.dmask = if d = 0 then st.dmask else st.dmask ||| (1 : Word) <<< d.toNat

/-- t is s after an instruction that writes v to g(d) and nothing else: g0 stays 0 and discards the write, every other register,
every other field of the strand, all memory and the rest of the machine are as before; the PC advances by R326. -/
def Completes (s t : State) (d : BitVec 5) (v : Dword) : Prop :=
  t.me.g d = (if d = 0 then 0 else v) ∧ s.me.regsBut t.me d ∧ s.me.dirties t.me d ∧ s.me.advances t.me ∧ s.me.spends t.me
    ∧ s.me.computes t.me ∧ onlyStrand s.meKey s t

/-- t is s after an instruction that writes no register: everything but the PC, the loop state and a scout's budget is as before. -/
def Passes (s t : State) : Prop :=
  t.me.regs = s.me.regs ∧ t.me.dmask = s.me.dmask ∧ s.me.advances t.me ∧ s.me.spends t.me ∧ s.me.computes t.me
    ∧ onlyStrand s.meKey s t

/-- An instruction's effect is to write v to g(d), in every state. -/
def Computed (i : Instr) (s : State) (d : BitVec 5) (v : Dword) : Prop := ∃ t, exec i s = .next t ∧ Completes s t d v

/-- t is s after a taken transfer to a target, with g(d) written where a d is given: no loop step inside the body, the loop
abandoned outside it (R342). -/
def Transfers (s t : State) (target : Dword) : Prop :=
  t.me.pc = target
    ∧ t.me.loop = (if s.me.loop.lcnt ≠ 0 ∧ ¬(s.me.loop.lbeg ≤ target ∧ target < s.me.loop.lend) then { s.me.loop with lcnt := 0 }
        else s.me.loop)
    ∧ s.me.spends t.me ∧ s.me.computes t.me ∧ onlyStrand s.meKey s t

/-- t is s after the strand that takes the step has entered its handler (R352): the frame saved, loop and repeat counts cleared,
cause, epc and tval set, system mode, the PC at tvec; registers, memory and the rest as before. -/
def Enters (s t : State) (code : BitVec 8) (v : Dword) : Prop :=
  t.me.pc = s.me.tvec ∧ t.me.sys = true ∧ t.me.cause = code ∧ t.me.tval = v
    ∧ t.me.epc = BitVec.ofNat 64 (s.me.pc.toNat % 2 ^ 56 / 4 * 4) ∧ t.me.frame = s.me.loop
    ∧ t.me.loop = { s.me.loop with lcnt := 0, rcnt := 0 }
    ∧ t.me = { s.me with pc := t.me.pc, sys := true, cause := code, tval := v, epc := t.me.epc, frame := t.me.frame,
                         loop := t.me.loop, walkFault := none }
    ∧ onlyStrand s.meKey s t

/-- Whether a fault of the strand is delivered to its handler (R352): in task mode, with a handler, and no scout. -/
def Strand.handles (st : Strand) : Prop := st.sys = false ∧ st.scout = false ∧ 4 ≤ st.tvec.toNat % 2 ^ 56

/-- The strand that takes the step has been recorded, its registers kept, to take the completion of a tag into g(d). -/
def Suspended (s t : State) (d : BitVec 5) (tag : BitVec 16) (wait : WaitFor) (act : OnResume) : Prop :=
  t.me = { s.me.retire with place := .recorded }
    ∧ (∃ r, t.records.get? s.meKey = some r ∧ r.dest = d ∧ r.tag = tag ∧ r.space = 2 ∧ r.ready = false ∧ r.wait = wait ∧ r.act = act
        ∧ r.pc = s.me.retire.pc ∧ r.retry = false ∧ r.dmask = s.me.dmask)
    ∧ (∀ k, k ≠ s.meKey → t.strand k = s.strand k ∧ t.records.get? k = s.records.get? k) ∧ t.mem = s.mem

/-- The strand waits on the Retry path: its record resumes at the instruction itself. -/
def Retried (s t : State) (tag : BitVec 16) (wait : WaitFor) : Prop :=
  t.me = { s.me with place := .recorded }
    ∧ (∃ r, t.records.get? s.meKey = some r ∧ r.tag = tag ∧ r.space = 2 ∧ r.ready = false ∧ r.wait = wait ∧ r.pc = s.me.pc
        ∧ r.retry = true)
    ∧ (∀ k, k ≠ s.meKey → t.strand k = s.strand k ∧ t.records.get? k = s.records.get? k) ∧ t.mem = s.mem

/-- A record slot and a tag are free for the strand that takes the step (R321, R323). -/
def CanSuspend (s : State) (tag : BitVec 16) : Prop :=
  (s.slotFor s.me.core s.me.ctx s.me.depositor).isSome = true ∧ s.nextTag s.me.core = some tag

end Sys2Proof.Machine
end

