-- ==== Sys2Proof/Certificates/Slice0/Obligations.lean ====
section
/-! DEFINITION. The statements for the provers, each with the words it is made of. A clause that rests on a choice of the model, not on
a rule of the spec, is named by its log entry in the statement's docstring. -/

namespace Sys2Proof.Machine

/-- The unsigned value of a number modulo 2^64 (R9). -/
def nat64 (n : Nat) : Dword := BitVec.ofNat 64 n

/-- The bits of an integer modulo 2^64 (R9). -/
def int64 (n : Int) : Dword := BitVec.ofInt 64 n

/-- SignExt of the low 32 bits of an integer (R9, R337). -/
def word64 (n : Int) : Dword := BitVec.ofInt 64 ((n + 2 ^ 31) % 2 ^ 32 - 2 ^ 31)

/-- The low 32 bits, unsigned and signed (R337). -/
def low32 (x : Dword) : Nat := x.toNat % 2 ^ 32
def slow32 (x : Dword) : Int := (low32 x + 2 ^ 31 : Int) % 2 ^ 32 - 2 ^ 31

/-- 1 or 0 (R335). -/
def truth (p : Prop) [Decidable p] : Dword := if p then 1 else 0

/-- R335: sums, products, comparisons, minima and maxima of registers. Each completes in every state, writes g(d) alone and leaves
the rest of the machine as it was. -/
def registerArithmeticResults : Prop :=
  ∀ (s : State) (d a b : BitVec 5),
    let x := s.me.g a
    let y := s.me.g b
    Computed (.add d a b) s d (nat64 (x.toNat + y.toNat))
      ∧ Computed (.sub d a b) s d (int64 (x.toNat - y.toNat))
      ∧ Computed (.mul d a b) s d (nat64 (x.toNat * y.toNat))
      ∧ Computed (.mulh d a b) s d (int64 (x.toInt * y.toInt / 2 ^ 64))
      ∧ Computed (.mulhu d a b) s d (nat64 (x.toNat * y.toNat / 2 ^ 64))
      ∧ Computed (.min d a b) s d (int64 (Min.min x.toInt y.toInt))
      ∧ Computed (.max d a b) s d (int64 (Max.max x.toInt y.toInt))
      ∧ Computed (.minu d a b) s d (nat64 (Min.min x.toNat y.toNat))
      ∧ Computed (.maxu d a b) s d (nat64 (Max.max x.toNat y.toNat))
      ∧ Computed (.slt d a b) s d (truth (x.toInt < y.toInt))
      ∧ Computed (.sltu d a b) s d (truth (x.toNat < y.toNat))

/-- R336: quotients and remainders, with the two special cases. -/
def divisionResults : Prop :=
  ∀ (s : State) (d a b : BitVec 5),
    let x := s.me.g a
    let y := s.me.g b
    let zero := y = 0
    let wraps := x.toInt = -2 ^ 63 ∧ y.toInt = -1
    (zero → Computed (.div d a b) s d (int64 (-1)) ∧ Computed (.divu d a b) s d (int64 (-1)) ∧ Computed (.rem d a b) s d x
        ∧ Computed (.remu d a b) s d x)
      ∧ (wraps → Computed (.div d a b) s d x ∧ Computed (.rem d a b) s d 0)
      ∧ (¬zero → ¬wraps → Computed (.div d a b) s d (int64 (x.toInt.tdiv y.toInt))
          ∧ Computed (.rem d a b) s d (int64 (x.toInt.tmod y.toInt)))
      ∧ (¬zero → Computed (.divu d a b) s d (nat64 (x.toNat / y.toNat)) ∧ Computed (.remu d a b) s d (nat64 (x.toNat % y.toNat)))

end Sys2Proof.Machine

open Sys2Proof Sys2Proof.Machine

/-- R335: logic and shifts, bit by bit, and the two counts. -/
def Obligations.RegisterLogicShiftResults : Prop :=
  ∀ (s : State) (d a b : BitVec 5),
    let x := s.me.g a
    let y := s.me.g b
    (∃ v, Computed (.and d a b) s d v ∧ ∀ j, v.getLsbD j = (x.getLsbD j && y.getLsbD j))
      ∧ (∃ v, Computed (.or d a b) s d v ∧ ∀ j, v.getLsbD j = (x.getLsbD j || y.getLsbD j))
      ∧ (∃ v, Computed (.xor d a b) s d v ∧ ∀ j, v.getLsbD j = (x.getLsbD j != y.getLsbD j))
      ∧ Computed (.shl d a b) s d (nat64 (x.toNat * 2 ^ (y.toNat % 64)))
      ∧ Computed (.shr d a b) s d (nat64 (x.toNat / 2 ^ (y.toNat % 64)))
      ∧ Computed (.sra d a b) s d (int64 (x.toInt / 2 ^ (y.toNat % 64)))
      ∧ (∃ n, n ≤ 64 ∧ Computed (.clz d a) s d (nat64 n) ∧ (∀ j, 64 - n ≤ j → x.getLsbD j = false)
          ∧ (n < 64 → x.getLsbD (63 - n) = true))
      ∧ Computed (.popc d a) s d (nat64 ((List.range 64).filter fun j => x.getLsbD j).length)

/-- R337: the 32-bit forms operate on bits [31:0] and sign-extend a 32-bit result. -/
def Obligations.WordFormResults : Prop :=
  ∀ (s : State) (d a b : BitVec 5),
    let x := s.me.g a
    let y := s.me.g b
    Computed (.addW d a b) s d (word64 (slow32 x + slow32 y))
      ∧ Computed (.subW d a b) s d (word64 (slow32 x - slow32 y))
      ∧ Computed (.mulW d a b) s d (word64 (slow32 x * slow32 y))
      ∧ (∃ v, Computed (.andW d a b) s d v ∧ ∀ j, j < 64 → v.getLsbD j = (x.getLsbD (min j 31) && y.getLsbD (min j 31)))
      ∧ (∃ v, Computed (.orW d a b) s d v ∧ ∀ j, j < 64 → v.getLsbD j = (x.getLsbD (min j 31) || y.getLsbD (min j 31)))
      ∧ (∃ v, Computed (.xorW d a b) s d v ∧ ∀ j, j < 64 → v.getLsbD j = (x.getLsbD (min j 31) != y.getLsbD (min j 31)))
      ∧ Computed (.shlW d a b) s d (word64 (low32 x * 2 ^ (y.toNat % 32)))
      ∧ Computed (.shrW d a b) s d (word64 (low32 x / 2 ^ (y.toNat % 32)))
      ∧ Computed (.sraW d a b) s d (word64 (slow32 x / 2 ^ (y.toNat % 32)))

/-- R338: the immediate forms; ADDI, SLTI and SLTIU take the sign-extended immediate, ANDI, ORI, XORI and LIH the zero-extended
one, ADDPC four times the signed one. -/
def Obligations.ImmediateResults : Prop :=
  ∀ (s : State) (d a : BitVec 5) (imm : BitVec 16) (n : BitVec 6),
    let x := s.me.g a
    Computed (.addi d a imm) s d (int64 (x.toInt + imm.toInt))
      ∧ (∃ v, Computed (.andi d a imm) s d v ∧ ∀ j, v.getLsbD j = (x.getLsbD j && imm.getLsbD j))
      ∧ (∃ v, Computed (.ori d a imm) s d v ∧ ∀ j, v.getLsbD j = (x.getLsbD j || imm.getLsbD j))
      ∧ (∃ v, Computed (.xori d a imm) s d v ∧ ∀ j, v.getLsbD j = (x.getLsbD j != imm.getLsbD j))
      ∧ Computed (.shli d a n) s d (nat64 (x.toNat * 2 ^ n.toNat))
      ∧ Computed (.shri d a n) s d (nat64 (x.toNat / 2 ^ n.toNat))
      ∧ Computed (.srai d a n) s d (int64 (x.toInt / 2 ^ n.toNat))
      ∧ Computed (.slti d a imm) s d (truth (x.toInt < imm.toInt))
      ∧ Computed (.sltiu d a imm) s d (truth (x.toNat < (int64 imm.toInt).toNat))
      ∧ Computed (.lih d a imm) s d (nat64 (x.toNat * 2 ^ 16 + imm.toNat))
      ∧ Computed (.addpc d imm) s d (int64 (s.me.pc.toInt + 4 * imm.toInt))

/-- Sums, products, comparisons, minima and maxima of registers (R335) and their quotients and remainders with the two special
cases (R336). Each completes in every state, writes g(d) alone and leaves the rest of the machine as it was. -/
def Obligations.RegisterArithmeticResults : Prop :=
  registerArithmeticResults ∧ divisionResults

namespace Sys2Proof.Machine

/-- A transfer that writes no register. -/
def TransfersOnly (s t : State) (target : Dword) : Prop :=
  Transfers s t target ∧ t.me.regs = s.me.regs ∧ t.me.dmask = s.me.dmask

/-- A transfer that writes the next PC to g(d). -/
def Links (i : Instr) (s : State) (d : BitVec 5) (target : Dword) : Prop :=
  ∃ t, exec i s = .next t ∧ Transfers s t target ∧ t.me.g d = (if d = 0 then 0 else s.me.pc + 4) ∧ s.me.regsBut t.me d
    ∧ s.me.dirties t.me d

/-- A branch: where its condition holds, the transfer; where it does not, an ordinary instruction. -/
def Branches (i : Instr) (s : State) (off : BitVec 16) (p : Prop) : Prop :=
  (p → ∃ t, exec i s = .next t ∧ TransfersOnly s t (int64 (s.me.pc.toInt + 4 * off.toInt)))
    ∧ (¬p → ∃ t, exec i s = .next t ∧ Passes s t)

/-- An instruction answers with the entry of the handler. -/
def Traps (i : Instr) (s : State) (code : BitVec 8) (v : Dword) : Prop := ∃ t, exec i s = .next t ∧ Enters s t code v

/-- An instruction leaves its strand with a PC and loop state, a scout's budget spent, and nothing else changed. -/
def Loops (i : Instr) (s : State) (pc : Dword) (loop : LoopState) : Prop :=
  ∃ t, exec i s = .next t ∧ t.me.pc = pc ∧ t.me.loop = loop ∧ t.me.regs = s.me.regs ∧ t.me.dmask = s.me.dmask
    ∧ s.me.spends t.me ∧ s.me.computes t.me ∧ onlyStrand s.meKey s t

/-- The word of an instruction, as tval holds it (R28). -/
def wordValue (i : Instr) (w : Word) : Prop := encodeStrand i = some w

/-- Whether the strand stands at the last word of an active loop body (R326). -/
abbrev Strand.atLast (st : Strand) (pc : Dword) : Prop := st.loop.lcnt ≠ 0 ∧ pc = st.loop.lend - 4

/-- A CSR write completes: g(d) takes the old value, the strand is as st' but for what completing changes. -/
def WritesCsr (i : Instr) (s : State) (d : BitVec 5) (n : BitVec 12) (st' : Strand) : Prop :=
  ∃ t, exec i s = .next t ∧ t.me.g d = (if d = 0 then 0 else s.csr s.me n) ∧ s.me.regsBut t.me d ∧ s.me.dirties t.me d
    ∧ s.me.advances t.me ∧ (n ≠ 0x031 → s.me.spends t.me) ∧ st'.computes t.me ∧ onlyStrand s.meKey s t

/-- Bits [55:2] of a value, as a PC (R350). -/
def pcOf (v : Dword) : Dword := nat64 (v.toNat % 2 ^ 56 / 4 * 4)

/-- What each write form makes of the CSRs any mode writes, v being the value written to each (R349, R350). -/
def TaskCsrWrites (s : State) (d : BitVec 5) (op : BitVec 12 → Instr) (v : Dword → Dword) : Prop :=
  let st := s.me
  let at_ (n : BitVec 12) : Dword := v (s.csr st n)
  WritesCsr (op 0x007) s d 0x007 { st with tvec := pcOf (at_ 0x007) }
    ∧ WritesCsr (op 0x00C) s d 0x00C { st with fflags := BitVec.ofNat 5 (at_ 0x00C).toNat }
    ∧ WritesCsr (op 0x00D) s d 0x00D { st with frm := BitVec.ofNat 3 (at_ 0x00D).toNat }
    ∧ WritesCsr (op 0x030) s d 0x030
        { st with prio := BitVec.ofNat 3 (min ((at_ 0x030).toNat % 8) (((s.task st.task).map (·.priority)).getD 0)) }
    ∧ (st.scout = false → WritesCsr (op 0x031) s d 0x031 { st with budget := BitVec.ofNat 32 (at_ 0x031).toNat }
        ∧ ∃ t, exec (op 0x031) s = .next t ∧ t.me.budget = BitVec.ofNat 32 (at_ 0x031).toNat)

/-- What each write form makes of the CSRs only system mode writes (R349, R350). -/
def SystemCsrWrites (s : State) (d : BitVec 5) (op : BitVec 12 → Instr) (v : Dword → Dword) : Prop :=
  let st := s.me
  let at_ (n : BitVec 12) : Dword := v (s.csr st n)
  WritesCsr (op 0x004) s d 0x004 { st with cause := BitVec.ofNat 8 (at_ 0x004).toNat }
    ∧ WritesCsr (op 0x005) s d 0x005 { st with epc := pcOf (at_ 0x005) }
    ∧ WritesCsr (op 0x006) s d 0x006 { st with tval := at_ 0x006 }
    ∧ WritesCsr (op 0x008) s d 0x008 { st with frame := { st.frame with lcnt := BitVec.ofNat 32 (at_ 0x008).toNat } }
    ∧ WritesCsr (op 0x009) s d 0x009 { st with frame := { st.frame with lbeg := pcOf (at_ 0x009) } }
    ∧ WritesCsr (op 0x00A) s d 0x00A { st with frame := { st.frame with lend := pcOf (at_ 0x00A) } }
    ∧ WritesCsr (op 0x00B) s d 0x00B { st with frame := { st.frame with rcnt := BitVec.ofNat 32 (at_ 0x00B).toNat } }

/-- R339, R342: each branch transfers where its comparison holds and is an ordinary instruction where it does not. -/
def branchTransfers : Prop :=
  ∀ (s : State) (a b : BitVec 5) (off : BitVec 16),
    let x := s.me.g a
    let y := s.me.g b
    Branches (.beq a b off) s off (x = y) ∧ Branches (.bne a b off) s off (x ≠ y)
      ∧ Branches (.blt a b off) s off (x.toInt < y.toInt) ∧ Branches (.bge a b off) s off (y.toInt ≤ x.toInt)
      ∧ Branches (.bltu a b off) s off (x.toNat < y.toNat) ∧ Branches (.bgeu a b off) s off (y.toNat ≤ x.toNat)

/-- R340: JAL and JALR write the address of the next word to g(d) and transfer; JALR reads g(a) first and clears bits [1:0]. -/
def jumpTransfers : Prop :=
  ∀ (s : State) (d a : BitVec 5) (off : BitVec 21) (imm : BitVec 16),
    Links (.jal d off) s d (int64 (s.me.pc.toInt + 4 * off.toInt))
      ∧ Links (.jalr d a imm) s d (nat64 ((int64 ((s.me.g a).toInt + imm.toInt)).toNat / 4 * 4))

/-- R349 to R351: CSRR completes for every CSR of the map with its value, and is illegal for any other number. -/
def csrReadValues : Prop :=
  ∀ (s : State) (d : BitVec 5),
    let st := s.me
    let view := if st.sys then st.frame else st.loop
    let bit (b : Bool) : Nat := if b then 1 else 0
    Computed (.csrr d 0x000) s d (nat64 st.ctx)
      ∧ Computed (.csrr d 0x001) s d (nat64 (2 ^ 32 * st.sibling.toNat + 2 ^ 16 * st.core + st.sid))
      ∧ Computed (.csrr d 0x002) s d (nat64 st.dmask.toNat)
      ∧ Computed (.csrr d 0x003) s d
          (nat64 (bit st.sys + 2 * bit st.scout + 4 * bit st.ordered + 8 * bit (s.ctx st.ctx).scoutPriv))
      ∧ Computed (.csrr d 0x004) s d (nat64 st.cause.toNat) ∧ Computed (.csrr d 0x005) s d st.epc
      ∧ Computed (.csrr d 0x006) s d st.tval ∧ Computed (.csrr d 0x007) s d st.tvec
      ∧ Computed (.csrr d 0x008) s d (nat64 view.lcnt.toNat) ∧ Computed (.csrr d 0x009) s d view.lbeg
      ∧ Computed (.csrr d 0x00A) s d view.lend ∧ Computed (.csrr d 0x00B) s d (nat64 view.rcnt.toNat)
      ∧ Computed (.csrr d 0x00C) s d (nat64 st.fflags.toNat) ∧ Computed (.csrr d 0x00D) s d (nat64 st.frm.toNat)
      ∧ Computed (.csrr d 0x010) s d (nat64 (s.core st.core).cyc) ∧ Computed (.csrr d 0x011) s d (nat64 s.tns)
      ∧ Computed (.csrr d 0x030) s d (nat64 st.prio.toNat) ∧ Computed (.csrr d 0x031) s d (nat64 st.budget.toNat)
      ∧ Computed (.csrr d 0x040) s d (s.ctx st.ctx).seed
      ∧ (∃ v, Computed (.csrr d 0x020) s d v
          ∧ v.toNat % 2 ^ 24 = ((s.core st.core).l1.filter fun l => l.pin = some st.ctx).length % 2 ^ 24
          ∧ v.toNat / 2 ^ 24 = (s.ctx st.ctx).pinQuota % 2 ^ 24)
      ∧ (∃ v, Computed (.csrr d 0x021) s d v ∧ v.toNat % 2 ^ 24 = s.lockCount st.ctx % 2 ^ 24
          ∧ v.toNat / 2 ^ 24 = (s.ctx st.ctx).lockQuota % 2 ^ 24)
      ∧ ∀ (n : BitVec 12) (w : Word), csrPresent n = false → st.handles → wordValue (.csrr d n) w →
          Traps (.csrr d n) s 0x01 (w.zeroExtend 64)

/-- R349 to R351: CSRW, CSRS and CSRC give g(d) the old value and write the whole value, the bits set, the bits cleared; reserved
bits and the frame registers by the CSR's entry; a CSR only system mode writes is a privilege fault in task mode, one no mode writes
is illegal. -/
def csrWriteEffects : Prop :=
  ∀ (s : State) (d a : BitVec 5),
    let x := s.me.g a
    let all (f : State → BitVec 5 → (BitVec 12 → Instr) → (Dword → Dword) → Prop) : Prop :=
      f s d (fun n => .csrw d a n) (fun _ => x) ∧ f s d (fun n => .csrs d a n) (fun old => old ||| x)
        ∧ f s d (fun n => .csrc d a n) (fun old => old &&& ~~~x)
    all TaskCsrWrites ∧ (s.me.sys = true → all SystemCsrWrites)
      ∧ (s.me.handles → ∀ (n : BitVec 12) (i : Instr) (w : Word), i ∈ [.csrw d a n, .csrs d a n, .csrc d a n] → wordValue i w →
          (csrWritable n = false → Traps i s 0x01 (w.zeroExtend 64))
            ∧ (csrWritable n = true → csrTaskWritable n = false → Traps i s 0x05 (w.zeroExtend 64)))

end Sys2Proof.Machine

/-- R341, R343: LOOP and REP set the loop and repeat state, skip with a count of 0, and raise the illegal-instruction fault inside
an active body or at its last word. -/
def Obligations.LoopAndRepeatEffects : Prop :=
  ∀ (s : State) (a : BitVec 5) (len count : BitVec 12),
    let st := s.me
    let n := min (st.g a).toNat (2 ^ 32 - 1)
    let lend := st.pc + nat64 (4 + 4 * len.toNat)
    let looped (c : Nat) : LoopState := { st.loop with lcnt := BitVec.ofNat 32 c, lbeg := st.pc + 4, lend := lend }
    let repeated (c : Nat) : LoopState := { st.loop with rcnt := BitVec.ofNat 32 c }
    let skips (i : Instr) : Prop :=
      if st.atLast (st.pc + 4) then
        Loops i s (if st.loop.lcnt = 1 then st.loop.lend else st.loop.lbeg) { st.loop with lcnt := st.loop.lcnt - 1 }
      else Loops i s (st.pc + 8) st.loop
    (st.sys = false → st.loop.lcnt = 0 → n ≠ 0 → Loops (.loop a len) s (st.pc + 4) (looped n))
      ∧ (st.sys = false → st.loop.lcnt = 0 → n = 0 → Loops (.loop a len) s lend st.loop)
      ∧ (st.sys = false → ¬st.atLast st.pc → n ≠ 0 → Loops (.rep a) s (st.pc + 4) (repeated n))
      ∧ (st.sys = false → ¬st.atLast st.pc → n = 0 → skips (.rep a))
      ∧ (st.sys = false → ¬st.atLast st.pc → count.toNat ≠ 0 → Loops (.repImm count) s (st.pc + 4) (repeated count.toNat))
      ∧ (st.sys = false → ¬st.atLast st.pc → count.toNat = 0 → skips (.repImm count))
      ∧ (st.handles → st.loop.lcnt ≠ 0 → ∀ w, wordValue (.loop a len) w → Traps (.loop a len) s 0x01 (w.zeroExtend 64))
      ∧ (st.handles → st.atLast st.pc → ∀ w, wordValue (.rep a) w → Traps (.rep a) s 0x01 (w.zeroExtend 64))
      ∧ (st.handles → st.atLast st.pc → ∀ w, wordValue (.repImm count) w → Traps (.repImm count) s 0x01 (w.zeroExtend 64))

/-- R352, R353, R27: TRAP, BRK and an unassigned word enter the handler of a strand that has one, in task mode; NOP does nothing. -/
def Obligations.TrapEntries : Prop :=
  ∀ (s : State) (code : BitVec 12) (w : Word),
    (s.me.handles → Traps (.trap code) s 0x10 (nat64 code.toNat) ∧ Traps .brk s 0x0F 0
        ∧ Traps (.illegalInstruction w) s 0x01 (nat64 w.toNat))
      ∧ ∃ t, exec .nop s = .next t ∧ Passes s t

/-- R354: ERET in system mode restores the loop state from the frame, leaves system mode and goes to epc; in task mode it is a
privilege fault. -/
def Obligations.ExceptionReturn : Prop :=
  ∀ s : State,
    let st := s.me
    (st.sys = true → (st.frame.lcnt = 0 ∨ ∃ k, 1 ≤ k ∧ k ≤ 4095 ∧ st.frame.lend.toNat = st.frame.lbeg.toNat + 4 * k) →
      ∃ t, exec .eret s = .next t ∧ t.me.sys = false ∧ t.me.loop = st.frame ∧ t.me.pc.toNat = st.epc.toNat / 4 * 4
        ∧ t.me = { st with sys := false, loop := st.frame, pc := t.me.pc, walkFault := none } ∧ onlyStrand s.meKey s t)
      ∧ (st.handles → Traps .eret s 0x05 (nat64 0xF800_6000))

/-- R339, R340, R342: each branch transfers where its comparison holds and is an ordinary instruction where it does not; each jump
links and transfers; a transfer out of the body of a loop abandons the loop. -/
def Obligations.ControlTransfers : Prop :=
  branchTransfers ∧ jumpTransfers

/-- R349 to R351: reads, writes, sets and clears of every CSR of the map, in both modes. -/
def Obligations.CsrEffects : Prop :=
  csrReadValues ∧ csrWriteEffects

namespace Sys2Proof.Machine

/-- A scalar FP instruction completes: bits to g(d), zero-extended, flags ORed into fflags, the rest as an integer instruction
leaves it (R345). -/
def FpWrites (i : Instr) (s : State) (d : BitVec 5) (bits : Nat) (flags : BitVec 5) : Prop :=
  ∃ t, exec i s = .next t ∧ t.me.g d = (if d = 0 then 0 else nat64 bits) ∧ s.me.regsBut t.me d ∧ s.me.dirties t.me d
    ∧ s.me.advances t.me ∧ s.me.spends t.me ∧ Strand.computes { s.me with fflags := s.me.fflags ||| flags } t.me
    ∧ onlyStrand s.meKey s t

/-- fflags bits: NV 4, DZ 3, OF 2, UF 1, NX 0 (R59). -/
def fpFlags (nv dz of uf nx : Bool) : BitVec 5 := nv.toNat * 16 + dz.toNat * 8 + of.toNat * 4 + uf.toNat * 2 + nx.toNat

/-- The mode a rounding field names: its own code to 4, or frm's for 7 (R36, R60). -/
def Strand.modeIs (st : Strand) (rm : BitVec 3) (m : Rm) : Prop :=
  (rm.toNat ≤ 4 ∧ m = rmOf rm.toNat) ∨ (rm = 7 ∧ st.frm.toNat ≤ 4 ∧ m = rmOf st.frm.toNat)

/-- An exact value rounded once to the format, with the flags of its rounding and the invalid and divide-by-zero cases given
(R53, R57, R59, R346). -/
def FpRounds (i : Instr) (s : State) (d : BitVec 5) (fmt : BitVec 1) (m : Rm) (v : FVal) (nv dz : Bool) : Prop :=
  let r := roundVal (if fmt = 0 then f32 else f64) m .byMode v
  FpWrites i s d r.bits (fpFlags nv dz r.of r.uf r.nx)

/-- The canonical NaN (R52). -/
def canonicalNan (fmt : BitVec 1) : Nat := if fmt = 0 then 0x7FC0_0000 else 0x7FF8_0000_0000_0000

/-- An operand's value (R36, R52). -/
def operandVal (fmt : BitVec 1) (x : Dword) : FVal := if fmt = 0 then unpack f32 (x.toNat % 2 ^ 32) else unpack f64 x.toNat

/-- The operand's bits. -/
def operandBits (fmt : BitVec 1) (x : Dword) : Nat := if fmt = 0 then x.toNat % 2 ^ 32 else x.toNat

/-- What a float-to-integer conversion writes and raises: NaN 0, an infinity or a value out of range after rounding the bound, with
NV alone; in range the integer, with NX where it differs (R61, R348). -/
def IntegerOf (m : Rm) (lo hi : Int) (v : FVal) (r : Int) (flags : BitVec 5) : Prop :=
  match v with
  | .nan _ => r = 0 ∧ flags = 16
  | .inf neg => r = (if neg then lo else hi) ∧ flags = 16
  | .fin neg k e =>
    let q := roundTo m neg k e 0
    let n : Int := if neg then -(q.1 : Int) else q.1
    if n < lo then r = lo ∧ flags = 16 else if hi < n then r = hi ∧ flags = 16 else r = n ∧ flags = fpFlags false false false false q.2

/-- The class of a float's bits (R347). -/
def fpClass (ew mw bits : Nat) : Nat :=
  let neg := bits / 2 ^ (ew + mw) % 2 = 1
  let e := bits / 2 ^ mw % 2 ^ ew
  let f := bits % 2 ^ mw
  if e = 2 ^ ew - 1 then (if f = 0 then (if neg then 0 else 7) else if f < 2 ^ (mw - 1) then 8 else 9)
  else if e = 0 then (if f = 0 then (if neg then 3 else 4) else if neg then 2 else 5)
  else if neg then 1 else 6

/-- R345, R346: the arithmetic forms round one exact result once; NV for a signalling operand or an invalid operation, DZ for a
finite nonzero dividend over a zero. -/
def fpRoundedResults : Prop :=
  ∀ (s : State) (d a b : BitVec 5) (rm : BitVec 3) (fmt : BitVec 1) (m : Rm), s.me.modeIs rm m →
    let x := operandVal fmt (s.me.g a)
    let y := operandVal fmt (s.me.g b)
    let z := operandVal fmt (s.me.g d)
    let invalid (vs : List FVal) (v : FVal) : Bool :=
      vs.any FVal.isSignalling || (v.isNan && !(vs.any FVal.isNan))
    FpRounds (.fadd d a b rm fmt) s d fmt m (fsum m [x, y]) (invalid [x, y] (fsum m [x, y])) false
      ∧ FpRounds (.fsub d a b rm fmt) s d fmt m (fsum m [x, y.negate]) (invalid [x, y] (fsum m [x, y.negate])) false
      ∧ FpRounds (.fmul d a b rm fmt) s d fmt m (x.mul y) (invalid [x, y] (x.mul y)) false
      ∧ FpRounds (.fdiv d a b rm fmt) s d fmt m (x.div y) (invalid [x, y] (x.div y))
          (y.isZero && !x.isZero && !x.isInf && !x.isNan)
      ∧ FpRounds (.fsqrt d a rm fmt) s d fmt m x.sqrt (invalid [x] x.sqrt) false
      ∧ FpRounds (.ffma d a b rm fmt) s d fmt m (fsum m [x.mul y, z])
          (invalid [x, y, z] (fsum m [x.mul y, z]) || (x.isInf && y.isZero) || (x.isZero && y.isInf)) false

/-- R345, R346: with a NaN operand an arithmetic form gives the canonical NaN, with NV where an operand signals; a FFMA of 0 × ∞
also raises NV. -/
def fpNanPropagation : Prop :=
  ∀ (s : State) (d a b : BitVec 5) (rm : BitVec 3) (fmt : BitVec 1) (m : Rm), s.me.modeIs rm m →
    let x := operandVal fmt (s.me.g a)
    let y := operandVal fmt (s.me.g b)
    let gives (i : Instr) (nv : Bool) : Prop := FpWrites i s d (canonicalNan fmt) (if nv then 16 else 0)
    (x.isNan = true ∨ y.isNan = true →
        gives (.fadd d a b rm fmt) (x.isSignalling || y.isSignalling) ∧ gives (.fsub d a b rm fmt) (x.isSignalling || y.isSignalling)
          ∧ gives (.fmul d a b rm fmt) (x.isSignalling || y.isSignalling)
          ∧ gives (.fdiv d a b rm fmt) (x.isSignalling || y.isSignalling))
      ∧ (x.isNan = true → gives (.fsqrt d a rm fmt) x.isSignalling)
      ∧ ((operandVal (~~~fmt) (s.me.g a)).isNan = true →
          gives (.fcvtFloat d a rm fmt) (operandVal (~~~fmt) (s.me.g a)).isSignalling)

/-- R54, R347: minima, maxima, comparisons and FCLASS. -/
def fpCompareResults : Prop :=
  ∀ (s : State) (d a b : BitVec 5) (fmt : BitVec 1),
    let x := operandVal fmt (s.me.g a)
    let y := operandVal fmt (s.me.g b)
    let xb := operandBits fmt (s.me.g a)
    let yb := operandBits fmt (s.me.g b)
    let sig : BitVec 5 := if x.isSignalling || y.isSignalling then 16 else 0
    let nan : BitVec 5 := if x.isNan || y.isNan then 16 else 0
    (x.isNan = false → y.isNan = false →
        FpWrites (.fmin d a b fmt) s d (if x.below y then xb else yb) 0 ∧ FpWrites (.fmax d a b fmt) s d (if x.below y then yb else xb) 0
          ∧ FpWrites (.feq d a b fmt) s d (if x.eq y then 1 else 0) 0 ∧ FpWrites (.flt d a b fmt) s d (if x.lt y then 1 else 0) 0
          ∧ FpWrites (.fle d a b fmt) s d (if x.lt y || x.eq y then 1 else 0) 0)
      ∧ (x.isNan = true → y.isNan = false → FpWrites (.fmin d a b fmt) s d yb sig ∧ FpWrites (.fmax d a b fmt) s d yb sig)
      ∧ (x.isNan = false → y.isNan = true → FpWrites (.fmin d a b fmt) s d xb sig ∧ FpWrites (.fmax d a b fmt) s d xb sig)
      ∧ (x.isNan = true → y.isNan = true →
          FpWrites (.fmin d a b fmt) s d (canonicalNan fmt) sig ∧ FpWrites (.fmax d a b fmt) s d (canonicalNan fmt) sig)
      ∧ (x.isNan = true ∨ y.isNan = true →
          FpWrites (.feq d a b fmt) s d 0 sig ∧ FpWrites (.flt d a b fmt) s d 0 nan ∧ FpWrites (.fle d a b fmt) s d 0 nan)
      ∧ FpWrites (.fclass d a fmt) s d (2 ^ (if fmt = 0 then fpClass 8 23 xb else fpClass 11 52 xb)) 0

/-- R60, R61, R348: the conversions; and the illegal rounding codes of frm. -/
def fpConversionResults : Prop :=
  ∀ (s : State) (d a : BitVec 5) (rm : BitVec 3) (fmt : BitVec 1) (m : Rm), s.me.modeIs rm m →
    let g := s.me.g a
    let from_ := operandVal (~~~fmt) g
    let x := operandVal fmt g
    let to_ (i : Instr) (lo hi : Int) : Prop :=
      ∃ r flags, IntegerOf m lo hi x r flags ∧ FpWrites i s d (r % 2 ^ 64).toNat flags
    FpRounds (.fcvtFloat d a rm fmt) s d fmt m from_ from_.isSignalling false
      ∧ FpRounds (.fcvtFromL d a rm fmt) s d fmt m (.fin (g.toInt < 0) g.toInt.natAbs 0) false false
      ∧ FpRounds (.fcvtFromLu d a rm fmt) s d fmt m (.fin false g.toNat 0) false false
      ∧ to_ (.fcvtToL d a rm fmt) (-2 ^ 63) (2 ^ 63 - 1) ∧ to_ (.fcvtToLu d a rm fmt) 0 (2 ^ 64 - 1)
      ∧ to_ (.fcvtToW d a rm fmt) (-2 ^ 31) (2 ^ 31 - 1) ∧ to_ (.fcvtToWu d a rm fmt) 0 (2 ^ 32 - 1)

/-- R60: a rounding field of 7 with frm holding 5, 6 or 7 is an illegal instruction. -/
def fpIllegalRounding : Prop :=
  ∀ (s : State) (d a b : BitVec 5) (fmt : BitVec 1) (w : Word), s.me.handles → 5 ≤ s.me.frm.toNat →
    ∀ i ∈ [Instr.fadd d a b 7 fmt, .fsub d a b 7 fmt, .fmul d a b 7 fmt, .fdiv d a b 7 fmt, .fsqrt d a 7 fmt, .ffma d a b 7 fmt,
           .fcvtFloat d a 7 fmt, .fcvtFromL d a 7 fmt, .fcvtFromLu d a 7 fmt, .fcvtToL d a 7 fmt, .fcvtToLu d a 7 fmt,
           .fcvtToW d a 7 fmt, .fcvtToWu d a 7 fmt],
      wordValue i w → Traps i s 0x01 (w.zeroExtend 64)

end Sys2Proof.Machine

/-- R345, R346: the arithmetic forms round one exact result once, with their flags; with a NaN operand they give the canonical
NaN. -/
def Obligations.FpArithmeticResults : Prop :=
  fpRoundedResults ∧ fpNanPropagation

/-- R54, R60, R61, R347, R348: minima, maxima, comparisons, FCLASS and the conversions; a rounding field of 7 with frm at 5, 6 or 7 is
illegal. Model's choices it rests on: assumption log 78. -/
def Obligations.FpCompareAndConversionResults : Prop :=
  fpCompareResults ∧ fpConversionResults ∧ fpIllegalRounding

namespace Sys2Proof.Machine

/-- The address of a load or store (R193). -/
def effective (s : State) (a : BitVec 5) (imm : BitVec 16) : Dword := int64 ((s.me.g a).toInt + imm.toInt)

/-- An address of main memory outside the context's strata window, translated for an access. -/
def PlainAt (s : State) (va : Dword) (acc : Access) (pa : Nat) : Prop :=
  s.xlat s.me va acc = .hit pa ∧ s.inStrata s.me.ctx va.toNat = false ∧ isMain pa = true

/-- Bytes off to off + n of a line that the core holds for a load: all in its coalescing-buffer entry, or none there and the line
valid in the L1 (R179). -/
def CoreState.holds (c : CoreState) (line off n v : Nat) : Prop :=
  (∃ e, c.entryOf line = some e ∧ (∀ j, off ≤ j → j < off + n → e.mask.getLsbD j = true) ∧ v = lineGet e.data off n)
    ∨ (∃ l, (∀ e, c.entryOf line = some e → ∀ j, off ≤ j → j < off + n → e.mask.getLsbD j = false)
        ∧ c.l1Valid line = some l ∧ v = lineGet l.data off n)

/-- A load of a size and signedness that its core can serve completes with the bytes extended (R179, R193). -/
def LoadsHit (i : Instr) (s : State) (d : BitVec 5) (va : Dword) (size : Nat) (signed : Bool) : Prop :=
  ∀ pa v, va.toNat % size = 0 → PlainAt s va .read pa → (s.core s.me.core).holds (pa / 128) (pa % 128) size v →
    Computed i s d (if signed then int64 (if v < 2 ^ (8 * size - 1) then v else (v : Int) - 2 ^ (8 * size)) else nat64 v)

/-- A load that its core cannot serve suspends its strand behind a request for the line (R179, R317). -/
def LoadsMiss (i : Instr) (s : State) (d : BitVec 5) (va : Dword) (size : Nat) : Prop :=
  ∀ pa tag, va.toNat % size = 0 → PlainAt s va .read pa → (s.core s.me.core).entryOf (pa / 128) = none →
    (s.core s.me.core).l1Valid (pa / 128) = none → CanSuspend s tag →
    ∃ t, exec i s = .next t ∧ Suspended s t d tag .completion .nothing
      ∧ ∃ r ∈ (t.core s.me.core).lineReqs, r.line = pa / 128
          ∧ ∃ u ∈ r.uses, ∃ form, u = .load s.me.sid tag va pa form ∧ form.size = size

/-- A store of the low n bytes of g(d) to a VA. To main memory, in its core: the bytes stand in the line's coalescing-buffer entry,
which holds every other byte it held, and in the core's valid copy; no byte of memory changes yet. To the host window: the bytes
at the translated address, and no other, change (R181, R194). -/
def Stores (i : Instr) (s : State) (d : BitVec 5) (va : Dword) (n : Nat) : Prop :=
  s.me.scout = false → va.toNat % n = 0 → s.inStrata s.me.ctx va.toNat = false →
    ∀ pa, s.xlat s.me va .write = .hit pa →
      (isHost pa = true → s.mem.wf = true →
          ∃ t, exec i s = .next t ∧ (∀ j, j < n → t.mem.read (pa + j) = BitVec.ofNat 8 ((s.me.g d).toNat / 2 ^ (8 * j)))
            ∧ (∀ a, a < pa ∨ pa + n ≤ a → t.mem.read a = s.mem.read a) ∧ t.me.regs = s.me.regs ∧ s.me.advances t.me
            ∧ s.me.computes t.me)
        ∧ (isHost pa = false → pa % 128 + n ≤ 128 →
            ∀ e, (s.core s.me.core).entryOf (pa / 128) = some e → e.draining = false →
              ∃ t e', exec i s = .next t ∧ (t.core s.me.core).entryOf (pa / 128) = some e'
                ∧ lineGet e'.data (pa % 128) n = (s.me.g d).toNat % 2 ^ (8 * n)
                ∧ (∀ j, e'.mask.getLsbD j = (e.mask.getLsbD j || decide (pa % 128 ≤ j ∧ j < pa % 128 + n)))
                ∧ (∀ j, j < 128 → j < pa % 128 ∨ pa % 128 + n ≤ j → lineGet e'.data j 1 = lineGet e.data j 1)
                ∧ t.mem = s.mem ∧ t.me.regs = s.me.regs ∧ s.me.advances t.me ∧ s.me.computes t.me)
        ∧ (isHost pa = false → (s.core s.me.core).entryOf (pa / 128) = none → (s.core s.me.core).cb.length < 32 →
            pa % 128 + n ≤ 128 →
            ∃ t e', exec i s = .next t ∧ (t.core s.me.core).entryOf (pa / 128) = some e'
              ∧ lineGet e'.data (pa % 128) n = (s.me.g d).toNat % 2 ^ (8 * n)
              ∧ (∀ j, e'.mask.getLsbD j = decide (pa % 128 ≤ j ∧ j < pa % 128 + n))
              ∧ t.mem = s.mem ∧ t.me.regs = s.me.regs ∧ s.me.advances t.me ∧ s.me.computes t.me)

end Sys2Proof.Machine

/-- R179, R193: a load served by its core's coalescing buffer or L1 completes with the bytes, sign- or zero-extended, and changes
nothing else. -/
def Obligations.LoadHitResults : Prop :=
  ∀ (s : State) (d a : BitVec 5) (imm : BitVec 16),
    let va := effective s a imm
    LoadsHit (.ldb d a imm) s d va 1 true ∧ LoadsHit (.ldbu d a imm) s d va 1 false ∧ LoadsHit (.ldh d a imm) s d va 2 true
      ∧ LoadsHit (.ldhu d a imm) s d va 2 false ∧ LoadsHit (.ldw d a imm) s d va 4 true ∧ LoadsHit (.ldwu d a imm) s d va 4 false
      ∧ LoadsHit (.ldd d a imm) s d va 8 false

/-- R178, R179, R317: a load that misses suspends its strand and requests the line. Model's choices it rests on: assumption log 13. -/
def Obligations.LoadMissSuspends : Prop :=
  ∀ (s : State) (d a : BitVec 5) (imm : BitVec 16),
    let va := effective s a imm
    LoadsMiss (.ldb d a imm) s d va 1 ∧ LoadsMiss (.ldbu d a imm) s d va 1 ∧ LoadsMiss (.ldh d a imm) s d va 2
      ∧ LoadsMiss (.ldhu d a imm) s d va 2 ∧ LoadsMiss (.ldw d a imm) s d va 4 ∧ LoadsMiss (.ldwu d a imm) s d va 4
      ∧ LoadsMiss (.ldd d a imm) s d va 8

/-- R181, R193, R194: what a store changes, and that it changes nothing else. Model's choices it rests on: assumption log 8. -/
def Obligations.StoreEffects : Prop :=
  ∀ (s : State) (d a : BitVec 5) (imm : BitVec 16),
    let va := effective s a imm
    Stores (.stb d a imm) s d va 1 ∧ Stores (.sth d a imm) s d va 2 ∧ Stores (.stw d a imm) s d va 4 ∧ Stores (.std d a imm) s d va 8
      ∧ (s.me.scout = true → ∀ i ∈ [Instr.stb d a imm, .sth d a imm, .stw d a imm, .std d a imm],
          ∃ t, exec i s = .next t ∧ Passes s t)

/-- R28, R47, R193: a misaligned load or store raises 0x02 and one whose translation is refused 0x04 (or what its walk ended in),
with the address in tval; a store to the strata window raises 0x04. Model's choices it rests on: assumption log 12. -/
def Obligations.LoadStoreTraps : Prop :=
  ∀ (s : State) (d a : BitVec 5) (imm : BitVec 16), s.me.handles →
    let va := effective s a imm
    let forms : List (Instr × Nat × Access) :=
      [(.ldb d a imm, 1, .read), (.ldbu d a imm, 1, .read), (.ldh d a imm, 2, .read), (.ldhu d a imm, 2, .read),
       (.ldw d a imm, 4, .read), (.ldwu d a imm, 4, .read), (.ldd d a imm, 8, .read), (.stb d a imm, 1, .write),
       (.sth d a imm, 2, .write), (.stw d a imm, 4, .write), (.std d a imm, 8, .write)]
    ∀ f ∈ forms,
      (va.toNat % f.2.1 ≠ 0 → Traps f.1 s 0x02 va)
        ∧ (va.toNat % f.2.1 = 0 → f.2.2 = .write → s.inStrata s.me.ctx va.toNat = true → Traps f.1 s 0x04 va)
        ∧ (∀ c, va.toNat % f.2.1 = 0 → s.inStrata s.me.ctx va.toNat = false → s.xlat s.me va f.2.2 = .fault c →
            Traps f.1 s (BitVec.ofNat 8 c) va)

namespace Sys2Proof.Machine

/-- The strand that takes the step completes and writes no register; no other strand, no record and no byte of memory changes. What
else changes, the statement says. -/
def Quiet (s t : State) : Prop :=
  t.me.regs = s.me.regs ∧ t.me.dmask = s.me.dmask ∧ s.me.advances t.me ∧ s.me.spends t.me ∧ s.me.computes t.me
    ∧ (∀ k, k ≠ s.meKey → t.strand k = s.strand k) ∧ t.records = s.records ∧ t.mem = s.mem

/-- The same with v written to g(d). -/
def Gives (s t : State) (d : BitVec 5) (v : Dword) : Prop :=
  t.me.g d = (if d = 0 then 0 else v) ∧ s.me.regsBut t.me d ∧ s.me.dirties t.me d ∧ s.me.advances t.me ∧ s.me.spends t.me
    ∧ s.me.computes t.me ∧ (∀ k, k ≠ s.meKey → t.strand k = s.strand k) ∧ t.records = s.records ∧ t.mem = s.mem

/-- The codes of PIN (R188): pinned already by the context, or by another; no way of the set left to pin; the quota spent. -/
def PinCode (s : State) (line code : Nat) : Prop :=
  let c := s.core s.me.core
  let pins (p : L1Line → Bool) : Nat := (c.l1.filter p).length
  let full := 12 ≤ pins fun l => l.line % 128 = line % 128 && l.pin.isSome
  let spent := (s.ctx s.me.ctx).pinQuota ≤ pins fun l => l.pin = some s.me.ctx
  match (c.l1.find? fun l => l.line = line).bind (·.pin) with
  | some o => code = if o = s.me.ctx then 1 else 2
  | none => if full then code = 3 else if spent then code = 4 else code = 0

/-- An operation stands at the end of the slices' requests, from this strand, under a tag (R84). -/
def AsksSlice (s t : State) (tag : BitVec 16) (va : Dword) (pa : Nat) (op : SliceOp) : Prop :=
  ∃ r, t.slice.reqs = s.slice.reqs ++ [r] ∧ r.core = s.me.core ∧ r.sid = s.me.sid ∧ r.ctx = s.me.ctx ∧ r.tag = tag ∧ r.va = va
    ∧ r.pa = pa ∧ r.op = op

/-- A form that suspends its strand until a home slice answers. -/
def SendsToSlice (i : Instr) (s : State) (d : BitVec 5) (va : Dword) (pa : Nat) (op : SliceOp) : Prop :=
  ∀ tag, CanSuspend s tag → ∃ t, exec i s = .next t ∧ Suspended s t d tag .completion .nothing ∧ AsksSlice s t tag va pa op

/-- Every coalescing-buffer entry of a core that a test picks is draining. -/
def Draining (t : State) (core : Nat) (p : CbEntry → Prop) : Prop := ∀ e ∈ (t.core core).cb, p e → e.draining = true

/-- What an acquire at a scope leaves of a core's L1: at core scope all of it, else the pinned lines alone, stale (R184). -/
def Acquired (s t : State) (core scope : Nat) : Prop :=
  if scope = 0 then (t.core core).l1 = (s.core core).l1
  else ∀ l ∈ (t.core core).l1, l.stale = true ∧ ∃ l' ∈ (s.core core).l1, l'.pin.isSome = true ∧ l = { l' with stale := true }

/-- A VA of the context's strata window, translated for an access (R200, R204 to R206). -/
def StrataAt (s : State) (va : Dword) (acc : Access) (pa : Nat) : Prop :=
  va.toNat % 8 = 0 ∧ s.inStrata s.me.ctx va.toNat = true ∧ s.xlat s.me va acc = .hit pa

end Sys2Proof.Machine

/-- R186 to R188, R195: prefetch, flush, invalidation, pin and unpin of a line of main memory. Model's choices it rests on: assumption log 72. -/
def Obligations.CacheFormEffects : Prop :=
  ∀ (s : State) (d a : BitVec 5),
    let va := s.me.g a
    let core := s.me.core
    (∃ t, exec (.pf a) s = .next t ∧ Quiet s t)
      ∧ (∀ pa e, s.tlbFind core s.me.ctx va.toNat = some e → va.toNat < 2 ^ 56 → granted e.pte .read = true →
          e.phys va.toNat = pa → isMain pa = true → s.inStrata s.me.ctx va.toNat = false → (s.core core).l1Valid (pa / 128) = none →
          ∃ t, exec (.pf a) s = .next t ∧ ∃ r ∈ (t.core core).lineReqs, r.line = pa / 128)
      ∧ (s.me.scout = false → ∀ pa, PlainAt s va .read pa →
          (∃ t, exec (.flsh a) s = .next t ∧ Quiet s t ∧ Draining t core fun e => e.line = pa / 128)
            ∧ (∃ t, exec (.invl a) s = .next t ∧ Quiet s t ∧ Draining t core (fun e => e.line = pa / 128)
                ∧ (t.core core).l1Valid (pa / 128) = none ∧ ∀ l ∈ (t.core core).icache, l.line ≠ pa / 128)
            ∧ (∀ code, PinCode s (pa / 128) code →
                ∃ t, exec (.pin d a) s = .next t ∧ Gives s t d (nat64 code)
                  ∧ (code = 0 → ∃ l ∈ (t.core core).l1, l.line = pa / 128 ∧ l.pin = some s.me.ctx)
                  ∧ (code ≠ 0 → (t.core core).l1 = (s.core core).l1))
            ∧ (∃ t, exec (.unpin d a) s = .next t
                ∧ match ((s.core core).l1.find? fun l => l.line = pa / 128).bind (·.pin) with
                  | none => Gives s t d 5
                  | some o =>
                    if o = s.me.ctx then Gives s t d 0 ∧ ∀ l ∈ (t.core core).l1, l.line = pa / 128 → l.pin = none
                    else Gives s t d 6 ∧ (t.core core).l1 = (s.core core).l1))

/-- R81, R83, R84 to R86, R195, R196: LOCK, UNLOCK and the ten atomics suspend their strand behind one request at the line's home
slice, with the operand, and for CAS the expected value of g(d). -/
def Obligations.SliceRequestsIssued : Prop :=
  ∀ (s : State) (d a b : BitVec 5) (scope : BitVec 2) (size : BitVec 1), s.me.scout = false →
    let va := s.me.g a
    let n := if size = 1 then 8 else 4
    let atoms : List (Instr × AtomOp) :=
      [(.atomAdd d a b scope size, .add), (.atomAnd d a b scope size, .and), (.atomOr d a b scope size, .or),
       (.atomXor d a b scope size, .xor), (.atomMin d a b scope size, .min), (.atomMax d a b scope size, .max),
       (.atomMinu d a b scope size, .minu), (.atomMaxu d a b scope size, .maxu), (.atomSwp d a b scope size, .swp),
       (.atomCas d a b scope size, .cas)]
    (∀ pa, PlainAt s va .read pa →
        SendsToSlice (.lock d a) s d va (pa / 128 * 128) .lock ∧ SendsToSlice (.unlock d a) s d va (pa / 128 * 128) .unlock)
      ∧ ∀ f ∈ atoms,
          (∀ pa, va.toNat % n = 0 → PlainAt s va .atomic pa → SendsToSlice f.1 s d va pa (.atom f.2 n (s.me.g b) (s.me.g d)))
            ∧ (s.me.handles → va.toNat % n ≠ 0 → Traps f.1 s 0x02 va)
            ∧ (s.me.handles → va.toNat % n = 0 → s.inStrata s.me.ctx va.toNat = true → Traps f.1 s 0x04 va)
            ∧ (∀ c, s.me.handles → va.toNat % n = 0 → s.inStrata s.me.ctx va.toNat = false → s.xlat s.me va .atomic = .fault c →
                Traps f.1 s (BitVec.ofNat 8 c) va)

/-- R183, R184, R198, R207: the fences. Each completes at once where nothing is pending, and the ordering ones wait for the entries
of the coalescing buffer present and for the strand's versions. Model's choices it rests on: assumption log 32. -/
def Obligations.FenceEffects : Prop :=
  ∀ (s : State) (scope : BitVec 2), s.me.scout = false →
    let core := s.me.core
    let pending := (s.core core).cb.map (·.id)
    let idle := scope = 0 ∨ (pending = [] ∧ s.unackedStvs core s.me.sid = 0)
    (∃ t, exec (.fenceLd scope) s = .next t ∧ Quiet s t ∧ Acquired s t core scope.toNat)
      ∧ (idle → (∃ t, exec (.fenceSt scope) s = .next t ∧ Passes s t)
          ∧ ∃ t, exec (.fenceAll scope) s = .next t ∧ Quiet s t ∧ Acquired s t core scope.toNat)
      ∧ (¬idle → ∀ tag, CanSuspend s tag →
          (∃ t, exec (.fenceSt scope) s = .next t ∧ Suspended s t 0 tag (.drain pending true) .nothing
              ∧ Draining t core fun e => e.id ∈ pending)
            ∧ ∃ t, exec (.fenceAll scope) s = .next t ∧ Suspended s t 0 tag (.drain pending true) (.acquire scope.toNat)
              ∧ Draining t core fun e => e.id ∈ pending)
      ∧ (s.answered s.meKey = true → ∃ t, exec (.fenceEng scope) s = .next t ∧ Quiet s t ∧ Acquired s t core scope.toNat)
      ∧ (s.answered s.meKey = false → ∀ tag, CanSuspend s tag →
          ∃ t, exec (.fenceEng scope) s = .next t ∧ Suspended s t 0 tag .responses (.acquire scope.toNat))

/-- R203 to R206: LDV suspends its strand behind a request for a version; STV sends a new version behind its release; RCLM asks for a
version's slot back. Off the window or misaligned they fault. Model's choices it rests on: assumption log 73. -/
def Obligations.VersionedAccessIssued : Prop :=
  ∀ (s : State) (d a b : BitVec 5) (imm : BitVec 16), s.me.scout = false →
    let va := s.me.g a
    let sva := effective s a imm
    let ldv (i : Instr) (form : LdvForm) : Prop :=
      ∀ pa tag, StrataAt s va .read pa → CanSuspend s tag →
        ∃ t, exec i s = .next t ∧ Suspended s t d tag .completion (.acquire (s.strataScope s.me.ctx va.toNat))
          ∧ ∃ r, t.slice.ldvs = s.slice.ldvs ++ [r] ∧ r.core = s.me.core ∧ r.sid = s.me.sid ∧ r.tag = tag ∧ r.va = va ∧ r.pa = pa
            ∧ r.form = form ∧ r.waiting = none
    let faults (i : Instr) (v : Dword) (acc : Access) : Prop :=
      s.me.handles → (v.toNat % 8 ≠ 0 → Traps i s 0x02 v)
        ∧ (v.toNat % 8 = 0 → s.inStrata s.me.ctx v.toNat = false → Traps i s 0x04 v)
        ∧ ∀ c, v.toNat % 8 = 0 → s.inStrata s.me.ctx v.toNat = true → s.xlat s.me v acc = .fault c → Traps i s (BitVec.ofNat 8 c) v
    ldv (.ldvEq d a b) (.eq (s.me.g b)) ∧ ldv (.ldvGe d a b) (.ge (s.me.g b))
      ∧ (∀ pa, StrataAt s sva .write pa → s.unackedStvs s.me.core s.me.sid < 8 →
          ∃ t r, exec (.stv d a imm) s = .next t ∧ Quiet s t ∧ t.slice.stvs = s.slice.stvs ++ [r] ∧ r.core = s.me.core
            ∧ r.sid = s.me.sid ∧ r.va = sva ∧ r.pa = pa ∧ r.value = s.me.g d ∧ r.held = false
            ∧ r.after = (if s.strataScope s.me.ctx sva.toNat = 0 then [] else (s.core s.me.core).cb.map (·.id)))
      ∧ (∀ pa tag, StrataAt s sva .write pa → 8 ≤ s.unackedStvs s.me.core s.me.sid → CanSuspend s tag →
          ∃ t, exec (.stv d a imm) s = .next t ∧ Retried s t tag .stvRoom)
      ∧ (∀ pa, StrataAt s va .read pa →
          ∃ t r, exec (.rclm a b) s = .next t ∧ Quiet s t ∧ t.slice.rclms = s.slice.rclms ++ [r] ∧ r.core = s.me.core
            ∧ r.sid = s.me.sid ∧ r.va = va ∧ r.pa = pa ∧ r.v = s.me.g b)
      ∧ faults (.ldvEq d a b) va .read ∧ faults (.ldvGe d a b) va .read ∧ faults (.stv d a imm) sva .write ∧ faults (.rclm a b) va .read

namespace Sys2Proof.Machine

/-- No slot is free for the record of the strand that takes the step (R323). -/
def NoSlot (s : State) : Prop := s.slotFor s.me.core s.me.ctx s.me.depositor = none

/-- A slot is free for it. -/
def SlotAt (s : State) (p : SlotPlace) : Prop := s.slotFor s.me.core s.me.ctx s.me.depositor = some p

/-- Every strand and record but those of some keys is as before, and so is memory. -/
def StrandsBut (s t : State) (ks : List Nat) : Prop :=
  (∀ k, k ∉ ks → t.strands.get? k = s.strands.get? k ∧ t.records.get? k = s.records.get? k) ∧ t.mem = s.mem

/-- The strand that takes the step has been recorded for what it waits for, to go on at a PC. -/
def WaitsAt (s t : State) (st : Strand) (kind : RecKind) (wait : WaitFor) (ready : Bool) : Prop :=
  t.me = { st with place := .recorded }
    ∧ (∃ r, t.records.get? s.meKey = some r ∧ r.kind = kind ∧ r.wait = wait ∧ r.ready = ready ∧ r.pc = st.pc ∧ r.dmask = st.dmask)
    ∧ StrandsBut s t [s.meKey]

/-- The launch image of a strand's task (R315): its eight parameters in g1 to g8, all else 0. -/
def launchValue (s : State) (n : Nat) : Dword :=
  match s.task s.me.task with
  | some t => if 1 ≤ n ∧ n ≤ 8 then t.params.getD (n - 1) 0 else 0
  | none => 0

/-- A child of FORK, or a scout (R327, R329, R330): in task mode at the entry, the argument in g1, the rest of its registers the
launch image, and a record ready at once. -/
def Forked (s t : State) (k : Nat) (entry arg : Dword) (scout : Bool) : Prop :=
  let c := t.strand k
  c.pc.toNat = entry.toNat / 4 * 4 ∧ c.g 1 = arg ∧ (∀ n : BitVec 5, n ≠ 0 → n ≠ 1 → c.g n = launchValue s n.toNat)
    ∧ c.core = s.me.core ∧ c.ctx = s.me.ctx ∧ c.task = s.me.task ∧ c.sys = false ∧ c.scout = scout
    ∧ c.ordered = s.me.ordered ∧ c.prio = s.me.prio ∧ c.frm = s.me.frm ∧ c.tvec = s.me.tvec ∧ c.tagCtr = 0 ∧ c.window = []
    ∧ (scout = false → c.parent = some (keyOf s.me.core s.me.sid) ∧ c.sibling = BitVec.ofNat 32 s.me.nextChild)
    ∧ (scout = true → c.parent = none ∧ c.budget = if s.me.budget = 0 then 4096 else s.me.budget)
    ∧ ∃ r, t.records.get? k = some r ∧ r.ready = true ∧ r.kind = (if scout then .scout else .resume) ∧ r.pc = c.pc

/-- The key of the lowest free strand id of the core of the strand that takes the step (R330). -/
def FreeKey (s : State) (k : Nat) : Prop := ∃ sid, s.freeSid s.me.core = some sid ∧ k = keyOf s.me.core sid ∧ k ≠ s.meKey

/-- t is s after an instruction that takes n tags of the strand's sequence into its window of 1,024, newest first, and writes v to
g(d) (R15, R152). -/
def TakesTags (s t : State) (d : BitVec 5) (v : Dword) (n : Nat) : Prop :=
  t.me.g d = (if d = 0 then 0 else v) ∧ s.me.regsBut t.me d ∧ s.me.dirties t.me d ∧ s.me.advances t.me
    ∧ t.me.tagCtr = s.me.tagCtr + BitVec.ofNat 16 n
    ∧ t.me.window = (((List.range n).reverse.map fun i =>
        ({ tag := s.me.tagCtr + BitVec.ofNat 16 i, command := true } : WindowTag)) ++ s.me.window).take 1024
    ∧ (∀ k, k ≠ s.meKey → t.strand k = s.strand k) ∧ t.records = s.records ∧ t.mem = s.mem

/-- A command of the strand's stream, its release the coalescing-buffer entries present at its issue (R150, R151, R157). -/
def CommandOf (s : State) (c : Command) (tag : BitVec 16) : Prop :=
  c.core = s.me.core ∧ c.sid = some s.me.sid ∧ c.stream = s.me.stream ∧ c.ctx = s.me.ctx ∧ c.task = s.me.task ∧ c.tag = tag
    ∧ c.after = (s.core s.me.core).cb.map (·.id)

/-- A response that carries a deferred fault (R128). -/
def Deferred (r : Dword) (code : Nat) : Prop := r.toNat % 256 = 6 ∧ r.toNat / 256 % 256 = code ∧ (code = 0x09 ∨ code = 0x0A)

/-- A port of the strand's context is bound by a link of a loaded region in a direction (R239, R240). -/
def BoundTo (s : State) (b : Binding) (region link : Nat) (r : Region) : Prop :=
  (s.core s.me.core).portLink s.me.ctx b = some (region, link) ∧ (s.core s.me.core).regions.get? region = some r

/-- No configuration of the context, loaded or frozen, binds it. -/
def Unbound (s : State) (b : Binding) : Prop :=
  (s.core s.me.core).portLink s.me.ctx b = none ∧ (s.core s.me.core).portAway s.me.ctx b = false

/-- A frozen configuration binds it. -/
def Away (s : State) (b : Binding) : Prop :=
  (s.core s.me.core).portLink s.me.ctx b = none ∧ (s.core s.me.core).portAway s.me.ctx b = true

/-- The token that PWR sends from an assembly buffer of doublewords (R241). -/
def SentToken (tok : Token) (fmt : BitVec 4) (ws : List Dword) (last : Bool) : Prop :=
  tok.kind = .data ∧ tok.iter = 0 ∧ tok.policy = 0 ∧ tok.reset = false ∧ tok.last = last ∧ tok.fmt = fmt
    ∧ tok.count = min (lanesIn fmt (64 * ws.length)) (laneCount fmt)
    ∧ ∀ i, i < tok.count → tok.ok i = true ∧ tok.val i = laneOf fmt (dwordsNat ws) i

/-- A form of PWR that sends its token: placed where the port is free for it, else the strand waits (R239, R241). -/
def Sends (i : Instr) (s : State) (a : BitVec 5) (port : Nat) (last : Bool) : Prop :=
  ∀ region link r, BoundTo s (.input port) region link r →
    let p := (s.core s.me.core).port port
    (p.feeder = none ∨ p.feeder = some .pwr → 0 < r.portRoom link →
        ∃ t tok, exec i s = .next t ∧ Quiet s t ∧ SentToken tok (r.link link).fmt (p.assembly ++ [s.me.g a]) last
          ∧ (t.core s.me.core).regions.get? region = some (r.place link tok)
          ∧ (t.core s.me.core).port port = { p with assembly := [], feeder := if last then none else some .pwr })
      ∧ (¬(p.feeder = none ∨ p.feeder = some .pwr) ∨ r.portRoom link = 0 → ∀ tag, CanSuspend s tag →
          ∃ t, exec i s = .next t ∧ Retried s t tag (.portRoom port))

/-- No earlier PRD of the core waits for the port (R239). -/
def NoneWaits (s : State) (port : Nat) : Prop :=
  ∀ x ∈ s.records, ¬(x.1 / 65536 = s.me.core ∧ x.2.wait = .portToken port ∧ x.2.ready = false)

end Sys2Proof.Machine

/-- R327 to R333: FORK, JOIN, END and YIELD. Model's choices it rests on: assumption log 27, 79. -/
def Obligations.StrandControlEffects : Prop :=
  ∀ (s : State) (d a b : BitVec 5),
    let st := s.me
    let e := st.g a
    let none_ (i : Instr) : Prop := Computed i s d (int64 (-1))
    -- a scout makes no strand and waits for none
    (st.scout = true → none_ (.fork d a b) ∧ (∃ t, exec .join s = .next t ∧ Passes s t)
        ∧ ∃ t, exec .endStrand s = .next t ∧ t.strands.get? s.meKey = none ∧ t.records.get? s.meKey = none ∧ StrandsBut s t [s.meKey])
      -- FORK: its faults, its refusals, a child, a scout
      ∧ (st.handles → e.getLsbD 1 = true → Traps (.fork d a b) s 0x02 e)
      ∧ (st.handles → e.getLsbD 1 = false → e.getLsbD 0 = true → (s.ctx st.ctx).scoutPriv = false → Traps (.fork d a b) s 0x05 e)
      ∧ (st.scout = false → e.toNat % 4 = 0 → s.freeSid st.core = none ∨ st.unjoined = 65535 → none_ (.fork d a b))
      ∧ (∀ k p, st.scout = false → e.toNat % 4 = 0 → FreeKey s k → st.unjoined ≠ 65535 → SlotAt s p →
          ∃ t, exec (.fork d a b) s = .next t ∧ t.me.g d = (if d = 0 then 0 else nat64 (st.nextChild % 2 ^ 32))
            ∧ t.me.nextChild = st.nextChild + 1 ∧ t.me.unjoined = st.unjoined + 1 ∧ st.regsBut t.me d ∧ st.advances t.me
            ∧ Forked s t k e (st.g b) false ∧ StrandsBut s t [s.meKey, k])
      ∧ (∀ k p, st.scout = false → e.toNat % 4 = 1 → (s.ctx st.ctx).scoutPriv = true → FreeKey s k → st.unjoined ≠ 65535 →
          s.slotFor st.core st.ctx .scout = some p →
          ∃ t, exec (.fork d a b) s = .next t ∧ t.me.g d = 0 ∧ st.regsBut t.me d ∧ st.advances t.me ∧ t.me.unjoined = st.unjoined
            ∧ Forked s t k e (st.g b) true ∧ StrandsBut s t [s.meKey, k])
      -- JOIN and END wait for the children, END at itself
      ∧ (st.unjoined = 0 → ∃ t, exec .join s = .next t ∧ Passes s t)
      ∧ (∀ p, st.scout = false → st.unjoined ≠ 0 → SlotAt s p →
          (∃ t, exec .join s = .next t ∧ WaitsAt s t st.retire .join .children false)
            ∧ ∃ t, exec .endStrand s = .next t ∧ WaitsAt s t st .join .children false)
      ∧ (st.scout = false → st.unjoined ≠ 0 → NoSlot s → exec .endStrand s = .next s)
      -- END of a child that has waited for its own: it is gone, its parent has one child less, and a JOIN that waited for it alone is ready
      ∧ (∀ p q, st.scout = false → st.unjoined = 0 → st.parent = some p → p ≠ s.meKey → s.strands.get? p = some q →
          ∃ t, exec .endStrand s = .next t ∧ t.strands.get? s.meKey = none ∧ t.records.get? s.meKey = none
            ∧ t.strand p = { q with unjoined := q.unjoined - 1 }
            ∧ (∀ r, s.records.get? p = some r → r.kind = .join → r.wait = .children → q.unjoined ≤ 1 →
                ∃ r', t.records.get? p = some r' ∧ r'.ready = true)
            ∧ StrandsBut s t [s.meKey, p])
      -- END of a root: its task notes it
      ∧ (∀ tk, st.scout = false → st.unjoined = 0 → st.parent = none → s.task st.task = some tk → tk.root = some s.meKey →
          ∃ t tk', exec .endStrand s = .next t ∧ t.strands.get? s.meKey = none ∧ t.records.get? s.meKey = none
            ∧ t.task st.task = some tk' ∧ tk'.rootEnded = true ∧ tk'.drains = (s.core st.core).cb.map (·.id)
            ∧ (∀ x ∈ (t.core st.core).cb, x.draining = true) ∧ StrandsBut s t [s.meKey])
      -- YIELD: a record ready at once
      ∧ (∀ p, SlotAt s p → ∃ t, exec .yield s = .next t
          ∧ WaitsAt s t st.retire (if st.scout then .scout else .resume) .completion true)
      -- no slot: continuation overflow
      ∧ (st.handles → NoSlot s → Traps .yield s 0x06 0 ∧ (st.unjoined ≠ 0 → Traps .join s 0x06 0)
          ∧ ∀ k, e.toNat % 4 = 0 → FreeKey s k → st.unjoined ≠ 65535 → Traps (.fork d a b) s 0x06 0)

/-- R15, R128, R150 to R152, R157 to R159: SCMD and SCML issue commands under new tags, RESP collects a response. Model's choices it rests on: assumption log 25. -/
def Obligations.CommandIssueAndCollection : Prop :=
  ∀ (s : State) (d a b : BitVec 5),
    let st := s.me
    let va := st.g a
    let n := (st.g b).toNat
    let tag : BitVec 16 := (st.g a).truncate 16
    let ids := (s.core st.core).cb.map (·.id)
    let none_ (i : Instr) : Prop := Computed i s d (int64 (-1))
    (st.scout = true → none_ (.scmd d a b) ∧ none_ (.scml d a b) ∧ none_ (.resp d a))
      ∧ (st.scout = false →
          (∃ t c, exec (.scmd d a b) s = .next t ∧ TakesTags s t d (nat64 st.tagCtr.toNat) 1 ∧ t.cmds = s.cmds ++ [c]
              ∧ CommandOf s c st.tagCtr ∧ c.bits = st.g b ++ st.g a ∧ c.src = none ∧ Draining t st.core fun x => x.id ∈ ids)
            ∧ (va.toNat % 16 = 0 → n = 0 ∨ 1024 < n → none_ (.scml d a b))
            ∧ (va.toNat % 16 = 0 → 1 ≤ n → n ≤ 1024 →
                ∃ t cs, exec (.scml d a b) s = .next t ∧ TakesTags s t d (nat64 st.tagCtr.toNat) n ∧ t.cmds = s.cmds ++ cs
                  ∧ cs.length = n ∧ (∀ i c, cs[i]? = some c →
                      CommandOf s c (st.tagCtr + BitVec.ofNat 16 i) ∧ c.src = some (va + nat64 (16 * i), i, s.nextUid))
                  ∧ Draining t st.core fun x => x.id ∈ ids)
            -- RESP: a tag not in the window, a response present, one awaited
            ∧ (st.window.find? (·.tag = tag) = none → none_ (.resp d a))
            ∧ (∀ w r, st.window.find? (·.tag = tag) = some w → w.resp = some r → (∀ c, ¬Deferred r c) →
                ∃ t, exec (.resp d a) s = .next t ∧ t.me.g d = (if d = 0 then 0 else r) ∧ st.regsBut t.me d ∧ st.advances t.me
                  ∧ t.me.window = st.window.filter (·.tag ≠ tag) ∧ t.me.tagCtr = st.tagCtr ∧ Acquired s t st.core 2 ∧ t.mem = s.mem)
            ∧ (∀ w, st.window.find? (·.tag = tag) = some w → w.resp = none → ∀ p, SlotAt s p →
                ∃ t, exec (.resp d a) s = .next t ∧ t.me = { st.retire with place := .recorded } ∧ t.mem = s.mem
                  ∧ ∃ r, t.records.get? s.meKey = some r ∧ r.dest = d ∧ r.tag = tag ∧ r.space = 1 ∧ r.ready = false
                    ∧ r.act = .resp tag ∧ r.pc = st.retire.pc))
      ∧ (st.handles → (va.toNat % 16 ≠ 0 → Traps (.scml d a b) s 0x02 va)
          -- a deferred fault is raised behind the RESP, its result written
          ∧ ∀ w r code, st.window.find? (·.tag = tag) = some w → w.resp = some r → Deferred r code →
              ∃ t, exec (.resp d a) s = .next t ∧ t.me.g d = (if d = 0 then 0 else r) ∧ t.me.sys = true ∧ t.me.pc = st.tvec
                ∧ t.me.cause.toNat = code ∧ t.me.tval = nat64 tag.toNat ∧ t.me.window = st.window.filter (·.tag ≠ tag)
                ∧ t.me.epc = nat64 (st.retire.pc.toNat % 2 ^ 56 / 4 * 4))

/-- R239 to R242: PWR in its three forms, ACLR and PRD. Model's choices it rests on: assumption log 43. -/
def Obligations.PortFormEffects : Prop :=
  ∀ (s : State) (d a : BitVec 5) (port : BitVec 4),
    let n := port.toNat
    let st := s.me
    let p := (s.core st.core).port n
    -- a scout's have no effect
    (st.scout = true → (∀ i ∈ [Instr.pwr a port, .pwrS a port, .pwrSl a port, .aclr port], ∃ t, exec i s = .next t ∧ Passes s t)
        ∧ Computed (.prd d port) s d 0)
      -- a port not bound for the context: the stream fault
      ∧ (st.handles → Unbound s (.input n) →
          ∀ i ∈ [Instr.pwr a port, .pwrS a port, .pwrSl a port, .aclr port], Traps i s 0x0E (nat64 n))
      ∧ (st.handles → Unbound s (.output n) → Traps (.prd d port) s 0x0E (nat64 n))
      ∧ (st.scout = false →
          -- PWR: a doubleword appended, or the token sent
          (∀ region link r, BoundTo s (.input n) region link r → p.assembly.length < 63 →
              ∃ t, exec (.pwr a port) s = .next t ∧ Quiet s t
                ∧ (t.core st.core).port n = { p with assembly := p.assembly ++ [st.g a] })
            ∧ (63 ≤ p.assembly.length → Sends (.pwr a port) s a n false)
            ∧ Sends (.pwrS a port) s a n false ∧ Sends (.pwrSl a port) s a n true
            ∧ (Away s (.input n) → ∀ tag, CanSuspend s tag → ∀ i ∈ [Instr.pwr a port, .pwrS a port, .pwrSl a port],
                ∃ t, exec i s = .next t ∧ Retried s t tag (.portRoom n))
            -- ACLR: the assembly buffer emptied, PWR's hold of the port released
            ∧ (∀ region link r, BoundTo s (.input n) region link r →
                ∃ t, exec (.aclr port) s = .next t ∧ Quiet s t ∧ (t.core st.core).port n
                  = { p with assembly := [], feeder := if p.feeder = some .pwr then none else p.feeder })
            ∧ (Away s (.input n) → ∃ t, exec (.aclr port) s = .next t ∧ Quiet s t)
            -- PRD: the descriptor, then the data doublewords; the head goes with its last
            ∧ (∀ region link r tok, BoundTo s (.output n) region link r → NoneWaits s n → (r.link link).head = some tok →
                let last := decide (tok.dwords ≤ p.readPos)
                ∃ t, exec (.prd d port) s = .next t
                  ∧ Gives s t d (if p.readPos = 0
                      then nat64 (tok.dwords * 2 ^ 48 + (tok.lanes.filter Lane.ok).length * 2 ^ 32 + tok.header)
                      else nat64 (tok.data / 2 ^ (64 * (p.readPos - 1)) % 2 ^ 64))
                  ∧ (t.core st.core).port n = { p with readPos := if last then 0 else p.readPos + 1 }
                  ∧ (t.core st.core).regions.get? region
                      = some (if last then (r.setLink link (r.link link).pop).squash else r))
            ∧ (∀ region link r, BoundTo s (.output n) region link r → NoneWaits s n → (r.link link).queue = [] →
                (r.link link).closed = true → Computed (.prd d port) s d 0x04008017)
            ∧ (∀ tag, CanSuspend s tag →
                Away s (.output n) ∨ (∃ region link r, BoundTo s (.output n) region link r
                  ∧ (¬NoneWaits s n ∨ (r.link link).queue = [] ∧ (r.link link).closed = false)) →
                ∃ t, exec (.prd d port) s = .next t ∧ Suspended s t d tag (.portToken n) .nothing))

namespace Sys2Proof.Machine

/-- The engines hold no request, the core no store and no pre-emption of the context: a request of the strand is taken at once. -/
def EnginesIdle (s : State) : Prop :=
  s.me.scout = false ∧ s.meKey = keyOf s.me.core s.me.sid ∧ s.firn.reqs = [] ∧ (s.core s.me.core).cb = []
    ∧ s.stopped s.me.core s.me.ctx = false

/-- A long-latency form: its strand suspended under a tag, the answer on its way (R122, R124). -/
def AnswersLong (i : Instr) (s : State) (d : BitVec 5) (v : Dword) (effect : State → Prop) : Prop :=
  ∀ tag, CanSuspend s tag → ∃ t, exec i s = .next t ∧ t.me = { s.me.retire with place := .recorded }
    ∧ (∃ r, t.records.get? s.meKey = some r ∧ r.dest = d ∧ r.tag = tag ∧ r.space = 2 ∧ r.ready = false ∧ r.act = .acquire 2)
    ∧ t.completions = s.completions ++ [{ core := s.me.core, sid := s.me.sid, space := 2, tag := tag, value := v }]
    ∧ t.firn.reqs = [] ∧ effect t

/-- A posted form: its tag in g(d) and in the window, newest first, with its response where there is one (R123, R124, R152). -/
def AnswersPosted (i : Instr) (s : State) (d : BitVec 5) (w : Option Dword) (effect : State → Prop) : Prop :=
  ∃ t, exec i s = .next t ∧ t.me.g d = (if d = 0 then 0 else nat64 s.me.tagCtr.toNat) ∧ s.me.regsBut t.me d ∧ s.me.dirties t.me d
    ∧ s.me.advances t.me ∧ t.me.tagCtr = s.me.tagCtr + 1
    ∧ t.me.window.head? = some { tag := s.me.tagCtr, resp := w, command := false } ∧ (∀ k, k ≠ s.meKey → t.strand k = s.strand k)
    ∧ t.records = s.records ∧ t.firn.reqs = [] ∧ effect t

/-- The value that tells a refusal in g(d) (R125). -/
def refusal (code : Nat) : Dword := nat64 (code * 2 ^ 40 + (2 ^ 40 - 1))

/-- A cursor of the strand's context, no play in progress (R109). -/
def CursorAt (s : State) (g : Dword) (c : Cursor) : Prop :=
  s.firn.cursors.get? g.toNat = some c ∧ c.ctx = s.me.ctx ∧ c.play = none

/-- No cursor of the context. -/
def NoCursor (s : State) (g : Dword) : Prop := ∀ c, s.firn.cursors.get? g.toNat = some c → c.ctx ≠ s.me.ctx ∧ c.play = none

/-- A handle names a record in use of a store of a context (R105). -/
def Names (s : State) (ctx : Nat) (h : Dword) : Prop :=
  ∃ st, s.firn.stores.get? (h.toNat / 2 ^ 48) = some st ∧ st.ctx = ctx ∧ h.toNat % 2 ^ 40 < st.capacity
    ∧ h.toNat % 2 ^ 40 < st.high ∧ h.toNat % 2 ^ 40 ∉ st.free ∧ (st.gen (h.toNat % 2 ^ 40)).toNat % 256 = h.toNat / 2 ^ 40 % 256

/-- An episode id names a live episode of the strand's context: its store and its record's slot (R106). -/
def EpisodeAt (s : State) (e : Dword) (st : Store) (slot : Nat) : Prop :=
  s.firn.stores.get? (e.toNat / 2 ^ 48) = some st ∧ st.ctx = s.me.ctx ∧ e.toNat / 2 ^ 32 % 2 ^ 16 = 0
    ∧ st.live.get? (e.toNat % 2 ^ 32) = some slot

/-- Cursors as given, all else of the engines, and memory, as before. -/
def CursorsOnly (s : State) (cs : Tbl Cursor) (t : State) : Prop :=
  t.firn.cursors = cs ∧ t.firn.stores = s.firn.stores ∧ t.gen = s.gen ∧ t.mem = s.mem

/-- Reserved bits of a cursor's configuration (R108). -/
def ReservedCfg (w : Dword) : Prop :=
  w.toNat / 2 ^ 48 ≠ 0 ∨ w.toNat / 2 ^ 20 % 16 ≠ 0 ∨ w.toNat / 2 ^ 10 % 32 ≠ 0 ∨ w.toNat % 2 ^ 8 ≠ 0

end Sys2Proof.Machine

/-- R125 to R127, R134 to R137, R139, R141, R142: the forms that work on cursors, at engines with nothing else to do. Model's choices it rests on: assumption log 10, 79. -/
def Obligations.CursorFormEffects : Prop :=
  ∀ (s : State) (d a b : BitVec 5), EnginesIdle s →
    let x := s.me.g a
    let y := s.me.g b
    let cs := s.firn.cursors
    let same := CursorsOnly s cs
    -- ECUR
    (∀ st slot, EpisodeAt s x st slot → ∀ c, s.cursorId (x.toNat % 2 ^ 32 % 16) = some c →
        (y.toNat < 2 ^ 56 → y.toNat % 32 = 0 → AnswersLong (.ecur d a b) s d (nat64 c) (CursorsOnly s (cs.set c
            { ctx := s.me.ctx, dest := y, owner := s.me.core,
              pos := nat64 (x.toNat / 2 ^ 48 * 2 ^ 48 + (st.gen slot).toNat % 256 * 2 ^ 40 + slot) })))
          ∧ (2 ^ 56 ≤ y.toNat ∨ y.toNat % 32 ≠ 0 → AnswersLong (.ecur d a b) s d (refusal 0x8B) same))
      -- ESEEK
      ∧ (∀ c, CursorAt s x c → Names s s.me.ctx y →
          AnswersPosted (.eseek d a b) s d (some 0) (CursorsOnly s (cs.set x.toNat { c with pos := y, armed := true, e := false })))
      -- ECFG: a port target, a target VA, a refusal
      ∧ (∀ c, CursorAt s x c →
          (¬ReservedCfg y → y.toNat.testBit 15 = true → AnswersPosted (.ecfg d a b) s d (some 0) (CursorsOnly s
              (cs.set x.toNat { c with cfg := y, dest := nat64 (y.toNat / 2 ^ 16 % 16), owner := s.me.core })))
            ∧ (¬ReservedCfg y → y.toNat.testBit 15 = false → (s.me.g d).toNat < 2 ^ 56 → (s.me.g d).toNat % 32 = 0 →
                AnswersPosted (.ecfg d a b) s d (some 0) (CursorsOnly s
                  (cs.set x.toNat { c with cfg := y, dest := s.me.g d, off := 0, owner := s.me.core })))
            ∧ (ReservedCfg y ∨ y.toNat.testBit 15 = false ∧ (2 ^ 56 ≤ (s.me.g d).toNat ∨ (s.me.g d).toNat % 32 ≠ 0) →
                AnswersPosted (.ecfg d a b) s d (some 0x8B) same))
      -- EPLAY: begun, with no response yet; a count of 0 at once; refusals
      ∧ (∀ c, CursorAt s x c →
          (Names s c.ctx c.pos → 0 < y.toNat → y.toNat < 2 ^ 32 → AnswersPosted (.eplay d a b) s d none (CursorsOnly s
              (cs.set x.toNat { c with play := some { asker := .posted s.me.core s.me.sid s.me.tagCtr, task := s.me.task, n := y.toNat, cur := c.pos, armed := c.armed, last := c.pos } })))
            ∧ (Names s c.ctx c.pos → y = 0 → AnswersPosted (.eplay d a b) s d (some 0) same)
            ∧ (Names s c.ctx c.pos → 2 ^ 32 ≤ y.toNat → AnswersPosted (.eplay d a b) s d (some 0x8C) same)
            ∧ (¬Names s c.ctx c.pos → AnswersPosted (.eplay d a b) s d (some 0x8A) same))
      -- ECOPY
      ∧ (∀ c, CursorAt s x c →
          (∀ m, s.cursorId (x.toNat % 16) = some m →
              (Names s c.ctx c.pos → AnswersPosted (.ecopy d a) s d (some (nat64 (m * 2 ^ 8))) (CursorsOnly s (cs.set m c)))
                ∧ (¬Names s c.ctx c.pos → AnswersPosted (.ecopy d a) s d (some 0x8A) same))
            ∧ (s.cursorId (x.toNat % 16) = none → AnswersPosted (.ecopy d a) s d (some 0x82) same))
      -- EPOS
      ∧ (∀ c, CursorAt s x c →
          (y.toNat % 8 = 0 → AnswersLong (.epos d a b) s d c.pos same)
            ∧ (y.toNat % 8 = 1 → ¬Names s c.ctx c.pos →
                AnswersLong (.epos d a b) s d (nat64 (0xF00 + 4 * c.e.toNat + 2 * c.armed.toNat)) same)
            ∧ (y.toNat % 8 = 2 → AnswersLong (.epos d a b) s d c.cfg same)
            ∧ (y.toNat % 8 = 3 → AnswersLong (.epos d a b) s d c.dest same)
            ∧ (y.toNat % 8 = 4 → AnswersLong (.epos d a b) s d (nat64 c.off) same)
            ∧ (4 < y.toNat % 8 → AnswersLong (.epos d a b) s d 0 same))
      -- EFREE of a cursor, of a store without episodes, of a kind there is not
      ∧ (∀ c, CursorAt s x c → y = 0 → AnswersPosted (.efree d a b) s d (some 0) (CursorsOnly s (cs.erase x.toNat)))
      ∧ (∀ st, y = 2 → x.toNat < 2 ^ 16 → s.firn.stores.get? x.toNat = some st → st.ctx = s.me.ctx →
          (st.live = [] → AnswersPosted (.efree d a b) s d (some 0) fun t =>
              t.firn.stores = s.firn.stores.erase x.toNat ∧ t.firn.cursors = cs ∧ t.mem = s.mem)
            ∧ (st.live ≠ [] → AnswersPosted (.efree d a b) s d (some 0x89) same))
      ∧ (2 < y.toNat → AnswersPosted (.efree d a b) s d (some 0x8C) same)
      -- a cursor that is none of the context's
      ∧ (NoCursor s x → AnswersPosted (.ecfg d a b) s d (some 0x906) same ∧ AnswersPosted (.eplay d a b) s d (some 0x906) same
          ∧ AnswersPosted (.ecopy d a) s d (some 0x906) same ∧ (y = 0 → AnswersPosted (.efree d a b) s d (some 0x906) same))

namespace Sys2Proof.Machine

/-- A posted form that needs no engine: its tag in g(d) and in the window with its response (R123, R152). -/
def PostsNow (i : Instr) (s : State) (d : BitVec 5) (w : Dword) (effect : State → Prop) : Prop :=
  ∃ t, exec i s = .next t ∧ t.me.g d = (if d = 0 then 0 else nat64 s.me.tagCtr.toNat) ∧ s.me.regsBut t.me d ∧ s.me.dirties t.me d
    ∧ s.me.advances t.me ∧ t.me.tagCtr = s.me.tagCtr + 1
    ∧ t.me.window.head? = some { tag := s.me.tagCtr, resp := some w, command := false } ∧ (∀ k, k ≠ s.meKey → t.strand k = s.strand k)
    ∧ t.records = s.records ∧ effect t

/-- A grammar context of the strand's context (R308). -/
def GramAt (s : State) (x : Dword) (g : Gram) : Prop := s.gen.grams.get? x.toNat = some g ∧ g.ctx = s.me.ctx

/-- A snapshot that a handle names: generation and index (R309). -/
def SnapAt (s : State) (h : Dword) (x : Snap) : Prop :=
  s.gen.snaps.get? (h.toNat % 2 ^ 16) = some x ∧ x.ctx = s.me.ctx
    ∧ h.toNat = s.gen.snapGens.getD (h.toNat % 2 ^ 16) 0 % 256 * 2 ^ 16 + h.toNat % 2 ^ 16

/-- Grammar contexts as given, snapshots, engines and memory as before. -/
def GramsOnly (s : State) (gs : Tbl Gram) (t : State) : Prop :=
  t.gen = { s.gen with grams := gs } ∧ t.firn.stores = s.firn.stores ∧ t.firn.cursors = s.firn.cursors ∧ t.mem = s.mem

/-- No symbol popped or pushed (R306). -/
abbrev none16 : Nat := 0xFFFF

/-- A transition taken (R307): pop, then push 1, then push 2; the stack's top first. -/
def Steps (g g1 : Gram) (x : Transition) : Prop :=
  let rest := if x.pop = none16 then g.stack else g.stack.tail
  let one := if x.push1 = none16 then rest else x.push1 :: rest
  let two := if x.push2 = none16 then one else x.push2 :: one
  g1 = { g with state := x.next, position := g.position + 1, stack := two }

/-- A held entry of a key (R302, R304). -/
abbrev HeldOf (e : HoldEntry) (key : Dword) : Prop :=
  e.domain = key.toNat / 2 ^ 32 % 256 ∧ e.seq = key.toNat % 2 ^ 32 ∧ e.released = false

/-- R306 to R311: the GRAM forms, at units with nothing else to do. -/
def grammarFormEffects : Prop :=
  ∀ (s : State) (d a b : BitVec 5), EnginesIdle s →
    let x := s.me.g a
    let y := s.me.g b
    let ctx := s.me.ctx
    let gs := s.gen.grams
    let same := GramsOnly s gs
    let die := dieOf s.me.core
    -- GINIT
    (x.toNat % 64 ≠ 0 → AnswersPosted (.ginit d a) s d (some 0x99) same)
      ∧ (∀ h, x.toNat % 64 = 0 → s.gramHdr ctx x.toNat = .ok h →
          (∀ i, s.freeGram die = some i → AnswersPosted (.ginit d a) s d (some (nat64 (i * 2 ^ 8)))
              (GramsOnly s (gs.set i { ctx := ctx, image := x, state := h.start })))
            ∧ (s.freeGram die = none → AnswersPosted (.ginit d a) s d (some 0x96) same))
      -- GSTEP: the transition on a token taken, or why it is not
      ∧ (∀ g h r, GramAt s x g → g.broken = false → s.gramHdr ctx g.image.toNat = .ok h →
          (h.v ≤ y.toNat → AnswersLong (.gstep d a b) s d (refusal 0x93) same)
            ∧ (y.toNat < h.v → s.gramState ctx h g.state = .ok r →
                (s.findTrans ctx h y.toNat 33 r.first (r.first + r.count) = .error (.reject 0x90) →
                    AnswersLong (.gstep d a b) s d (refusal 0x90) same)
                  ∧ (∀ i tr l g1, s.findTrans ctx h y.toNat 33 r.first (r.first + r.count) = .ok (i, tr) → s.gramChecks ctx h r = .ok l →
                      (tr.pop = none16 ∧ tr.push1 = none16 ∧ tr.push2 = none16) ∨ i ∈ l → Steps g g1 tr →
                      (tr.pop ≠ none16 → g.stack.head? ≠ some tr.pop → AnswersLong (.gstep d a b) s d (refusal 0x91) same)
                        ∧ ((tr.pop = none16 ∨ g.stack.head? = some tr.pop) → 256 < g1.stack.length →
                            AnswersLong (.gstep d a b) s d (refusal 0x92) same)
                        ∧ ((tr.pop = none16 ∨ g.stack.head? = some tr.pop) → g1.stack.length ≤ 256 →
                            AnswersLong (.gstep d a b) s d (nat64 (g1.stack.length * 2 ^ 16 + tr.next)) (GramsOnly s (gs.set x.toNat g1))))))
      -- GMASK: to memory; to a port that is bound, with no response yet; to one that is not
      ∧ (∀ g m v ps, GramAt s x g → s.gramMask g = .ok (m, v) → s.rimes = [] → y.toNat.testBit 63 = false → y.toNat % 512 = 0 →
          s.engineRange ctx y.toNat (ceilDiv v 4096 * 512) .write = .ok ps →
          AnswersPosted (.gmask d a b) s d (some (nat64 (bitsSet m v * 2 ^ 8))) fun t =>
            t.gen = s.gen ∧ t.mem = (s.storePieces ps (leBytes (ceilDiv v 4096 * 512) m)).mem)
      ∧ (∀ g m v, GramAt s x g → s.gramMask g = .ok (m, v) → y.toNat / 16 = 2 ^ 59 →
          ((s.core s.me.core).binds ctx (.input (y.toNat % 16)) = true → AnswersPosted (.gmask d a b) s d none fun t =>
              same t ∧ ∃ f, (t.core s.me.core).feeds = (s.core s.me.core).feeds ++ [f] ∧ f.port = y.toNat % 16 ∧ f.tokens = maskTokens m v)
            ∧ ((s.core s.me.core).binds ctx (.input (y.toNat % 16)) = false → AnswersPosted (.gmask d a b) s d (some 0x2006) same))
      -- GFORK, GSNAP, GROLL, GFREE
      ∧ (∀ g, GramAt s x g → g.broken = false →
          (∀ j, s.freeGram die = some j → AnswersLong (.gfork d a) s d (nat64 j) (GramsOnly s (gs.set j g)))
            ∧ (s.freeGram die = none → AnswersLong (.gfork d a) s d (refusal 0x96) same)
            ∧ (∀ i, lowestFreeFrom s.gen.snaps 0 (min 65536 (s.gen.snaps.length + 1)) 0 = some i →
                AnswersLong (.gsnap d a) s d (nat64 (s.gen.snapGens.getD i 0 % 256 * 2 ^ 16 + i)) fun t => t.mem = s.mem
                  ∧ t.gen = { s.gen with snaps := s.gen.snaps.set i ⟨g.ctx, g.image, g.state, g.stack, g.position⟩ }))
      ∧ (∀ g z, GramAt s x g → SnapAt s y z →
          (z.image = g.image → AnswersPosted (.groll d a b) s d (some 0)
              (GramsOnly s (gs.set x.toNat { g with state := z.state, stack := z.stack, position := z.position })))
            ∧ (z.image ≠ g.image → AnswersPosted (.groll d a b) s d (some 0x97) same))
      ∧ (∀ g, GramAt s x g → y = 0 → AnswersPosted (.gfree d a b) s d (some 0) (GramsOnly s (gs.erase x.toNat)))
      ∧ (∀ z, y = 1 → SnapAt s x z → AnswersPosted (.gfree d a b) s d (some 0) fun t => t.mem = s.mem
          ∧ t.gen = { s.gen with snaps := s.gen.snaps.erase (x.toNat % 2 ^ 16), snapGens := s.gen.snapGens.set (x.toNat % 2 ^ 16) (s.gen.snapGens.getD (x.toNat % 2 ^ 16) 0 + 1) })
      ∧ (1 < y.toNat → AnswersPosted (.gfree d a b) s d (some 0x8C) same)
      -- an id that is none of the context's
      ∧ ((∀ g, s.gen.grams.get? x.toNat = some g → g.ctx ≠ ctx) →
          AnswersLong (.gstep d a b) s d (refusal 0x94) same ∧ AnswersLong (.gfork d a) s d (refusal 0x94) same
            ∧ AnswersLong (.gsnap d a) s d (refusal 0x94) same ∧ AnswersPosted (.gmask d a b) s d (some 0x94) same
            ∧ AnswersPosted (.groll d a b) s d (some 0x94) same ∧ (y = 0 → AnswersPosted (.gfree d a b) s d (some 0x94) same))

/-- R302 to R305: HREL, HDROP and HPEEK on the hold queue of a key. -/
def holdFormEffects : Prop :=
  ∀ (s : State) (d a b : BitVec 5), s.me.scout = false → s.meKey = keyOf s.me.core s.me.sid →
    let key := s.me.g a
    let p := (s.me.g b).toNat
    let q := s.gen.hold
    let forms := [Instr.hrel d a b, .hdrop d a b, .hpeek d a b]
    let same (t : State) : Prop := t.gen = s.gen ∧ t.mem = s.mem
    (2 ^ 40 ≤ key.toNat → ∀ i ∈ forms, PostsNow i s d 0xA4 same)
      ∧ (key.toNat < 2 ^ 40 → (∀ x, s.gen.domains.get? (key.toNat / 2 ^ 32) = some x → x.configured = false) →
          ∀ i ∈ forms, PostsNow i s d 0xA1 same)
      ∧ (∀ x, key.toNat < 2 ^ 40 → s.gen.domains.get? (key.toNat / 2 ^ 32) = some x → x.configured = true →
          (x.checker ≠ s.me.ctx → ∀ i ∈ forms, PostsNow i s d 0xA0 same)
            ∧ (x.checker = s.me.ctx →
                -- the held entries of the key at or below p go to the released, those at or above it out of the queue
                (PostsNow (.hrel d a b) s d (nat64 ((q.filter fun e => decide (HeldOf e key ∧ e.position ≤ p)).length * 2 ^ 8)) (fun t => t.mem = s.mem ∧ t.gen.hold.length = q.length ∧
                    ∀ (j : Nat) (e e' : HoldEntry), q[j]? = some e → t.gen.hold[j]? = some e' →
                      (HeldOf e key ∧ e.position ≤ p → e' = { e with released := true }) ∧ (¬(HeldOf e key ∧ e.position ≤ p) → e' = e)))
                  ∧ PostsNow (.hdrop d a b) s d (nat64 ((q.filter fun e => decide (HeldOf e key ∧ p ≤ e.position)).length * 2 ^ 8)) (fun t => t.mem = s.mem
                      ∧ (∀ e, e ∈ t.gen.hold ↔ e ∈ q ∧ ¬(HeldOf e key ∧ p ≤ e.position))
                      ∧ t.gen.nextPosition (key.toNat / 2 ^ 32) (key.toNat % 2 ^ 32) = min p (s.gen.nextPosition (key.toNat / 2 ^ 32) (key.toNat % 2 ^ 32)))
                  ∧ ((∀ e ∈ q, HeldOf e key → p ≠ 2 ^ 64 - 1 ∧ e.position ≠ p) → PostsNow (.hpeek d a b) s d 0xA2 same)
                  ∧ (∀ e ∈ q, HeldOf e key → p = e.position → p ≠ 2 ^ 64 - 1 → (∀ e' ∈ q, HeldOf e' key → e'.position = p → e' = e) →
                      PostsNow (.hpeek d a b) s d (nat64 (p * 2 ^ 32 + e.token * 2 ^ 14)) same)
                  ∧ (∀ e ∈ q, HeldOf e key → p = 2 ^ 64 - 1 → (∀ e' ∈ q, HeldOf e' key → e' ≠ e → e.position < e'.position) →
                      PostsNow (.hpeek d a b) s d (nat64 (e.position * 2 ^ 32 + e.token * 2 ^ 14)) same)))

/-- R289, R304, R305: ITER, its descriptor sound and its areas mapped, suspends its strand; the iteration runs at once where the core
has none, its start token on its way, and waits behind one that runs. -/
def iterationIssue : Prop :=
  ∀ (s : State) (d a : BitVec 5) (ds ps : List Dword) (tag : BitVec 16),
    let core := s.me.core
    let ctx := s.me.ctx
    let va := s.me.g a
    let w := (ds.getD 0 0).toNat
    let n := w / 2 ^ 32 % 2 ^ 16
    let c := s.core core
    (s.me.scout = true → Computed (.iter d a) s d (refusal 0x8F))
      ∧ (s.me.handles → va.toNat % 64 ≠ 0 → Traps (.iter d a) s 0x02 va)
      ∧ (s.me.scout = false → va.toNat % 64 = 0 → s.viewDwords core ctx va.toNat 8 = .ok ds →
          (w / 2 ^ 48 ≠ 0 ∨ n = 0 ∨ 1024 < n ∨ ds.getD 6 0 ≠ 0 → Computed (.iter d a) s d (refusal 0xA3))
            ∧ (s.descOk core ctx ds = true →
                s.areasFault ctx [(ds.getD 1 0, 64 * n, .write), (ds.getD 2 0, 64 + 64 * n, .write), (ds.getD 4 0, 512, .read)] = none →
                s.viewDwords core ctx (ds.getD 4 0).toNat 64 = .ok ps → CanSuspend s tag → c.cb = [] → s.stopped core ctx = false →
                (c.iters = [] → ∃ t it, exec (.iter d a) s = .next t ∧ Suspended s t d tag .completion (.acquire 2)
                    ∧ (t.core core).iters = [it] ∧ it.phase = .rows ∧ it.n = n ∧ it.seqs.length = n ∧ it.rowPort = w / 16 % 16
                    ∧ it.table = ds.getD 1 0 ∧ it.area = ds.getD 2 0 ∧ it.iteration = ds.getD 3 0 ∧ it.tag = tag ∧ it.sid = s.me.sid
                    ∧ ∃ f, (t.core core).feeds = c.feeds ++ [f] ∧ f.port = w % 16 ∧ f.for_ = .start
                      ∧ f.tokens = [{ kind := .control, fmt := 7, last := true, lanes := [⟨ds.getD 3 0, true⟩, ⟨va, true⟩] }])
                  ∧ (∀ x rest, c.iters = x :: rest → x.entered = true → x.phase = .rows → s.stopped core x.ctx = false →
                      ∃ t it, exec (.iter d a) s = .next t ∧ Suspended s t d tag .completion (.acquire 2)
                        ∧ (t.core core).iters = x :: rest ++ [it] ∧ it.phase = .waiting ∧ (t.core core).feeds = c.feeds)))

end Sys2Proof.Machine

/-- R289, R302 to R311: the GRAM forms at units with nothing else to do, the hold queue's forms, and the issue of an iteration. Model's choices it rests on: assumption log 39, 63, 65, 79. -/
def Obligations.GenerationFormEffects : Prop :=
  grammarFormEffects ∧ holdFormEffects ∧ iterationIssue

namespace Sys2Proof.Machine

/-- A store descriptor that R99 does not refuse, duplicates apart. -/
def SoundStore (ds : List Dword) : Prop :=
  let base := (ds.getD 0 0).toNat
  let w1 := (ds.getD 1 0).toNat
  let k := w1 % 2 ^ 5
  let cap := (ds.getD 2 0).toNat
  6 ≤ k ∧ k ≤ 16 ∧ base % 2 ^ k = 0 ∧ 2 ≤ cap ∧ cap ≤ 2 ^ 40 - 1 ∧ base + cap * 2 ^ k ≤ 2 ^ 56 ∧ w1 / 2 ^ 8 % 2 ^ 8 ≤ 0xF
    ∧ w1 / 2 ^ 32 = 0 ∧ w1 / 2 ^ 5 % 8 = 0 ∧ ∀ w ∈ ds.drop 3, w = 0

/-- The slot a store gives next, and the store without it (R100). -/
def NextSlot (st st1 : Store) (slot : Nat) : Prop :=
  match st.free with
  | f :: fs => slot = f ∧ st1 = { st with free := fs }
  | [] => st.high < st.capacity ∧ slot = st.high ∧ st1 = { st with high := st.high + 1 }

/-- The 2^k bytes of a new episode's head record (R102, R104, R132). -/
def headBytes (st : Store) (slot e : Nat) : List Byte :=
  let none_ : Dword := nat64 (2 ^ 40 - 1)
  let words : List Dword :=
    [none_, none_, nat64 e, nat64 ((st.gen slot).toNat * 2 ^ 48 + 2 ^ 12 + 2 ^ 8), nat64 slot, 1, nat64 (2 ^ 32 - 1), 0]
  words.flatMap (fun w => leBytes 8 w.toNat) ++ List.replicate (2 ^ st.k - 64) 0

/-- A request of the strand waits at the engines for its own step there (R107, R114, R115, R117). -/
def WaitsAtEngine (s t : State) (op : EpOp) : Prop :=
  ∃ r, t.firn.reqs = [r] ∧ r.op = op ∧ r.ctx = s.me.ctx ∧ r.core = s.me.core ∧ r.task = s.me.task ∧ t.firn.stores = s.firn.stores
    ∧ t.firn.cursors = s.firn.cursors ∧ t.mem = s.mem

/-- A posted form whose request waits at its engine. -/
def QueuesPosted (i : Instr) (s : State) (d : BitVec 5) (op : EpOp) : Prop :=
  ∃ t, exec i s = .next t ∧ t.me.g d = (if d = 0 then 0 else nat64 s.me.tagCtr.toNat) ∧ s.me.regsBut t.me d ∧ s.me.dirties t.me d
    ∧ s.me.advances t.me ∧ t.me.tagCtr = s.me.tagCtr + 1
    ∧ t.me.window.head? = some { tag := s.me.tagCtr, resp := none, command := false } ∧ (∀ k, k ≠ s.meKey → t.strand k = s.strand k)
    ∧ t.records = s.records ∧ WaitsAtEngine s t op

end Sys2Proof.Machine

/-- R99, R100, R131 to R133, R138, R140: registering a store, a new episode's head, and the requests that wait for their step at an
engine. Model's choices it rests on: assumption log 10, 42. -/
def Obligations.EpisodeRecordForms : Prop :=
  ∀ (s : State) (d a b : BitVec 5),
    let x := s.me.g a
    let y := s.me.g b
    -- EREG whose descriptor its core holds
    (s.me.handles → (x.toNat % 64 ≠ 0 → Traps (.ereg d a) s 0x02 x)
        ∧ ∀ c, x.toNat % 64 = 0 → s.xlat s.me x .read = .fault c → Traps (.ereg d a) s (BitVec.ofNat 8 c) x)
      ∧ (∀ pa ds, s.me.scout = false → x.toNat % 64 = 0 → s.xlat s.me x .read = .hit pa → isHost pa = false → pa % 64 = 0 → ds.length = 8 →
          (∀ i, i < 8 → (s.core s.me.core).holds (pa / 128) (pa % 128 + 8 * i) 8 (ds.getD i 0).toNat) →
          let id := (ds.getD 1 0).toNat / 2 ^ 16 % 2 ^ 16
          (¬SoundStore ds → Computed (.ereg d a) s d (refusal 0x84))
            ∧ (SoundStore ds → (s.firn.stores.get? id).isSome = true → Computed (.ereg d a) s d (refusal 0x85))
            ∧ (SoundStore ds → s.firn.stores.get? id = none → ∃ t st, exec (.ereg d a) s = .next t ∧ Gives s t d (nat64 id)
                ∧ t.firn.stores = s.firn.stores.set id st ∧ st.ctx = s.me.ctx ∧ st.base = ds.getD 0 0
                ∧ st.capacity = (ds.getD 2 0).toNat ∧ st.k = (ds.getD 1 0).toNat % 2 ^ 5
                ∧ st.fmt.toNat = (ds.getD 1 0).toNat / 2 ^ 8 % 2 ^ 4 ∧ st.free = [] ∧ st.high = 0 ∧ st.counter = 1 ∧ st.live = []))
      -- ENEW in a store of the context
      ∧ (∀ st, EnginesIdle s → s.rimes = [] → x.toNat < 2 ^ 16 → s.firn.stores.get? x.toNat = some st → st.ctx = s.me.ctx → 6 ≤ st.k →
          (∀ st1 slot e ps, NextSlot st st1 slot → st.number = some e →
              s.engineRange s.me.ctx (st.base.toNat + slot * 2 ^ st.k) (2 ^ st.k) .write = .ok ps →
              AnswersLong (.enew d a) s d (nat64 (x.toNat * 2 ^ 48 + e)) fun t =>
                t.firn.stores = s.firn.stores.set x.toNat { st1 with counter := (e + 1) % 2 ^ 32, live := st1.live.set e slot }
                  ∧ t.firn.cursors = s.firn.cursors ∧ t.mem = (s.storePieces ps (headBytes st slot e)).mem)
            ∧ (st.free = [] → st.capacity ≤ st.high → AnswersLong (.enew d a) s d (refusal 0x80) (CursorsOnly s s.firn.cursors)))
      -- the forms with a step of their own at an engine
      ∧ (s.me.handles → y.toNat % 8 ≠ 0 → Traps (.eapp d a b) s 0x02 (nat64 (y.toNat % 2 ^ 56)))
      ∧ (EnginesIdle s → y.toNat % 8 = 0 → ∀ tag, CanSuspend s tag → ∃ t, exec (.eapp d a b) s = .next t
          ∧ Suspended s t d tag .completion (.acquire 2)
          ∧ WaitsAtEngine s t (.append x (nat64 (y.toNat % 2 ^ 56)) (y.toNat / 2 ^ 56)))
      ∧ (EnginesIdle s → QueuesPosted (.esplice d a b) s d (.splice x y) ∧ QueuesPosted (.ecalve d a b) s d (.calve x y)
          ∧ QueuesPosted (.ebranch d a) s d (.branch x))
      -- a scout drops every form
      ∧ (s.me.scout = true → ∀ i ∈ [Instr.ereg d a, .enew d a, .eapp d a b, .ecur d a b, .eseek d a b, .ecfg d a b, .eplay d a b,
            .ebranch d a, .ecopy d a, .esplice d a b, .ecalve d a b, .epos d a b, .efree d a b, .ginit d a, .gstep d a b,
            .gmask d a b, .gfork d a, .gsnap d a, .groll d a b, .gfree d a b, .hrel d a b, .hdrop d a b, .hpeek d a b],
          Computed i s d (refusal 0x8F))

namespace Sys2Proof.Machine

/-- The unit u takes the step, in region r, and no direct link reaches its cell. -/
def UnitTurn (s : State) (u : UnitAt) (r : Region) : Prop :=
  s.actor = .unit u.core u.region u.cell u.router ∧ s.region u.core u.region = some r
    ∧ ∀ l ∈ r.links, l.slots = 0 → ∀ c, l.cons = some c → c.cell ≠ u.cell

/-- Region r after a firing of u: heads of inputs consumed, the unit's state kept, a token placed on each output (R226). -/
def firedRegion (r : Region) (u : UnitAt) (e : EWord) (ins : List (BitVec 8)) (st : UnitState) (o0 o1 : Option Token) : Region :=
  let r1 := ins.foldl Region.take r
  ((r1.setCell u.cell ((r1.cell u.cell).setUnitState u.router st)).placeAt e.o0 o0).placeAt e.o1 o1

/-- Every output that the firing writes may be written (R226, R227, R229). -/
def outputsFree (r : Region) (e : EWord) (o0 o1 : Option Token) : Prop :=
  (o0.isSome = true → r.mayWriteAt e.o0 = true) ∧ (o1.isSome = true → r.mayWriteAt e.o1 = true)

/-- The instruction completes as this firing of its unit where its outputs are free; where they are not, it changes nothing. -/
def FiresIn (i : Instr) (s : State) (u : UnitAt) (r : Region) (e : EWord) (ins : List (BitVec 8)) (st : UnitState)
    (o0 o1 : Option Token) : Prop :=
  (outputsFree r e o0 o1 → exec i s = .next (s.setRegion u.core u.region (firedRegion r u e ins st o0 o1)))
    ∧ (¬outputsFree r e o0 o1 → exec i s = .next s)

/-- Every input of a word; B is none where the constant stands for it. -/
def allInputs (e : EWord) : List (BitVec 8) := [e.a, if e.k then 0xFF else e.b, e.c]

/-- The firing of a unit that keeps no state, consumes every connected input and writes output 0. -/
def Emits (i : Instr) (s : State) (u : UnitAt) (r : Region) (e : EWord) (t : Token) : Prop :=
  FiresIn i s u r e (allInputs e) .idle (some t) none

/-- Without a token it needs, the unit changes nothing. -/
def Waits (i : Instr) (s : State) : Prop := exec i s = .next s

/-- A slot's queue without its first piece (R228). -/
def poppedQueue (q : List (List Token)) : List (List Token) :=
  match q with
  | [_] :: rest => rest
  | (_ :: ps) :: rest => ps :: rest
  | _ => q

/-- What a token adds to link j where it is written to output field f: a slot of its pieces, on the link itself and on every
attached branch of its multicast (R229). -/
def placedOn (r : Region) (j : Nat) (f : BitVec 8) (t : Option Token) : List (List Token) :=
  match t with
  | none => []
  | some t =>
    if f ≠ 0xFF ∧ (j = f.toNat ∨ (r.link j).root = some f.toNat) ∧ (r.link j).detached = false then [(r.link j).arrive t] else []

end Sys2Proof.Machine

/-- R226, R229: what a firing does to its region where no sequence is squashed. -/
def Obligations.FiringChangesItsLinks : Prop :=
  ∀ (r : Region) (u : UnitAt) (e : EWord) (ins : List (BitVec 8)) (st : UnitState) (o0 o1 : Option Token),
    r.mask = 0 → (∀ l ∈ r.links, [] ∉ l.queue) → (ins.filter (· ≠ 0xFF)).Nodup →
    let r' := firedRegion r u e ins st o0 o1
    r'.links.length = r.links.length
      ∧ (∀ j, j < r.links.length →
          r'.link j = { r.link j with
            queue := (if (∃ f ∈ ins, f ≠ 0xFF ∧ f.toNat = j) then poppedQueue (r.link j).queue else (r.link j).queue)
              ++ placedOn r j e.o0 o0 ++ placedOn r j e.o1 o1 })
      ∧ (r'.cell u.cell).unitState u.router = st
      ∧ (r'.cell u.cell).unitState (!u.router) = (r.cell u.cell).unitState (!u.router)
      ∧ (r'.cell u.cell).elem = (r.cell u.cell).elem ∧ (r'.cell u.cell).router = (r.cell u.cell).router
      ∧ (r'.cell u.cell).ag = (r.cell u.cell).ag
      ∧ (∀ c, c ≠ u.cell → r'.cell c = r.cell c)
      ∧ r' = { r with links := r'.links, cells := r'.cells, stalls := r'.stalls, quiet := r'.quiet }

/-- R228, R237: the pieces a token becomes on a link of another format, and the heads that squash discards. -/
def Obligations.LinkConversionAndSquash : Prop :=
  (∀ (dst : BitVec 4) (t : Token), t.kind ≠ .data → t.kind ≠ .void → convertToken dst t = [t])
    ∧ (∀ (t : Token), convertToken t.fmt t = [t])
    ∧ (∀ (dst : BitVec 4) (t : Token), (t.kind = .data ∨ t.kind = .void) → t.fmt ≠ dst → t.lanes ≠ [] →
        let ps := convertToken dst t
        let n := t.lanes.length
        ps.length = (n + laneCount dst - 1) / laneCount dst
          ∧ ps.flatMap (·.lanes) = t.lanes.map (convertLane t.fmt dst)
          ∧ (∀ i, i + 1 < ps.length → (ps.getD i closedMark).lanes.length = laneCount dst)
          ∧ (∀ i (p : Token), ps[i]? = some p →
              p = { t with fmt := dst, lanes := p.lanes, reset := t.reset && decide (i = 0), last := t.last && decide (i + 1 = ps.length) }))
    ∧ (∀ (r : Region) (j : Nat), (r.link j).scope = false → r.squash.link j = r.link j)
    ∧ (∀ (r : Region) (j : Nat), j < r.links.length → (r.link j).scope = true → (∀ q ∈ (r.link j).queue, q ≠ []) →
        (∀ t, (r.squash.link j).head = some t → r.mask.getLsbD t.iter = false)
          ∧ ∃ gone, (r.link j).queue = gone ++ (r.squash.link j).queue
              ∧ ∀ q ∈ gone, ∀ t, q.head? = some t → r.mask.getLsbD t.iter = true)

namespace Sys2Proof.Machine

/-- The token at input B, or the constant in every lane where K = 1 (R39). -/
def SecondInput (r : Region) (e : EWord) (b : Token) : Prop :=
  if e.k then b = { fmt := e.fmt, lanes := List.replicate (laneCount e.fmt) ⟨nat64 (e.konst.toNat % 2 ^ laneWidth e.fmt), true⟩ }
  else r.headAt e.b = some b

/-- The token of a lane-wise operation: the header of one input, the element's format, the lane count of R220. -/
def lanesToken (e : EWord) (hdr : Token) (counts : List Nat) (lane : Nat → Lane) : Token :=
  { hdr with fmt := e.fmt, lanes := (List.range (counts.foldl min (laneCount e.fmt))).map lane }

/-- A valid lane holding a code. -/
def codeLane (v : Nat) : Lane := ⟨nat64 v, true⟩

/-- Lane i, valid where lane i of every input is valid and present (R219). -/
def laneWhere (ts : List Token) (i : Nat) (v : Nat) : Lane := if ∀ t ∈ ts, t.ok i = true then codeLane v else ⟨0, false⟩

/-- An exact integer in the element's format (R51): clamped to its range, or reduced modulo 2^w. -/
def narrowed (e : EWord) (clamp : Bool) (x : Int) : Nat :=
  ((if clamp then max (fmtMin e.fmt) (min (fmtMax e.fmt) x) else x) % (2 ^ laneWidth e.fmt : Nat)).toNat

/-- A lane-wise integer operation of A and B, by its exact result (R248). -/
def IntegerLanes (i : Instr) (s : State) (u : UnitAt) (r : Region) (e : EWord) (clamp : Bool) (f : Int → Int → Int) (a b : Token) : Prop :=
  Emits i s u r e (lanesToken e a [a.count, b.count] fun n =>
    laneWhere [a, b] n (narrowed e clamp (f (laneInt e.fmt (a.val n)) (laneInt e.fmt (b.val n)))))

/-- A lane-wise operation of A and B on the unsigned w-bit codes of the lanes (R248, R249). -/
def CodeLanes (i : Instr) (s : State) (u : UnitAt) (r : Region) (e : EWord) (f : Nat → Nat → Nat) (a b : Token) : Prop :=
  let w := laneWidth e.fmt
  Emits i s u r e (lanesToken e a [a.count, b.count] fun n => laneWhere [a, b] n (f (a.val n % 2 ^ w) (b.val n % 2 ^ w)))

/-- The N format of a width, and I4 for I4 (R245). -/
def flagFormat (e : EWord) : BitVec 4 :=
  if e.fmt = 15 then 15 else if laneWidth e.fmt = 8 then 4 else if laneWidth e.fmt = 16 then 5 else if laneWidth e.fmt = 32 then 6 else 7

/-- The relation of R251. -/
def relates (code : Nat) (lt eq : Bool) : Bool :=
  match code with
  | 0 => eq
  | 1 => !eq
  | 2 => lt
  | 3 => lt || eq
  | 4 => !lt && !eq
  | _ => !lt

/-- The scan of R254 as the manual writes it: from acc and av, the output lanes and the state behind the token. -/
def scanRun (e : EWord) (flag : Nat → Bool) (a : Token) : Nat → Nat → Option Int → List Lane × Option Int
  | 0, _, acc => ([], acc)
  | n + 1, i, acc =>
    let op := e.aux.toNat % 4
    let identity : Int := if op = 0 then 0 else if op = 1 then fmtMin e.fmt else fmtMax e.fmt
    let prev := if flag i then some identity else acc
    let x := laneInt e.fmt (a.val i)
    let now := if a.ok i then prev.map (fun p => if op = 0 then p + x else if op = 1 then max p x else min p x) else none
    let out := if e.aux.toNat / 4 % 2 = 1 then prev else now
    let lane : Lane := match out with
      | some v => codeLane (narrowed e (e.sat && op = 0) v)
      | none => ⟨0, false⟩
    let rest := scanRun e flag a n (i + 1) now
    (lane :: rest.1, rest.2)

/-- The state a scan keeps between tokens: acc, none while it is invalid. -/
def ScanState (e : EWord) (st : UnitState) (acc : Option Int) : Prop :=
  match st with
  | .scan v true => acc = some v
  | .scan _ false => acc = none
  | _ => acc = some (if e.aux.toNat % 4 = 0 then 0 else if e.aux.toNat % 4 = 1 then fmtMin e.fmt else fmtMax e.fmt)

/-- R49: the widths, lane counts and ranges of the sixteen lane formats. -/
def laneFormats : Prop :=
  (List.range 16).map (fun n => (laneWidth (BitVec.ofNat 4 n), laneCount (BitVec.ofNat 4 n)))
      = [(8, 512), (16, 256), (32, 128), (64, 64), (8, 512), (16, 256), (32, 128), (64, 64), (8, 512), (8, 512), (16, 256),
         (16, 256), (32, 128), (4, 1024), (6, 640), (4, 1024)]
    ∧ [0, 1, 2, 3, 15].map (fun f : BitVec 4 => (fmtMin f, fmtMax f))
      = [(-128, 127), (-32768, 32767), (-2147483648, 2147483647), (-9223372036854775808, 9223372036854775807), (-8, 7)]
    ∧ [4, 5, 6, 7].map (fun f : BitVec 4 => (fmtMin f, fmtMax f))
      = [(0, 255), (0, 65535), (0, 4294967295), (0, 18446744073709551615)]

/-- R248 to R254: the integer elements. -/
def integerResults : Prop :=
  ∀ (s : State) (u : UnitAt) (r : Region) (e : EWord) (a : Token), UnitTurn s u r → fmtIsFloat e.fmt = false → r.headAt e.a = some a →
    let w := laneWidth e.fmt
    -- one input
    Emits (.vabs e) s u r e (lanesToken e a [a.count] fun n => laneWhere [a] n (narrowed e e.sat (laneInt e.fmt (a.val n)).natAbs))
      ∧ Emits (.vneg e) s u r e (lanesToken e a [a.count] fun n => laneWhere [a] n (narrowed e e.sat (-laneInt e.fmt (a.val n))))
      ∧ Emits (.vnot e) s u r e (lanesToken e a [a.count] fun n => laneWhere [a] n (2 ^ w - 1 - a.val n % 2 ^ w))
      ∧ (e.aux = 0 → Emits (.vval e) s u r e (lanesToken e a [a.count] fun n => codeLane (if a.ok n then 1 else 0)))
      ∧ (e.k = true → ∀ lo hi : Int,
          lo = (if w < 32 then laneInt e.fmt (e.konst.toNat % 2 ^ 32) else if fmtSigned e.fmt then signedOf 32 (e.konst.toNat % 2 ^ 32) else (e.konst.toNat % 2 ^ 32 : Nat)) →
          hi = (if w < 32 then laneInt e.fmt (e.konst.toNat / 2 ^ 32) else if fmtSigned e.fmt then signedOf 32 (e.konst.toNat / 2 ^ 32) else (e.konst.toNat / 2 ^ 32 : Nat)) →
          Emits (.vclip e) s u r e (lanesToken e a [a.count] fun n => laneWhere [a] n (narrowed e false (min (max (laneInt e.fmt (a.val n)) lo) hi))))
      -- two inputs
      ∧ (∀ b, SecondInput r e b →
          IntegerLanes (.vadd e) s u r e false (· + ·) a b
            ∧ IntegerLanes (.vsub e) s u r e false (· - ·) a b
            ∧ IntegerLanes (.vmul e) s u r e e.sat (· * ·) a b
            ∧ IntegerLanes (.vmulh e) s u r e false (fun x y => x * y / (2 ^ w : Nat)) a b
            ∧ IntegerLanes (.vmin e) s u r e false (fun x y => if x ≤ y then x else y) a b
            ∧ IntegerLanes (.vmax e) s u r e false (fun x y => if x ≤ y then y else x) a b
            ∧ IntegerLanes (.vadds e) s u r e true (· + ·) a b
            ∧ IntegerLanes (.vsubs e) s u r e true (· - ·) a b
            ∧ CodeLanes (.vand e) s u r e (· &&& ·) a b
            ∧ CodeLanes (.vor e) s u r e (· ||| ·) a b
            ∧ CodeLanes (.vxor e) s u r e (· ^^^ ·) a b
            ∧ CodeLanes (.vshr e) s u r e (fun x n => if n < w then x / 2 ^ n else 0) a b
            ∧ CodeLanes (.vsra e) s u r e (fun x n => (signedOf w x / (2 ^ (if n < w then n else w - 1) : Nat) % (2 ^ w : Nat)).toNat) a b
            ∧ Emits (.vshl e) s u r e (lanesToken e a [a.count, b.count] fun i => laneWhere [a, b] i
                (let n := b.val i % 2 ^ w
                 if e.sat then narrowed e true (laneInt e.fmt (a.val i) * (2 ^ n : Nat))
                 else if n < w then narrowed e false (laneInt e.fmt (a.val i) * (2 ^ n : Nat)) else 0))
            ∧ Emits (.vcmp e) s u r e { lanesToken e a [a.count, b.count] (fun i => laneWhere [a, b] i
                (@ite _ (relates e.aux.toNat (laneInt e.fmt (a.val i) < laneInt e.fmt (b.val i)) (laneInt e.fmt (a.val i) = laneInt e.fmt (b.val i)))
                  (Classical.propDecidable _) 1 0)) with fmt := flagFormat e }
            ∧ (e.aux = 1 → Emits (.vval e) s u r e (lanesToken e a [a.count, b.count] fun i =>
                if a.ok i ∧ b.isTrue i then codeLane (a.val i % 2 ^ w) else ⟨0, false⟩))
            ∧ (e.aux = 2 → Emits (.vval e) s u r e (lanesToken e a [a.count, b.count] fun i =>
                if a.ok i then codeLane (a.val i % 2 ^ w) else if b.ok i then codeLane (b.val i % 2 ^ w) else ⟨0, false⟩))
            -- three inputs
            ∧ (∀ c, r.headAt e.c = some c →
                Emits (.vmad e) s u r e (lanesToken e a [a.count, b.count, c.count] fun i => laneWhere [a, b, c] i
                    (narrowed e e.sat (laneInt e.fmt (a.val i) * laneInt e.fmt (b.val i) + laneInt e.fmt (c.val i))))
                  ∧ (e.k = false → Emits (.vclip e) s u r e (lanesToken e a [a.count, b.count, c.count] fun i => laneWhere [a, b, c] i
                      (narrowed e false (min (max (laneInt e.fmt (a.val i)) (laneInt e.fmt (b.val i))) (laneInt e.fmt (c.val i))))))
                  ∧ (e.k = false → Emits (.vsel e) s u r e (lanesToken e b [a.count, b.count, c.count] fun i =>
                      let chosen := if a.val i ≠ 0 then b else c
                      if a.ok i ∧ chosen.ok i then codeLane (chosen.val i % 2 ^ w) else ⟨0, false⟩))))
      -- the scan, from token to token
      ∧ (∀ (st : UnitState) (acc : Option Int) (flags : Token), (r.cell u.cell).unitState u.router = st → ScanState e st acc →
          (e.c = 0xFF ∧ flags.lanes = [] ∨ r.headAt e.c = some flags) →
          let identity : Int := if e.aux.toNat % 4 = 0 then 0 else if e.aux.toNat % 4 = 1 then fmtMin e.fmt else fmtMax e.fmt
          let run := scanRun e flags.isTrue a (min a.count (laneCount e.fmt)) 0 (if a.reset then some identity else acc)
          (e.sat = true → e.aux.toNat % 4 = 0) →
          ∃ st', ScanState e st' (if a.last then some identity else run.2)
            ∧ FiresIn (.vscan e) s u r e (allInputs e) st' (some { a with fmt := e.fmt, lanes := run.1 }) none)

end Sys2Proof.Machine

/-- R49, R248 to R254: the lane formats and the integer elements. -/
def Obligations.IntegerElementResults : Prop :=
  laneFormats ∧ integerResults

namespace Sys2Proof.Machine

/-- A float lane's value (R52). -/
def floatVal (e : EWord) (code : Nat) : FVal := unpack (laneFFmt e.fmt) code

/-- An exact value rounded once to the element's format in its mode, under SAT where set (R56, R57, R255). -/
def roundedLane (e : EWord) (inputs : List FVal) (v : FVal) : Nat :=
  (roundSat (laneFFmt e.fmt) (rmOf e.rnd.toNat) e.sat (inputs.any FVal.isInf) v).bits

/-- The smaller or larger of two float codes (R54). -/
def floatPick (e : EWord) (smaller : Bool) (x y : Nat) : Nat :=
  if (floatVal e x).isNan && (floatVal e y).isNan then (laneFFmt e.fmt).nan
  else if (floatVal e x).isNan then y
  else if (floatVal e y).isNan then x
  else if (floatVal e x).below (floatVal e y) == smaller then x else y

/-- Lanes of a segment operation: segment k of n lanes, valid where all of its lanes are, and the number of segments (R258,
R266). -/
def segmentLanes (n m : Nat) (ok : Nat → Bool) (value : Nat → Nat) : List Lane :=
  (List.range ((m + n - 1) / n)).map fun k =>
    if ∀ j, j < n → k * n + j < m ∧ ok (k * n + j) = true then codeLane (value k) else ⟨0, false⟩

/-- The recurrence of R259 as the manual writes it, from h (none while invalid): the lanes and the state behind the token. -/
def recurrenceRun (e : EWord) (flag : Nat → Bool) (a b : Token) : Nat → Nat → Option Nat → List Lane × Option Nat
  | 0, _, h => ([], h)
  | n + 1, i, h =>
    let prev := if flag i then some 0 else h
    let x := floatVal e (a.val i)
    let y := floatVal e (b.val i)
    let now := if a.ok i && b.ok i then
        prev.map (fun p => roundedLane e [x, y, floatVal e p] (fsum (rmOf e.rnd.toNat) [x.mul (floatVal e p), y])) else none
    let lane : Lane := match now with
      | some v => codeLane v
      | none => ⟨0, false⟩
    let rest := recurrenceRun e flag a b n (i + 1) now
    (lane :: rest.1, rest.2)

/-- The state a recurrence keeps between tokens: h, none while it is invalid. -/
def RecurrenceState (st : UnitState) (h : Option Nat) : Prop :=
  match st with
  | .lrec v true => h = some v
  | .lrec _ false => h = none
  | _ => h = some 0

/-- R255 to R259: the float elements. -/
def floatResults : Prop :=
  ∀ (s : State) (u : UnitAt) (r : Region) (e : EWord) (a : Token), UnitTurn s u r → e.fmt.toNat ∈ [0xA, 0xB, 0xC] → r.headAt e.a = some a →
    let f := laneFFmt e.fmt
    let m := rmOf e.rnd.toNat
    let x (n : Nat) := floatVal e (a.val n)
    let special (i : Instr) (fn : FFmt → Rm → Bool → FVal → FRes) : Prop :=
      Emits i s u r e (lanesToken e a [a.count] fun n => laneWhere [a] n (fn f m e.sat (x n)).bits)
    special (.fvexp2 e) fexp2 ∧ special (.fvlog2 e) flog2 ∧ special (.fvrcp e) frcp ∧ special (.fvrsq e) frsq
      ∧ special (.fvtanh e) ftanh ∧ special (.fvsigm e) fsigm
      ∧ (∀ b, SecondInput r e b →
          let y (n : Nat) := floatVal e (b.val n)
          let lanes (i : Instr) (v : Nat → Nat) : Prop :=
            Emits i s u r e (lanesToken e a [a.count, b.count] fun n => laneWhere [a, b] n (v n))
          lanes (.fvadd e) (fun n => roundedLane e [x n, y n] (fsum m [x n, y n]))
            ∧ lanes (.fvsub e) (fun n => roundedLane e [x n, y n] (fsum m [x n, (y n).negate]))
            ∧ lanes (.fvmul e) (fun n => roundedLane e [x n, y n] ((x n).mul (y n)))
            ∧ lanes (.fvmin e) (fun n => floatPick e true (a.val n % 2 ^ laneWidth e.fmt) (b.val n % 2 ^ laneWidth e.fmt))
            ∧ lanes (.fvmax e) (fun n => floatPick e false (a.val n % 2 ^ laneWidth e.fmt) (b.val n % 2 ^ laneWidth e.fmt))
            ∧ Emits (.fvcmp e) s u r e { lanesToken e a [a.count, b.count] (fun n => laneWhere [a, b] n
                (if (x n).isNan || (y n).isNan then 0 else if relates e.aux.toNat ((x n).lt (y n)) ((x n).eq (y n)) then 1 else 0))
                with fmt := if e.fmt = 0xC then 6 else 5 }
            ∧ (∀ c, r.headAt e.c = some c →
                let z (n : Nat) := floatVal e (c.val n)
                Emits (.fvfma e) s u r e (lanesToken e a [a.count, b.count, c.count] fun n => laneWhere [a, b, c] n
                  (roundedLane e [x n, y n, z n] (fsum m [(x n).mul (y n), z n])))))
      -- the recurrence, from token to token
      ∧ (∀ (b : Token) (st : UnitState) (h : Option Nat) (flags : Token), e.k = false → r.headAt e.b = some b →
          (r.cell u.cell).unitState u.router = st → RecurrenceState st h → (e.c = 0xFF ∧ flags.lanes = [] ∨ r.headAt e.c = some flags) →
          let n := min (min (laneCount e.fmt) a.count) b.count
          let run := recurrenceRun e flags.isTrue a b n 0 (if a.reset then some 0 else h)
          ∃ st', RecurrenceState st' (if a.last then some 0 else run.2)
            ∧ FiresIn (.fvlrec e) s u r e (allInputs e) st' (some { a with fmt := e.fmt, lanes := run.1 }) none)

/-- R257: the special inputs of the special functions, without SAT, in F32, F16 and BF16. -/
def specialFunctionPoints : Prop :=
  ∀ (f : FFmt) (m : Rm) (e : Int) (neg sg : Bool), f ∈ [f32, f16, bf16] →
    let one := f.bias * 2 ^ f.mw
    let sign := if neg then 2 ^ (f.ew + f.mw) else 0
    let code (g : FFmt → Rm → Bool → FVal → FRes) (v : FVal) : Nat := (g f m false v).bits
    [fexp2, flog2, frcp, frsq, ftanh, fsigm].map (code · (.nan sg)) = [f.nan, f.nan, f.nan, f.nan, f.nan, f.nan]
      ∧ code fexp2 (.fin neg 0 e) = one ∧ code fexp2 (.inf false) = f.inf false ∧ code fexp2 (.inf true) = 0
      ∧ code flog2 (.fin neg 0 e) = f.inf true ∧ code flog2 (.inf true) = f.nan ∧ code flog2 (.inf false) = f.inf false
      ∧ (∀ k x, 0 < k → code flog2 (.fin true k x) = f.nan ∧ code frsq (.fin true k x) = f.nan)
      ∧ (∀ x : Nat, code flog2 (.fin false (2 ^ x) (-(x : Int))) = 0)
      ∧ code frcp (.fin neg 0 e) = f.inf neg ∧ code frcp (.inf neg) = sign
      ∧ code frsq (.fin neg 0 e) = f.inf neg ∧ code frsq (.inf true) = f.nan ∧ code frsq (.inf false) = 0
      ∧ code ftanh (.fin neg 0 e) = sign ∧ code ftanh (.inf neg) = sign + one
      ∧ code fsigm (.fin neg 0 e) = (f.bias - 1) * 2 ^ f.mw ∧ code fsigm (.inf false) = one ∧ code fsigm (.inf true) = 0

/-- R258: the dot product of each segment, by the tree of R67. -/
def dotProductResults : Prop :=
  ∀ (s : State) (u : UnitAt) (r : Region) (e : EWord) (a b : Token), UnitTurn s u r → fmtIsFloat e.fmt = true →
    (e.aux = 0 ∨ 3 ≤ e.aux.toNat ∧ e.aux.toNat ≤ 10) → r.headAt e.a = some a → SecondInput r e b →
    let n := if e.aux = 0 then laneCount e.fmt else 2 ^ e.aux.toNat
    let m := min (min (laneCount e.fmt) a.count) b.count
    Emits (.fvdot e) s u r e { a with
      fmt := 0xC
      lanes := segmentLanes n m (fun i => a.ok i && b.ok i) fun k =>
        treeSum (rmOf e.rnd.toNat) ((List.range n).map fun j => (floatVal e (a.val (k * n + j))).mul (floatVal e (b.val (k * n + j)))) }

end Sys2Proof.Machine

/-- R260 to R264, R266, R267: the movement elements and VRED. Model's choices it rests on: assumption log 47. -/
def Obligations.MovementElementResults : Prop :=
  ∀ (s : State) (u : UnitAt) (r : Region) (e : EWord) (a : Token), UnitTurn s u r → r.headAt e.a = some a →
    let w := laneWidth e.fmt
    let full := laneCount e.fmt
    let from_ (i : Nat) : Lane := if a.ok i then codeLane (a.val i % 2 ^ w) else ⟨0, false⟩
    -- VBCAST, its index in the word or in a token
    (e.b = 0xFF → Emits (.vbcast e) s u r e { a with fmt := e.fmt, lanes := List.replicate full (from_ e.aux.toNat) })
      ∧ (∀ b, e.b ≠ 0xFF → e.k = false → r.headAt e.b = some b →
          Emits (.vbcast e) s u r e { a with fmt := e.fmt, lanes := List.replicate full (if b.ok 0 then from_ (b.val 0) else ⟨0, false⟩) })
      ∧ (∀ b, e.k = false → r.headAt e.b = some b →
          Emits (.vperm e) s u r e { a with
            fmt := e.fmt, lanes := (List.range (min b.count full)).map fun i => if b.ok i then from_ (b.val i) else ⟨0, false⟩ })
      -- VUNPK: the next lane of A for each true mask lane
      ∧ (∀ b, e.k = false → r.headAt e.b = some b →
          Emits (.vunpk e) s u r e { a with
            fmt := e.fmt
            lanes := (List.range (min b.count full)).map fun i =>
              let taken := ((List.range i).filter b.isTrue).length
              if b.isTrue i ∧ taken < a.count then from_ taken else ⟨0, false⟩ })
      ∧ (∀ st c, st = e.konst.toNat % 2 ^ 11 → c = e.konst.toNat / 2 ^ 16 % 2 ^ 11 →
          Emits (.vslice e) s u r e { a with
            fmt := e.fmt, lanes := (List.range (if c = 0 then full - st else c)).map fun j => from_ (st + j) })
      ∧ Emits (.vconst e) s u r e { a with
          kind := .data
          fmt := e.fmt
          lanes := (List.range (min a.count full)).map fun i =>
            codeLane ((e.konst.toNat + (if e.aux = 1 then i else 0)) % 2 ^ w) }
      -- VPACK, with the count on output 1
      ∧ (let kept := (List.range (min full a.count)).filter a.ok
         FiresIn (.vpack e) s u r e (allInputs e) .idle
           (some (if kept = [] then { a with kind := .void, fmt := e.fmt, lanes := [⟨0, false⟩] } else { a with fmt := e.fmt, lanes := kept.map from_ }))
           (some { a with kind := .control, fmt := 7, lanes := [codeLane kept.length] }))
      -- VRED: integer sums exact and narrowed once, float sums by the tree of R67, maxima and minima
      ∧ (∀ n op, n = (if e.aux.toNat % 16 = 0 then full else 2 ^ (e.aux.toNat % 16)) → op = e.aux.toNat / 16 → op ≤ 2 → e.aux.toNat % 16 ≤ 10 →
          let isSum := op = 0
          let codes (k : Nat) : List Nat := (List.range n).map fun j => a.val (k * n + j)
          let exact (k : Nat) : List Int := (codes k).map (laneInt e.fmt)
          let value (k : Nat) : Nat :=
            if fmtIsFloat e.fmt then
              (if isSum then treeSum (rmOf e.rnd.toNat) ((codes k).map (floatVal e))
               else (codes k).tail.foldl (floatPick e (decide (op = 2))) ((codes k).headD 0))
            else if isSum then narrowed e e.sat (exact k).sum
            else narrowed e false ((exact k).tail.foldl (if op = 1 then max else min) ((exact k).headD 0))
          Emits (.vred e) s u r e { a with
            fmt := if isSum ∧ fmtIsFloat e.fmt = true then 0xC else e.fmt
            lanes := segmentLanes n (min full a.count) a.ok value })

/-- R255 to R259: the float elements, the special inputs of the special functions, and the dot product of each segment. -/
def Obligations.FloatElementResults : Prop :=
  floatResults ∧ specialFunctionPoints ∧ dotProductResults

namespace Sys2Proof.Machine

/-- A control token's reading (R231). -/
def Controls (t : Token) (c : Option Bool) : Prop :=
  c = (if t.ok 0 = false then none else some (decide (t.val 0 ≠ 0)))

/-- The firing q of a split of CVT or SCALE (R268 to R270): the lanes it converts and its two tokens. k is the exponent, none where
its lane is invalid. -/
def SplitFires (i : Instr) (s : State) (u : UnitAt) (r : Region) (e : EWord) (a : Token) (src : BitVec 4) (k : Option Int) (q : Nat) : Prop :=
  let full := laneCount e.fmt
  let firings := if a.count = 0 then 1 else (a.count + full - 1) / full
  let final := q + 1 = firings
  let mode := if e.aux.toNat / 2 ^ 7 % 2 = 1 then Rm.rna else rmOf e.rnd.toNat
  let lanes := (List.range (min full (a.count - q * full))).map (q * full + ·)
  let res (n : Nat) : Option LaneRes := if a.ok n then k.map fun x => convLane src e.fmt mode x (a.val n) else none
  let out (n : Nat) : Lane := match res n with
    | some c => if c.ok then codeLane c.bits else ⟨0, false⟩
    | none => ⟨0, false⟩
  let spill (n : Nat) : Lane := match res n with
    | some c => if c.ov then codeLane (a.val n) else ⟨0, false⟩
    | none => ⟨0, false⟩
  let hdr : Token := { a with reset := a.reset && decide (q = 0), last := a.last && decide final }
  FiresIn i s u r e (if final then [e.a, if e.k then 0xFF else e.b] else []) (if final then .idle else .split (q + 1))
    (some { hdr with fmt := e.fmt, lanes := lanes.map out })
    (if e.aux.toNat % 2 = 0 ∨ (∃ n ∈ lanes, (spill n).ok = true) then some { hdr with fmt := src, lanes := lanes.map spill } else none)

/-- R55, R61, R269: the conversion of one lane. -/
def laneConversionResults : Prop :=
  ∀ (src dst : BitVec 4) (m : Rm) (k : Int) (v : Nat),
    let x := (laneVal src v).scale k
    let f := laneFFmt dst
    (src = dst → k = 0 → convLane src dst m k v = ⟨v % 2 ^ laneWidth dst, true, false⟩)
      ∧ (src ≠ dst ∨ k ≠ 0 →
          (fmtIsFloat dst = false →
              (∀ sg, x = .nan sg → convLane src dst m k v = ⟨0, true, false⟩)
                ∧ (∀ neg, x = .inf neg → convLane src dst m k v = ⟨((if neg then fmtMin dst else fmtMax dst) % (2 ^ laneWidth dst : Nat)).toNat, true, true⟩)
                ∧ (fmtIsFloat src = true ∨ laneWidth dst ≤ laneWidth src ∨ k ≠ 0 → ∀ neg n e, x = .fin neg n e →
                    let q : Int := if neg then -((roundTo m neg n e 0).1 : Int) else (roundTo m neg n e 0).1
                    (q < fmtMin dst → convLane src dst m k v = ⟨(fmtMin dst % (2 ^ laneWidth dst : Nat)).toNat, true, true⟩)
                      ∧ (fmtMax dst < q → convLane src dst m k v = ⟨(fmtMax dst % (2 ^ laneWidth dst : Nat)).toNat, true, true⟩)
                      ∧ (fmtMin dst ≤ q → q ≤ fmtMax dst → convLane src dst m k v = ⟨(q % (2 ^ laneWidth dst : Nat)).toNat, true, false⟩))
                -- an integer into a wider one: extended by the source's signedness
                ∧ (fmtIsFloat src = false → laneWidth src < laneWidth dst → k = 0 →
                    convLane src dst m k v = ⟨(laneInt src v % (2 ^ laneWidth dst : Nat)).toNat, true, false⟩))
            ∧ (fmtIsFloat dst = true →
              (∀ sg, x = .nan sg → convLane src dst m k v = ⟨f.nan, decide (dst.toNat ≠ 0xD ∧ dst.toNat ≠ 0xE), false⟩)
                ∧ (∀ neg, x = .inf neg → convLane src dst m k v = if f.hasInf then ⟨f.inf neg, true, false⟩ else ⟨f.largest neg, true, true⟩)
                ∧ (∀ neg n e, x = .fin neg n e → convLane src dst m k v =
                    ⟨(roundFin f m .largest neg n e).bits, true, (roundFin f m .largest neg n e).of⟩)))

/-- R265, R268, R270: the corner-turn and the conversions. -/
def conversionResults : Prop :=
  ∀ (s : State) (u : UnitAt) (r : Region) (e : EWord), UnitTurn s u r →
    let st := (r.cell u.cell).unitState u.router
    (∀ a q, r.headAt e.a = some a → (st = .idle ∧ q = 0 ∨ st = .split q) → q = 0 ∨ q * laneCount e.fmt < a.count →
        SplitFires (.cvt e) s u r e a (r.link e.a.toNat).fmt (some 0) q
          ∧ (e.k = true → SplitFires (.scale e) s u r e a (r.link e.a.toNat).fmt (some (signedOf 32 e.konst.toNat)) q)
          ∧ (∀ b, e.k = false → r.headAt e.b = some b →
              SplitFires (.scale e) s u r e a (r.link e.a.toNat).fmt (if b.ok 0 then some (signedOf 32 (b.val 0)) else none) q))
      -- CTURN: fill, then emit
      ∧ (∀ a block, r.headAt e.a = some a → (st = .idle ∧ block = [] ∨ st = .fill block) →
          FiresIn (.cturn e) s u r e [e.a]
            (if (block ++ [a]).length = e.aux.toNat ∨ a.last = true then .emit (block ++ [a]) 0 else .fill (block ++ [a])) none none)
      ∧ (∀ first block j, st = .emit (first :: block) j →
          FiresIn (.cturn e) s u r e [] (if j + 1 = e.aux.toNat then .idle else .emit (first :: block) (j + 1))
            (some { kind := first.kind, policy := first.policy, iter := first.iter, fmt := e.fmt, reset := decide (j = 0) && first.reset,
                    last := decide (j + 1 = e.aux.toNat) && ((first :: block).getLast (by simp)).last,
                    lanes := (first :: block).map fun q => if q.ok j then codeLane (q.val j % 2 ^ laneWidth e.fmt) else ⟨0, false⟩ }) none)

/-- R231 to R234: the router operators but PERMIT. -/
def routerOperatorResults : Prop :=
  ∀ (s : State) (u : UnitAt) (r : Region) (e : EWord), UnitTurn s u r → e.k = false →
    let st := (r.cell u.cell).unitState u.router
    (∀ a, r.headAt e.a = some a →
        FiresIn (.sink e) s u r e [e.a] .idle none none
          ∧ (e.aux = 1 → FiresIn (.steer e) s u r e [e.a] .idle (if a.kind = .data ∨ a.kind = .void then some a else none)
              (if a.kind = .data ∨ a.kind = .void then none else some a))
          ∧ (∀ b c, e.aux = 0 → r.headAt e.b = some b → Controls a c →
              FiresIn (.steer e) s u r e [e.a, e.b] .idle (if c = some true then some b else none) (if c = some false then some b else none))
          ∧ (∀ b, Controls a (some true) → r.headAt e.b = some b → FiresIn (.merge e) s u r e [e.a, e.b] .idle (some b) none)
          ∧ (∀ c, Controls a (some false) → r.headAt e.c = some c → FiresIn (.merge e) s u r e [e.a, e.c] .idle (some c) none)
          ∧ (Controls a none → FiresIn (.merge e) s u r e [e.a] .idle none none)
          ∧ (Controls a (some true) → r.headAt e.b = none → exec (.merge e) s = .next s)
          ∧ (Controls a (some false) → r.headAt e.c = none → exec (.merge e) s = .next s)
          ∧ (st = .idle → FiresIn (.carry e) s u r e [e.a] .carryLoop (some a) none
              ∧ FiresIn (.invar e) s u r e [e.a] (.invarLoop a) (some a) none))
      -- AMERGE
      ∧ (∀ t, r.headAt e.b = some t → st = .idle ∨ st = .row true →
          FiresIn (.amerge e) s u r e [e.b] (if e.aux = 1 ∧ t.last = false then .row true else .idle) (some t) none)
      ∧ (∀ t, r.headAt e.c = some t → (st = .idle ∧ r.headAt e.b = none) ∨ st = .row false →
          FiresIn (.amerge e) s u r e [e.c] (if e.aux = 1 ∧ t.last = false then .row false else .idle) (some t) none)
      ∧ (st = .row true → r.headAt e.b = none → exec (.amerge e) s = .next s)
      ∧ (st = .row false → r.headAt e.c = none → exec (.amerge e) s = .next s)
      -- CARRY and INVAR in their loop state
      ∧ (∀ b, r.headAt e.b = some b →
          (∀ c, st = .carryLoop → Controls b (some true) → r.headAt e.c = some c →
              FiresIn (.carry e) s u r e [e.b, e.c] .carryLoop (some { c with iter := b.iter }) none)
            ∧ (st = .carryLoop → ¬Controls b (some true) → FiresIn (.carry e) s u r e [e.b] .idle none none)
            ∧ (∀ kept, st = .invarLoop kept →
                (Controls b (some true) → FiresIn (.invar e) s u r e [e.b] (.invarLoop kept) (some { kept with iter := b.iter }) none)
                  ∧ (¬Controls b (some true) → FiresIn (.invar e) s u r e [e.b] .idle none none)))

/-- R235 to R237: each step of a PERMIT performs the first action that can fire. -/
def permitActions : Prop :=
  ∀ (s : State) (u : UnitAt) (r : Region) (e : EWord) (p : PermitState), UnitTurn s u r → r.permit = some p →
    let becomes (r' : Region) : Prop := exec (.permit e) s = .next (s.setRegion u.core u.region r')
    (∀ t, r.headAt e.b = some t →
        becomes { r.take e.b with
          permit := some (if t.iter ∈ p.inflight then { p with inflight := p.inflight.filter (· ≠ t.iter), free := p.free + 1 } else p) })
      ∧ (r.headAt e.b = none →
          (∀ t, r.headAt e.c = some t → t.isTrue 0 = false → becomes ({ r.take e.c with permit := some p }.squashAll))
            ∧ (∀ t before after, r.headAt e.c = some t → t.isTrue 0 = true → p.inflight = before ++ after →
                (t.iter ∉ p.inflight ∧ before = [] ∨ ∃ older, before = older ++ [t.iter] ∧ t.iter ∉ older) → (before ++ after).Nodup →
                ∃ p', becomes ({ r.take e.c with permit := some p' }.squashAll) ∧ p'.inflight = before ∧ p'.free = p.free + after.length ∧ p'.exited = true
                  ∧ p'.next = p.next ∧ (∀ q, q < 8 → p'.mask.getLsbD q = (p.mask.getLsbD q || after.contains q)))
            ∧ (r.headAt e.c = none → ∀ t, r.headAt e.a = some t →
                (p.exited = true → becomes { r.take e.a with permit := some { p with exited := !t.last } })
                  ∧ (p.exited = false →
                      (0 < p.free → p.mask.getLsbD p.next = false → r.mayWriteAt e.o0 = true →
                          becomes ({ r.take e.a with
                            permit := some { p with inflight := p.inflight ++ [p.next], free := p.free - 1, next := (p.next + 1) % 8 } }.placeAt
                              e.o0 (some { t with iter := p.next })))
                        ∧ (p.free = 0 ∨ p.mask.getLsbD p.next = true ∨ r.mayWriteAt e.o0 = false → exec (.permit e) s = .next s)))
            ∧ (r.headAt e.c = none → r.headAt e.a = none → exec (.permit e) s = .next s))
      -- what a squash drops
      ∧ r.squashAll.links = r.squash.links
      ∧ (∀ c, (r.squashAll.cell c).ag.stores = (r.cell c).ag.stores.filter fun q => !(q.inScope && p.mask.getLsbD q.iter))

end Sys2Proof.Machine

/-- R55, R61, R265, R268 to R270: the conversion of one lane, the corner-turn and the conversion elements. Model's choices it rests on: assumption log 31. -/
def Obligations.ConversionElementResults : Prop :=
  laneConversionResults ∧ conversionResults

/-- R231 to R237: the router operators, and the actions of a PERMIT. -/
def Obligations.RouterResults : Prop :=
  routerOperatorResults ∧ permitActions

namespace Sys2Proof.Machine

/-- An exact F32 result rounded by RNE (R279, R280). -/
def round32 (v : FVal) : Nat := (roundVal f32 .rne .byMode v).bits

/-- The value of an F32 lane. -/
def val32 (code : Nat) : FVal := unpack f32 code

/-- 2^(x - y), rounded once (R280). -/
def expDiff (x y : FVal) : Nat := (fexp2 f32 .rne false (fsum .rne [x, y.negate])).bits

/-- The larger of two F32 codes (R54). -/
def larger32 (x y : Nat) : Nat :=
  if (val32 x).isNan && (val32 y).isNan then 0x7FC0_0000
  else if (val32 x).isNan then y
  else if (val32 y).isNan then x
  else if (val32 x).below (val32 y) then y else x

/-- Literal n of a mask program (R281): positions, segments and nodes of query and key, the query's ancestors and the window. -/
def maskLiteral (q anc k w n : Nat) : Bool :=
  let pos (d : Nat) := d % 2 ^ 24
  let seg (d : Nat) := d / 2 ^ 24 % 2 ^ 16
  let node (d : Nat) := d / 2 ^ 40 % 2 ^ 6
  match n with
  | 0 => pos k ≤ pos q
  | 1 => pos q < pos k
  | 2 => pos k = pos q
  | 3 => pos q < pos k + w
  | 4 => pos k + w ≤ pos q
  | 5 => seg k = seg q
  | 6 => seg k ≠ seg q
  | 7 => seg k = 0
  | 8 => node k = node q
  | 9 => node k ≠ node q
  | 10 => anc / 2 ^ node k % 2 = 1
  | _ => anc / 2 ^ node k % 2 = 0

/-- Whether a mask program shows key k to query q (R282). -/
def maskShows (prog q anc k : Nat) : Bool :=
  let w := if prog / 2 ^ 52 = 0 then 4096 else prog / 2 ^ 52
  [0, 1, 2, 3].any fun t => decide (prog / 2 ^ (48 + t) % 2 = 1)
    && (List.range 12).all fun n => decide (prog / 2 ^ (12 * t + n) % 2 = 1 → maskLiteral q anc k w n = true)

/-- Whether RED sums floats (R283). -/
def sumsFloats (e : EWord) : Bool := e.aux.toNat % 4 == 0 && fmtIsFloat e.fmt

/-- One fold of RED's op: a rounded float sum, an exact integer sum, or the larger or smaller value (R69, R283). -/
def reduceOp (e : EWord) (x y : Int) : Int :=
  let op := e.aux.toNat % 4
  if fmtIsFloat e.fmt then
    if op = 0 then ((roundVal f32 (rmOf e.rnd.toNat) .byMode (fsum (rmOf e.rnd.toNat) [val32 x.toNat, val32 y.toNat])).bits : Int)
    else if op = 1 then (fmaxBits f32 x.toNat y.toNat : Int) else (fminBits f32 x.toNat y.toNat : Int)
  else if op = 0 then x + y else if op = 1 then max x y else min x y

/-- The lanes that a token gives to its group: its own, or with aux[2] = 1 one lane reduced across it (R283). -/
def reduceInput (e : EWord) (t : Token) : List FoldLane :=
  let vs : List FoldLane := t.lanes.map fun l => ⟨if fmtIsFloat e.fmt then ((l.val.toNat % 2 ^ 32 : Nat) : Int) else laneInt e.fmt l.val.toNat, l.ok⟩
  if e.aux.toNat / 4 % 2 = 1 then
    let ok := vs.all (·.ok)
    if sumsFloats e then [⟨treeSum (rmOf e.rnd.toNat) (vs.map fun v => val32 v.acc.toNat), ok⟩]
    else [⟨(vs.tail.map (·.acc)).foldl (reduceOp e) ((vs.map (·.acc)).headD 0), ok⟩]
  else vs

/-- Running lane j of the group of tokens first :: rest: every value that lane j of a token gave, in order (R283). -/
def groupLane (e : EWord) (first : Token) (rest : List Token) (j : Nat) : FoldLane :=
  let start := (reduceInput e first).getD j ⟨0, false⟩
  let later := rest.filterMap fun t => (reduceInput e t)[j]?
  ⟨(later.map (·.acc)).foldl (reduceOp e) start.acc, start.ok && later.all (·.ok)⟩

/-- The running lanes of a group. -/
def groupLanes (e : EWord) (first : Token) (rest : List Token) : List FoldLane :=
  (List.range (reduceInput e first).length).map (groupLane e first rest)

/-- R279 to R283: the soft-maximum elements, the mask element and the reducer. -/
def softMaximumResults : Prop :=
  ∀ (s : State) (u : UnitAt) (r : Region) (e : EWord) (a : Token), UnitTurn s u r → e.fmt = 0xC → r.headAt e.a = some a →
    let state (m l alpha : Nat) : Token := { a with fmt := 0xC, lanes := [codeLane m, codeLane l, codeLane alpha] }
    -- SMXI
    FiresIn (.smxi e) s u r e (allInputs e) .idle
        (some (if a.ok 0 then state (a.val 0 % 2 ^ 32) 0x3F80_0000 0x3F80_0000 else state 0xFF80_0000 0 0x3F80_0000))
        (some { a with fmt := 0xC, lanes := List.replicate (if e.aux = 0 then 64 else e.aux.toNat) (codeLane 0) })
      ∧ (∀ b, e.k = false → r.headAt e.b = some b →
          -- SMXU
          (a.ok 0 = false ∨ a.ok 1 = false → FiresIn (.smxu e) s u r e (allInputs e) .idle
              (some { a with fmt := 0xC, lanes := List.replicate 3 ⟨0, false⟩ })
              (some { b with fmt := 0xC, lanes := List.replicate b.count ⟨0, false⟩ }))
            ∧ (a.ok 0 = true → a.ok 1 = true →
                let scores := ((List.range b.count).filter b.ok).map (b.val · % 2 ^ 32)
                let mp := larger32 (a.val 0 % 2 ^ 32) (scores.foldl larger32 0xFF80_0000)
                let alpha := if mp = 0xFF80_0000 then 0x3F80_0000 else expDiff (val32 (a.val 0)) (val32 mp)
                let p (i : Nat) : Nat := if mp ≠ 0xFF80_0000 ∧ b.ok i then expDiff (val32 (b.val i)) (val32 mp) else 0
                let sum := treeSum .rne ((List.range b.count).map fun i => val32 (p i))
                FiresIn (.smxu e) s u r e (allInputs e) .idle
                  (some (state mp (round32 (fsum .rne [(val32 (a.val 1)).mul (val32 alpha), val32 sum])) alpha))
                  (some { b with fmt := 0xC, lanes := (List.range b.count).map fun i => codeLane (p i) }))
            -- SMXF
            ∧ Emits (.smxf e) s u r e { b with
                fmt := 0xC
                lanes := (List.range b.count).map fun j =>
                  let l := val32 (a.val 1)
                  let x := val32 (b.val j)
                  if b.ok j ∧ a.ok 0 ∧ a.ok 1 then
                    codeLane (if l.isNan || x.isNan then 0x7FC0_0000 else if l.isZero && !l.negative then 0 else round32 (x.div l))
                  else ⟨0, false⟩ })

/-- R281, R282: PRED. -/
def maskElementResults : Prop :=
  ∀ (s : State) (u : UnitAt) (r : Region) (e : EWord) (a c : Token), UnitTurn s u r → e.fmt = 4 → r.headAt e.a = some a →
    r.headAt e.c = some c →
    Emits (.pred e) s u r e { c with
      fmt := 4
      lanes := (List.range c.count).map fun j =>
        if a.ok 0 ∧ a.ok 1 ∧ c.ok j ∧ a.val 0 < 2 ^ 46 ∧ c.val j < 2 ^ 46 then
          codeLane (if maskShows e.konst.toNat (a.val 0) (a.val 1) (c.val j) then 1 else 0)
        else ⟨0, false⟩ }

/-- R69, R283: RED, over the tokens of its group so far. -/
def reducerResults : Prop :=
  ∀ (s : State) (u : UnitAt) (r : Region) (e : EWord) (a : Token), UnitTurn s u r → e.fmt = 0xC ∨ fmtIsFloat e.fmt = false →
    r.headAt e.a = some a → 0 < a.count →
    let st := (r.cell u.cell).unitState u.router
    ∀ (first : Token) (rest : List Token),
      (st = .idle ∨ a.reset = true) ∧ first = a ∧ rest = []
        ∨ (∃ before, a.reset = false ∧ rest = before ++ [a] ∧ st = .fold (before.length + 1) first.reset (groupLanes e first before)) →
      let g := e.aux.toNat / 8 % 16
      let ends := a.last = true ∨ g ≠ 0 ∧ rest.length + 1 = g
      let out : Token := { a with
        fmt := e.fmt
        reset := first.reset
        lanes := (groupLanes e first rest).map fun l =>
          if l.ok then codeLane (if fmtIsFloat e.fmt then l.acc.toNat else narrowed e e.sat l.acc) else ⟨0, false⟩ }
      FiresIn (.red e) s u r e [e.a] (if ends then .idle else .fold (rest.length + 1) first.reset (groupLanes e first rest))
        (if ends then some out else none) none

end Sys2Proof.Machine

/-- R69, R279 to R283: the soft-maximum elements, the mask element and the reducer. -/
def Obligations.AttentionElementResults : Prop :=
  softMaximumResults ∧ maskElementResults ∧ reducerResults

namespace Sys2Proof.Machine

/-- t is s with region r' in place of the unit's, another C buffer in its core, and nothing else changed. -/
def ChangesC (s t : State) (u : UnitAt) (r' : Region) : Prop :=
  t = s.setCore u.core { s.core u.core with regions := (s.core u.core).regions.set u.region r', c := (t.core u.core).c }

/-- The 64 words of C from base hold these, and every other word of C is as it was. -/
def RowOfC (s t : State) (core base : Nat) (row : Nat → Word × Bool) : Prop :=
  (∀ j, j < 64 → (t.core core).cWord (base + j) = row j)
    ∧ ∀ i, (i < base ∨ base + 64 ≤ i) → (t.core core).cWord i = (s.core core).cWord i

/-- Elements to a chunk (R65, R274). -/
def chunkElems (f : BitVec 4) : Nat := if f = 0xA then 32 else if f = 0xD then 128 else 64

/-- Element i of a tile set, row by row, from the first tile (R274). -/
def setElem (w : Tbl Dword) (f : BitVec 4) (tile i : Nat) : Nat := bufGet w (8 * 4096 * tile + laneWidth f * i) (laneWidth f)

/-- Column j of a row of codes against a tile set, added to acc: exact and wrapped for I8, rounded once a chunk for floats (R65,
R66, R275, R276). -/
def rowTimesTiles (w : Tbl Dword) (f : BitVec 4) (first count : Nat) (codes : List Nat) (j : Nat) (acc : Word) : Word :=
  let k := chunkElems f
  let b (i : Nat) : Nat := setElem w f (first + i / k % count) (64 * (i % k) + j)
  let n := codes.length
  if f = 0 then
    BitVec.ofInt 32 (acc.toInt + ((List.range n).map fun i => laneInt 0 (codes.getD i 0) * laneInt 0 (b i)).sum)
  else
    BitVec.ofNat 32 (round32 ((List.range ((n + k - 1) / k)).foldl (fun x c =>
      val32 (round32 (fsum .rne (x :: ((List.range (min k (n - c * k))).map fun i =>
        (unpack (laneFFmt f) (codes.getD (c * k + i) 0)).mul (unpack (laneFFmt f) (b (c * k + i)))))))) (val32 acc.toNat)))

/-- Lanes as C holds them. -/
def laneOfWord (x : Word × Bool) : Lane := if x.2 then ⟨x.1.zeroExtend 64, true⟩ else ⟨0, false⟩

end Sys2Proof.Machine

/-- R65, R66, R276, R391: MROW gathers its row and fires it. Model's choices it rests on: assumption log 48, 77. -/
def Obligations.MatrixRowResults : Prop :=
  ∀ (s : State) (u : UnitAt) (r : Region) (e : EWord) (a : Token) (had : List Token), UnitTurn s u r →
    e.fmt.toNat ∈ [0, 8, 9, 0xA, 0xD] → r.headAt e.a = some a → e.aux.toNat / 4 ≤ 2 →
    (r.cell u.cell).unitState u.router = .idle ∧ had = [] ∨ (r.cell u.cell).unitState u.router = .fill had →
    (a.last = false → FiresIn (.mrow e) s u r e [e.a] (.fill (had ++ [a])) none none)
      ∧ (∀ t, a.last = true → (r.mre (e.aux.toNat % 4)).tiles = some t → t.uses ≠ some 0 →
          let q := e.aux.toNat % 4
          let mode := e.aux.toNat / 4
          let row := had ++ [a]
          let first := row.headD a
          let ptr := if first.reset then 0 else (r.mre q).ptr
          let base := (r.cRange q).1 + 64 * ptr
          let lanes := row.flatMap fun k => if k.kind = .void then k.lanes.map fun _ => (⟨0, false⟩ : Lane) else k.lanes
          let codes := lanes.map fun l => l.val.toNat % 2 ^ laneWidth e.fmt
          let old (j : Nat) : Word × Bool := if mode = 0 then (0, true) else (s.core u.core).cWord (base + j)
          let out (j : Nat) : Word × Bool :=
            (rowTimesTiles (s.core u.core).w e.fmt t.first t.count codes j (old j).1,
             (old j).2 && lanes.all (·.ok) && t.ok && !Config.residueFails s.fresh)
          let o0 : Option Token := if mode = 1 then none else some
            { kind := .data, policy := a.policy, iter := a.iter, reset := first.reset, last := true, fmt := if e.fmt = 0 then 2 else 0xC,
              lanes := (List.range 64).map fun j => laneOfWord (out j) }
          let o1 : Option Token := if mode = 0 then none else some { a with kind := .control, fmt := 7, lanes := [codeLane base] }
          (¬outputsFree r e o0 o1 → exec (.mrow e) s = .next s)
            ∧ (outputsFree r e o0 o1 → ∃ x r', exec (.mrow e) s = .next (if Config.residueFails s.fresh then
                  x.raiseEvent r.ctx (x.eventOwner r.task
                    { kind := 0x08, core := u.core, region := u.region, detail := q, value := nat64 base })
                  else x)
                ∧ ChangesC { s with fresh := s.fresh + 1 } x u r'
                ∧ r' = { firedRegion r u e [e.a] .idle o0 o1 with mres := r'.mres }
                ∧ r'.mre q = { r.mre q with
                    tiles := some { t with uses := t.uses.map (· - 1) }
                    ptr := if mode = 0 then ptr else (ptr + 1) % max (r.cRange q).2 1 }
                ∧ (∀ k, k ≠ q → r'.mre k = r.mre k)
                ∧ (mode = 0 → (x.core u.core).c = (s.core u.core).c) ∧ (mode ≠ 0 → RowOfC s x u.core base out)))

/-- R274, R275: MLDB takes its control token, and writes the elements of a set to W. -/
def Obligations.TileLoadResults : Prop :=
  ∀ (s : State) (u : UnitAt) (r : Region) (e : EWord), UnitTurn s u r → e.k = false → e.fmt.toNat ∈ [0, 8, 9, 0xA, 0xD] →
    let q := e.aux.toNat % 4
    let m := r.mre q
    let setMre (r1 : Region) (x : Mre) : Region := { r1 with mres := r1.mres.set q x }
    let installed (ctl : Nat) (ok : Bool) : TileSet :=
      { first := ctl % 2 ^ 8, count := ctl / 2 ^ 8 % 2 ^ 3 + 1
        uses := if ctl / 2 ^ 16 % 2 ^ 16 = 0 then none else some (ctl / 2 ^ 16 % 2 ^ 16), ok := ok }
    -- a set still in use holds the next control token
    (m.load = none → (∃ t, m.tiles = some t ∧ t.uses ≠ some 0) → exec (.mldb e) s = .next s)
      ∧ (∀ b, m.load = none → (∀ t, m.tiles = some t → t.uses = some 0) → r.headAt e.b = some b →
          let ctl := b.val 0 % 2 ^ 32
          let loads := ctl / 2 ^ 11 % 2 = 1
          let lo := 4096 * (ctl % 2 ^ 8)
          let hi := lo + 4096 * (ctl / 2 ^ 8 % 2 ^ 3 + 1)
          ∃ ok : Bool,
            (b.ok 0 = false ∨ ctl / 2 ^ 12 % 2 ^ 4 ≠ 0 ∨ 4096 * 256 < hi → ok = false)
              ∧ (∀ x, r.bufs = [x] → ok = true →
                  x.buf = .w ∧ x.start ≤ lo ∧ hi ≤ x.start + x.length ∧ (loads → x.writer = u.cell))
              ∧ (∀ x, r.bufs = [x] → b.ok 0 = true → ctl / 2 ^ 12 % 2 ^ 4 = 0 → hi ≤ 4096 * 256 → x.buf = .w → x.start ≤ lo →
                  hi ≤ x.start + x.length → (loads → x.writer = u.cell) → ok = true)
              ∧ exec (.mldb e) s = .next (s.setRegion u.core u.region (setMre (firedRegion r u e [e.b] .idle none none)
                  (if loads then { m with load := some { ctl := ctl, ok := ok, done := 0, total := chunkElems e.fmt * 64 * (ctl / 2 ^ 8 % 2 ^ 3 + 1) } }
                   else { m with tiles := some (installed ctl ok) }))))
      ∧ (∀ l a, m.load = some l → r.headAt e.a = some a →
          let done := l.done + a.count
          let w := laneWidth e.fmt
          let at_ (i : Nat) := 8 * 4096 * (l.ctl % 2 ^ 8) + w * i
          ∃ x, exec (.mldb e) s = .next x
            ∧ x = (s.setRegion u.core u.region (setMre (firedRegion r u e [e.a] .idle none none)
                (if l.total ≤ done then { m with load := none, tiles := some (installed l.ctl l.ok) }
                 else { m with load := some { l with done := done } }))).modCore u.core (fun c => { c with w := (x.core u.core).w })
            ∧ (l.ok = false → (x.core u.core).w = (s.core u.core).w)
            ∧ (l.ok = true → (∀ i, l.done ≤ i → i < done → i < l.total →
                  bufGet (x.core u.core).w (at_ i) w = if a.ok (i - l.done) then a.val (i - l.done) % 2 ^ w else 0)
                ∧ ∀ p, p % w = 0 → (p < at_ l.done ∨ at_ (min done l.total) ≤ p) →
                    bufGet (x.core u.core).w p w = bufGet (s.core u.core).w p w))

/-- R277: MDRN and MCLR act once for each trigger, a row in a step. Model's choices it rests on: assumption log 49. -/
def Obligations.DrainAndClearResults : Prop :=
  ∀ (s : State) (u : UnitAt) (r : Region) (e : EWord), UnitTurn s u r →
    let q := e.aux.toNat % 4
    let rows := (r.cRange q).2
    let st := (r.cell u.cell).unitState u.router
    let clears := e.aux.toNat / 2 ^ 4 % 2 = 1
    -- the row `next` of a trigger t, `left` rows of `total` still to come with it
    let turn (t : Token) (next left total : Nat) (ins : List (BitVec 8)) : Prop :=
      let base := (r.cRange q).1 + 64 * next
      let st' : UnitState := if left = 1 then .idle else .rows (next + 1) (left - 1) total t
      let drained : Token := { policy := t.policy, iter := t.iter, last := decide (left = 1), fmt := e.fmt,
                               lanes := (List.range 64).map fun j => laneOfWord ((s.core u.core).cWord (base + j)) }
      let cleared : Option Token := if left = 1 then some { t with kind := .control, fmt := 7, lanes := [codeLane total] } else none
      (outputsFree r e (some drained) none → ∃ x, exec (.mdrn e) s = .next x ∧ ChangesC s x u (firedRegion r u e ins st' (some drained) none)
          ∧ (clears → RowOfC s x u.core base fun _ => (0, true)) ∧ (¬clears → (x.core u.core).c = (s.core u.core).c))
        ∧ (¬outputsFree r e (some drained) none → exec (.mdrn e) s = .next s)
        ∧ (outputsFree r e cleared none → ∃ x, exec (.mclr e) s = .next x ∧ ChangesC s x u (firedRegion r u e ins st' cleared none)
            ∧ RowOfC s x u.core base fun _ => (0, true))
        ∧ (¬outputsFree r e cleared none → exec (.mclr e) s = .next s)
    (∀ next left total t, st = .rows next left total t → turn t next left total [])
      ∧ (∀ t, st = .idle → r.headAt e.a = some t →
          let v := t.val 0 % 2 ^ 32
          let first := v % 2 ^ 16
          let count := if v / 2 ^ 16 = 0 then rows - first else min (v / 2 ^ 16) (rows - first)
          (t.ok 0 = true → first < rows → turn t first count count [e.a])
            ∧ (t.ok 0 = false ∨ rows ≤ first →
                FiresIn (.mdrn e) s u r e [e.a] .idle
                    (some { kind := .void, policy := t.policy, iter := t.iter, last := true, fmt := e.fmt, lanes := [⟨0, false⟩] }) none
                  ∧ FiresIn (.mclr e) s u r e [e.a] .idle (some { t with kind := .control, fmt := 7, lanes := [codeLane 0] }) none))

/-- R284 to R286: STLD and STST over the stream map and the state slots of their core. Model's choices it rests on: assumption log 30, 79. -/
def Obligations.CarriedStateResults : Prop :=
  ∀ (s : State) (u : UnitAt) (r : Region) (e : EWord), UnitTurn s u r →
    let c := s.core u.core
    let full := laneCount e.fmt
    let becomes (i : Instr) (ins : List (BitVec 8)) (o0 : Token) (c' : CoreState) (fresh : Nat) : Prop :=
      (outputsFree r e (some o0) none → exec i s = .next ({ s with fresh := fresh }.setCore u.core
          { c' with regions := c'.regions.set u.region (firedRegion r u e ins .idle (some o0) none) }))
        ∧ (¬outputsFree r e (some o0) none → exec i s = .next s)
    let isFree (n : Nat) : Prop := n < c.stateSlots ∧ ∀ y ∈ c.streams, y.slot ≠ some n
    -- STLD
    (∀ t, r.headAt e.a = some t →
        let sid := t.val 0 % 2 ^ 32
        let zeros : Bool := t.ok 1 && decide (t.val 1 % 2 = 1)
        let held (bits : Nat) : Token := { t with kind := .data, fmt := e.fmt, lanes := lanesOf e.fmt (if zeros then 0 else bits) full }
        (t.ok 0 = false → FiresIn (.stld e) s u r e [e.a] .idle
            (some { t with kind := .void, fmt := e.fmt, lanes := List.replicate full ⟨0, false⟩ }) none)
          ∧ (∀ y, t.ok 0 = true → c.stream r.ctx sid = some y → (y.isOpen = true ∨ y.slot = none) → exec (.stld e) s = .next s)
          ∧ (∀ y n, t.ok 0 = true → c.stream r.ctx sid = some y → y.isOpen = false → y.slot = some n →
              becomes (.stld e) [e.a] (held (c.slotBits n))
                (if e.aux.toNat / 2 % 2 = 1 then c else c.setStream { y with isOpen := true }) s.fresh)
          ∧ (t.ok 0 = true → c.stream r.ctx sid = none →
              ((4096 ≤ c.streams.length ∨ ∀ n, ¬isFree n) → exec (.stld e) s = .next s)
                ∧ (∀ k, c.streams.length < 4096 → isFree k → ∃ n, isFree n ∧
                    becomes (.stld e) [e.a] (held 0)
                      ((c.setStream { ctx := r.ctx, id := sid, slot := some n, isOpen := decide (e.aux.toNat / 2 % 2 = 0) }).putSlot n 0) s.fresh)))
      -- STST
      ∧ (∀ t d, e.k = false → r.headAt e.a = some t → r.headAt e.b = some d →
          let sid := d.val 0 % 2 ^ 32
          let done (l : Lane) : Token := { t with kind := .control, fmt := 7, lanes := [l] }
          (d.ok 0 = false → FiresIn (.stst e) s u r e [e.a, e.b] .idle (some (done ⟨0, false⟩)) none)
            ∧ (d.ok 0 = true → e.aux.toNat % 2 = 1 →
                becomes (.stst e) [e.a, e.b] (done ⟨0xFFFF_FFFF_FFFF_FFFF, true⟩)
                  { c with streams := c.streams.filter fun y => !(decide (y.ctx = r.ctx) && decide (y.id = sid)) } s.fresh)
            ∧ (∀ y n, d.ok 0 = true → e.aux.toNat % 2 = 0 → c.stream r.ctx sid = some y → y.slot = some n → (∀ l ∈ t.lanes, l.ok = true) →
                becomes (.stst e) [e.a, e.b] (done (codeLane n))
                  ((c.putSlot n (packFrom e.fmt 0 (t.lanes.take full))).setStream { y with isOpen := false, save := 0 }) (s.fresh + t.count))
            ∧ (∀ k, d.ok 0 = true → e.aux.toNat % 2 = 0 → isFree k → (∀ l ∈ t.lanes, l.ok = true) →
                (c.stream r.ctx sid = none ∧ c.streams.length < 4096 ∨ ∃ y, c.stream r.ctx sid = some y ∧ y.slot = none) →
                ∃ n, isFree n ∧ becomes (.stst e) [e.a, e.b] (done (codeLane n))
                  ((c.putSlot n (packFrom e.fmt 0 (t.lanes.take full))).setStream
                    { ctx := r.ctx, id := sid, slot := some n, save := 0, isOpen := false }) (s.fresh + t.count)))

namespace Sys2Proof.Machine

/-- i is the word e as this AG operation (R153). -/
def AgWord (i : Instr) (op : AgOp) (e : EWord) : Prop :=
  i = .agld e ∧ op = .load ∨ i = .agst e ∧ op = .store ∨ i = .aguf e ∧ op = .unfold (e.aux.getLsbD 4)
    ∨ i = .agga e ∧ op = (if e.aux.getLsbD 4 then .scatter else .gather)

/-- The instruction completes with this AG state in its cell, heads consumed, and a token placed. -/
def AgGoes (i : Instr) (s : State) (u : UnitAt) (r : Region) (ag : AgState) (ins : List (BitVec 8)) (field : BitVec 8)
    (o : Option Token) : Prop :=
  exec i s = .next (s.setRegion u.core u.region
    (((ins.foldl Region.take r).setCell u.cell { r.cell u.cell with ag := ag }).placeAt field o))

/-- Elements of a round that its record fixes (R145, R148). -/
def roundElems (op : AgOp) (sh : Shape) : Nat :=
  match op with
  | .unfold _ => sh.extent 4 * sh.extent 5 * (sh.kh * sh.kw * sh.extent 1)
  | _ => sh.extent 2 * sh.extent 3 * sh.extent 4 * sh.extent 5 * sh.extent 1

/-- The AG has handled every element of its round (R154). -/
def roundOver (ag : AgState) (op : AgOp) (sh : Shape) : Prop :=
  if op = .gather ∨ op = .scatter then ag.ended = true else roundElems op sh ≤ ag.pos

/-- An index token taken: its lanes are rows, none of which is walked where rows hold no element (R154). -/
def indexTaken (ag : AgState) (sh : Shape) (t : Token) : AgState :=
  if t.count = 0 ∨ sh.extent 1 = 0 then { ag with iter := t.iter, policy := t.policy, pos := 0, index := none, ended := t.last }
  else { ag with iter := t.iter, policy := t.policy, pos := 0, index := some (t, 0) }

/-- What lane k of a data token adds to the stores of its token: the bytes of the element, where it lies, the lane's code (R154). -/
def laneStore (s : State) (ctx : Nat) (x : ElemAt) (l : Lane) (w : ElemWrite) : Prop :=
  ∃ pa, s.engineXlat ctx x.va.toNat .write = .ok pa ∧ w = ⟨x.va, pa, x.bytes, x.bit, x.width, l.val.toNat % 2 ^ x.width⟩

/-- Element n of a walk whose elements are whole bytes: base + Σ i(j) × str(j) modulo 2^64, dimension 1 fastest (R145). -/
def walkAddr (sh : Shape) (n : Nat) : Dword :=
  let x (j : Nat) : Nat := n / ((List.range (j - 1)).map fun i => sh.extent (i + 1)).prod % sh.extent j
  BitVec.ofInt 64 (sh.base.toNat + x 1 * sh.stride 1 + x 2 * sh.stride 2 + x 3 * sh.stride 3 + x 4 * sh.stride 4 + x 5 * sh.stride 5)

end Sys2Proof.Machine

/-- R145 to R148, R153 to R155, R208: the five AG operations. Model's choices it rests on: assumption log 30, 36, 49. -/
def Obligations.AddressGeneratorResults : Prop :=
  -- rounds of AGLD, AGST, AGGA and AGUF
  (∀ (i : Instr) (op : AgOp) (s : State) (u : UnitAt) (r : Region) (e : EWord), UnitTurn s u r → AgWord i op e →
      let ag := (r.cell u.cell).ag
      let rec_ := r.shapes.getD (e.aux.toNat % 16) {}
      let go : BitVec 8 := if op = .store then e.b else e.a
      let done : BitVec 8 := if op = .store ∨ op = .scatter then e.o0 else e.o1
      let begun : AgState := { ag with round := some rec_, pos := 0, moved := 0, iter := 0, policy := 0, ended := false }
      -- a token that has been fetched is placed
      (∀ t n rest, ag.ahead = (t, n) :: rest → r.mayWriteAt e.o0 = true →
          AgGoes i s u r { ag with ahead := rest, moved := ag.moved + t.count } [] e.o0 (some t))
        -- behind the round's last element and its last store, the done token
        ∧ (∀ sh, ag.ahead = [] → ag.round = some sh → roundOver ag op sh → ag.token = none → ag.stores = [] →
            r.mayWriteAt done = true →
            AgGoes i s u r { ag with round := none } [] done
              (some { kind := .control, policy := ag.policy, iter := ag.iter, fmt := 7, lanes := [codeLane ag.moved] }))
        ∧ (ag.ahead = [] → ag.round = none →
            -- parameters before rounds
            (∀ p, r.headAt e.c = some p →
                let sel := p.val 0
                let sh := r.shapes.getD (sel % 16) {}
                let field := sel / 16
                let fits : Prop := p.ok 0 = true ∧ p.ok 1 = true ∧ sel < 256 ∧ sel % 16 < r.shapes.length
                  ∧ (field = 0 ∧ p.val 1 < 2 ^ 56 ∨ 1 ≤ field ∧ field ≤ 5 ∧ p.val 1 < 2 ^ 32)
                (fits → exec i s = .next (s.setRegion u.core u.region { r.take e.c with
                    shapes := r.shapes.set (sel % 16)
                      (if field = 0 then { sh with base := BitVec.ofNat 64 (p.val 1) } else { sh with ext := sh.ext.set (field - 1) (p.val 1) }) }))
                  ∧ (¬fits → exec i s = .next (s.setRegion u.core u.region { r.take e.c with sumParam := true })))
              ∧ (r.headAt e.c = none →
                  (op ≠ .gather ∧ op ≠ .scatter →
                    (∀ t, go ≠ 0xFF → r.headAt go = some t →
                        AgGoes i s u r { begun with iter := t.iter, policy := t.policy } [go] 0xFF none)
                      ∧ (∀ n, go = 0xFF → ag.rounds = n + 1 → AgGoes i s u r { begun with rounds := n } [] 0xFF none)
                      ∧ (go ≠ 0xFF ∧ r.headAt go = none ∨ go = 0xFF ∧ ag.rounds = 0 → exec i s = .next s))
                    ∧ (op = .gather ∨ op = .scatter →
                        (∀ t, r.headAt e.a = some t → AgGoes i s u r (indexTaken begun rec_ t) [e.a] 0xFF none)
                          ∧ (r.headAt e.a = none → exec i s = .next s))))
        -- the next index token of a round
        ∧ (∀ sh t, ag.ahead = [] → ag.round = some sh → op = .gather ∨ op = .scatter → ag.ended = false → ag.index = none →
            r.headAt e.a = some t → AgGoes i s u r (indexTaken ag sh t) [e.a] 0xFF none)
        -- a data token of AGST: a lane for each of the next elements, in order
        ∧ (∀ sh t, i = .agst e → ag.ahead = [] → ag.round = some sh → ag.fault = none → ag.token = none → ag.stores.length < 64 →
            ag.pos < roundElems op sh → r.headAt e.a = some t →
            let n := min t.count (roundElems op sh - ag.pos)
            let x (k : Nat) : ElemAt := sh.elem (ag.pos + k)
            let live := (List.range n).filter fun k => t.ok k
            ∀ ws : List ElemWrite, (∀ k, k < n → (x k).fault = none) →
              (∀ k, k < n → t.ok k = true → r.owns u.cell (x k) = true) →
              ws.length = live.length →
              (∀ m, m < live.length → ∀ w, ws[m]? = some w →
                laneStore s r.ctx (x (live.getD m 0)) (t.lane (live.getD m 0)) w) →
              let p : PendStore := { writes := ws, iter := t.iter, inScope := (r.link e.a.toNat).scope }
              AgGoes i s u r { ag with
                pos := ag.pos + n, moved := ag.moved + n, iter := t.iter, policy := t.policy
                stores := if ws = [] ∨ ((r.link e.a.toNat).scope = true ∧ r.mask.getLsbD t.iter = true) then ag.stores
                  else ag.stores ++ [p] } [e.a] 0xFF none))
    -- where the elements of a walk lie
    ∧ (∀ (sh : Shape) (n : Nat), sh.fmt.toNat ≠ 0xD → sh.fmt.toNat ≠ 0xE → sh.fmt.toNat ≠ 0xF → n < roundElems .load sh →
        sh.elem n = ⟨walkAddr sh n, laneWidth sh.fmt / 8, 0, laneWidth sh.fmt,
          decide ((walkAddr sh n).toNat % (laneWidth sh.fmt / 8) = 0)⟩)
    -- AGEP
    ∧ (∀ (s : State) (u : UnitAt) (r : Region) (e : EWord), UnitTurn s u r →
        let ag := (r.cell u.cell).ag
        (∀ h rest, ag.handles = h :: rest → r.mayWriteAt e.o0 = true →
            AgGoes (.agep e) s u r { ag with handles := rest } [] e.o0 (some { h with iter := ag.iter, policy := ag.policy }))
          ∧ (ag.handles = [] → ag.append ≠ none → exec (.agep e) s = .next s)
          ∧ (∀ t, ag.handles = [] → ag.append = none → r.headAt e.a = some t →
              let row := ag.payload ++ t.lanes.map fun l => if t.kind = .void then (⟨0, false⟩ : Lane) else l
              (t.last = false → AgGoes (.agep e) s u r { ag with payload := row } [e.a] 0xFF none)
                ∧ (t.last = true → e.c ≠ 0xFF → r.headAt e.c = none → exec (.agep e) s = .next s)
                ∧ (t.last = true → (∀ l ∈ row, l.ok = true) → (∀ q ∈ s.firn.reqs, q.op.evented = true) → ∀ salience : Nat,
                    (e.c = 0xFF ∧ salience = 0 ∨ ∃ x, e.c ≠ 0xFF ∧ r.headAt e.c = some x ∧ x.ok 0 = true ∧ salience = x.val 0 % 256) →
                    ∃ x, exec (.agep e) s = .next x
                      ∧ x = { s.setRegion u.core u.region ((([e.a, e.c].foldl Region.take r)).setCell u.cell
                                { r.cell u.cell with ag := { ag with payload := [], append := some s.firn.nextId, iter := t.iter, policy := t.policy } })
                              with fresh := x.fresh, firn := x.firn }
                      ∧ x.firn.nextId = s.firn.nextId + 1
                      ∧ ∃ q, x.firn.reqs = s.firn.reqs ++ [q] ∧ q.id = s.firn.nextId ∧ q.ctx = r.ctx
                          ∧ q.op = .append e.konst 0 salience
                          ∧ q.inline_ = some (leBytes ((dataBits e.fmt row.length + 7) / 8) (packFrom e.fmt 0 row)))))

namespace Sys2Proof.Machine

/-- i is the command f as this port command (R163 to R165). -/
def PortWord (i : Instr) (op : PortOp) (f : Cmd) : Prop :=
  i = .lds f ∧ op = .lds ∨ i = .sts f ∧ op = .sts ∨ i = .gth f ∧ op = .gth ∨ i = .sct f ∧ op = .sct ∨ i = .unf f ∧ op = .unf

/-- The response of command c is this word; s1 is the state but for it. -/
def Answers (i : Instr) (s : State) (c : Command) (s1 : State) (status value : Nat) : Prop :=
  exec i s = .next (s1.finishCommand c.uid (BitVec.ofNat 64 (status + value * 2 ^ 8)))

/-- The same with a value that no rule gives: a free value of the model's, drawn once. -/
def AnswersOpen (i : Instr) (s : State) (c : Command) (s1 : State) (status : Nat) : Prop :=
  ∃ v, exec i s = .next ({ s1 with fresh := s1.fresh + 1 }.finishCommand c.uid (BitVec.ofNat 64 (status + v * 2 ^ 8)))

/-- The command has begun, or gone on, with this progress. -/
def Begins (i : Instr) (s s1 : State) (c : Command) (p : CmdProg) : Prop :=
  exec i s = .next { s1 with
    cmds := s1.cmds.map fun (x : Command) => if x.uid = c.uid then { x with stage := .running, prog := p } else x }

/-- The walk of a port command on a link of its port (R146, R164, R165). -/
def CommandWalks (op : PortOp) (f : Cmd) (l : Link) (shapes : List Shape) (sh : Shape) : Prop :=
  let w : Nat := laneWidth l.fmt
  let packed : Prop := l.fmt.toNat = 0xD ∨ l.fmt.toNat = 0xE ∨ l.fmt.toNat = 0xF
  if (op = .lds ∨ op = .sts) ∧ f.s = false then
    sh = { base := f.addr, ext := [f.operand.toNat], str := [if packed then 0 else ((w / 8 : Nat) : Int)], ndims := 1, fmt := l.fmt }
  else ∃ x, shapes[f.operand.toNat % 16]? = some x ∧ x.fmt = l.fmt ∧ l.coded = false
    ∧ (match op with
      | .gth => sh = x
      | .sct => sh = x
      | .unf => sh = { x with base := f.addr } ∧ x.ndims = 5 ∧ 0 < x.kw ∧ 0 < x.kh ∧ 0 < x.sx ∧ 0 < x.sy ∧ 0 < x.dx ∧ 0 < x.dy
      | _ => sh = { x with base := if f.addr = 0 then x.base else f.addr })

/-- Elements of a port command's walk. -/
def commandElems (op : PortOp) (f : Cmd) (sh : Shape) : Nat :=
  match op with
  | .gth => f.operand.toNat / 16 * sh.extent 1
  | .sct => f.operand.toNat / 16 * sh.extent 1
  | .unf => sh.extent 4 * sh.extent 5 * (sh.kh * sh.kw * sh.extent 1)
  | _ => sh.extent 2 * sh.extent 3 * sh.extent 4 * sh.extent 5 * sh.extent 1

/-- The done value at the end of the walk: elements, or rows (R163 to R165). -/
def doneValue (op : PortOp) (f : Cmd) (sh : Shape) : Nat :=
  match op with
  | .gth => f.operand.toNat / 16
  | .sct => f.operand.toNat / 16
  | .unf => sh.extent 4 * sh.extent 5
  | _ => commandElems op f sh

end Sys2Proof.Machine

/-- R46, R146, R154, R160 to R165: the turns of the port commands. Model's choices it rests on: assumption log 50, 51. -/
def Obligations.PortCommandResults : Prop :=
  ∀ (i : Instr) (op : PortOp) (f : Cmd) (s : State) (c : Command), s.myCommand = some c → PortWord i op f →
    let port := f.dest.toNat
    let core := s.core c.core
    let kept := (core.port port).saved
    let b : Binding := if op = .sts ∨ op = .sct then .output port else .input port
    let resumes : Prop := f.flags.toNat / 2 % 2 = 1
    let fits (v : SavedCmd) : Prop := v.opcode = op.opcode ∧ v.operand = f.operand ∧ v.addr = f.addr
    let s1 := s.setCore c.core (core.setPort port { core.port port with saved := none })
    -- the start
    (c.stage = .waiting →
        (resumes → (∀ v, kept = some v → ¬fits v) → AnswersOpen i s c s 0x01)
          ∧ (¬resumes → core.portLink c.ctx b = none → core.portAway c.ctx b = false → Answers i s c s1 0x06 0x20)
          ∧ (∀ region link r, ¬resumes → core.portLink c.ctx b = some (region, link) → s.region c.core region = some r →
              ((∀ sh, ¬CommandWalks op f (r.link link) r.shapes sh) → Answers i s c s1 0x06 0x21)
                ∧ (∀ sh, CommandWalks op f (r.link link) r.shapes sh →
                    (((op = .gth ∨ op = .sct) ∨ (r.link link).coded = true) → f.addr.toNat % 4 ≠ 0 → Answers i s c s1 0x04 0x02)
                      ∧ (((op = .gth ∨ op = .sct) ∨ (r.link link).coded = true → f.addr.toNat % 4 = 0) →
                          (commandElems op f sh = 0 → Answers i s c s1 0x00 (doneValue op f sh))
                            ∧ (0 < commandElems op f sh → Begins i s s1 c { shape := some sh, region := region, link := link }))))
          ∧ (∀ region link r sh v, resumes → kept = some v → fits v → v.block = 0 → v.blockAt = 0 →
              core.portLink c.ctx b = some (region, link) → s.region c.core region = some r →
              CommandWalks op f (r.link link) r.shapes sh →
              ((op = .gth ∨ op = .sct) ∨ (r.link link).coded = true → f.addr.toNat % 4 = 0) → v.restart < commandElems op f sh →
              ∃ p, Begins i s s1 c p ∧ p.pos = v.restart ∧ p.moved = v.restart ∧ p.token = v.token.map (fun t => (t, 0))
                ∧ p.shape = some sh ∧ p.region = region ∧ p.link = link ∧ p.ahead = [] ∧ p.stores = []
                ∧ (op = .gth ∨ op = .sct → p.entry = v.restart / sh.extent 1 ∧ p.rowPos = v.restart % sh.extent 1)))
      -- a command under way whose port is still bound
      ∧ (∀ sh r, c.stage = .running → c.prog.shape = some sh → s.region c.core c.prog.region = some r → r.ctx = c.ctx →
          (r.link c.prog.link).binding = b →
          -- LDS, GTH and UNF deliver what they have fetched, then end
          (op = .lds ∨ op = .gth ∨ op = .unf →
            (∀ t x rest, c.prog.ahead = (t, x) :: rest →
                (s.feedable c.core port c.prog.region c.prog.link .stream = true →
                  Begins i s (s.feed c.core port c.prog.region c.prog.link .stream t) c
                    { c.prog with ahead := rest, moved := c.prog.moved + min t.count (commandElems op f sh - c.prog.moved) })
                  ∧ (s.feedable c.core port c.prog.region c.prog.link .stream = false → exec i s = .next s))
              ∧ (c.prog.ahead = [] → c.prog.stop = none → commandElems op f sh ≤ c.prog.pos →
                  (∀ k, c.prog.poison = some k → Answers i s c s 0x05 (k * 2 ^ 8))
                    ∧ (∀ k, c.prog.poison = none → c.prog.badBlock = some k → Answers i s c s 0x06 (0x01 + k * 2 ^ 8))
                    ∧ (c.prog.poison = none → c.prog.badBlock = none → Answers i s c s 0x00 (match op with
                        | .gth => c.prog.entry
                        | .unf => sh.extent 4 * sh.extent 5
                        | _ => c.prog.moved)))
              ∧ (∀ cause at_, c.prog.ahead = [] → c.prog.stop = some (cause, at_) → cause ≠ 0x07 →
                  let left : SavedCmd := { opcode := op.opcode, operand := f.operand, addr := f.addr, restart := at_, token := none,
                                           block := c.prog.tokBlock, blockAt := c.prog.tokAt }
                  Answers i s c (s.setCore c.core (core.setPort port { core.port port with saved := some left })) 0x04
                    (cause + at_ * 2 ^ 8)))
            -- STS and SCT take a token, store it, and end once their stores have been accepted
            ∧ (op = .sts ∨ op = .sct → c.prog.stop = none → c.prog.blockEnd = false →
                (commandElems op f sh ≤ c.prog.pos → c.prog.stores = [] → c.prog.poison = none → c.prog.badBlock = none →
                    Answers i s c s 0x00 (if op = .sct then c.prog.entry else c.prog.moved))
                  ∧ (commandElems op f sh ≤ c.prog.pos → c.prog.stores ≠ [] → exec i s = .next s)
                  ∧ (∀ t row, c.prog.pos < commandElems op f sh → c.prog.token = none → (r.link c.prog.link).head = some t →
                      (core.port port).readPos = 0 → s.portWaiters c.core port = [] →
                      (op = .sct → c.prog.row = some (some row) ∧ c.prog.rowPos + t.count < sh.extent 1
                        ∧ c.prog.pos + t.count < commandElems op f sh) →
                      let n := min t.count (commandElems op f sh - c.prog.pos)
                      let x (k : Nat) : ElemAt :=
                        if op = .sct then rowElem sh.fmt row (sh.stride 1) (c.prog.rowPos + k) else sh.elem (c.prog.pos + k)
                      let live := (List.range n).filter fun k => t.ok k
                      ∀ ws : List ElemWrite, (∀ k, k < n → (x k).fault = none) → ws.length = live.length →
                        (∀ m, m < live.length → ∀ w, ws[m]? = some w →
                          laneStore s c.ctx (x (live.getD m 0)) (t.lane (live.getD m 0)) w) →
                        Begins i s (s.setRegion c.core c.prog.region (r.setLink c.prog.link (r.link c.prog.link).pop).squash) c
                          { c.prog with
                            pos := c.prog.pos + n, moved := c.prog.moved + n
                            rowPos := if op = .sct then c.prog.rowPos + n else c.prog.rowPos
                            stores := if ws = [] then c.prog.stores else c.prog.stores ++ [{ writes := ws }] })))

namespace Sys2Proof.Machine

/-- A range in one line that an engine reads at once (R143): readable, at hand, not poisoned; its bytes. -/
def EngineReads (s : State) (ctx va n : Nat) (bs : List Byte) : Prop :=
  ∃ pa, s.engineRange ctx va n .read = .ok [(va, pa, n)] ∧ (isMain pa = true → s.resident (pa / 128) = true)
    ∧ s.poisoned pa n = false ∧ bs = s.mem.bytes pa n

/-- A range in one line that an engine writes at once. -/
def EngineWrites (s : State) (ctx va n pa : Nat) : Prop :=
  s.engineRange ctx va n .write = .ok [(va, pa, n)] ∧ (isMain pa = true → s.resident (pa / 128) = true) ∧ s.rimes = []
    ∧ s.mem.wf = true

/-- x is s with bytes written at a physical address, every other byte of memory and all else but the lines' marks as before. -/
def Wrote (s x : State) (pa : Nat) (bs : List Byte) : Prop :=
  x = { s with mem := x.mem, slice := x.slice } ∧ (∀ j, j < bs.length → x.mem.read (pa + j) = bs.getD j 0)
    ∧ memoryUnchangedBut s x fun a => pa ≤ a ∧ a < pa + bs.length

/-- Command c, f as decoded, is under way and its agent's reply comes (R149). -/
def Replies (s : State) (c : Command) (i : Instr) : Prop :=
  s.cmds.find? (fun x => decide (x.uid = c.uid)) = some c ∧ c.stage = .running ∧ s.stopped c.core c.ctx = false
    ∧ decodeCommand c.bits = .ok i ∧ portOpOf c.opcode = none

/-- The doublewords of bytes, little-endian. -/
def dwordsAt (bs : List Byte) (n : Nat) : List Dword :=
  (List.range n).map fun i => BitVec.ofNat 64 (leNat ((bs.drop (8 * i)).take 8))

/-- A collective of its group. -/
def ColWord (i : Instr) (op : ColOp) (f : Cmd) : Prop :=
  i = .colAllReduce f ∧ op = .allReduce ∨ i = .colAllGather f ∧ op = .allGather ∨ i = .colReduceScatter f ∧ op = .reduceScatter

/-- The sum of ranks' elements: ascending, each step rounded to F32, converted once (R169). -/
def sumOfRanks (fm : FFmt) (xs : List Nat) : Nat :=
  (roundVal fm .rne .byMode (val32 (xs.foldl (fun a x => round32 (fsum .rne [val32 a, unpack fm x])) 0))).bits

end Sys2Proof.Machine

/-- R166 to R169, R415: CPY, CPYL, FIL and COL, their starts and their agents' steps. Model's choices it rests on: assumption log 16, 51, 52, 88. -/
def Obligations.CopyCommandResults : Prop :=
  -- starts
  (∀ (s : State) (c : Command) (f : Cmd), s.myCommand = some c → c.stage = .waiting →
      (∀ i : Instr, i = .cpy f ∨ i = .cpyl f →
          let bad : Prop := f.addr.toNat % 32 ≠ 0 ∨ (i = .cpyl f ∧ (f.operand.toNat = 0 ∨ 65536 < f.operand.toNat))
          (bad → AnswersOpen i s c s 0x01) ∧ (¬bad → Begins i s s c {}))
        ∧ (f.addr.toNat % 16 ≠ 0 ∨ f.operand.toNat % 8 ≠ 0 → AnswersOpen (.fil f) s c s 0x01)
        ∧ (f.addr.toNat % 16 = 0 → f.operand.toNat % 8 = 0 → Begins (.fil f) s s c {})
        ∧ (∀ i op, ColWord i op f →
            let n := f.dest.toNat - 0x200
            let g := s.host.groups.getD n {}
            let configured : Prop := 2 ≤ g.members ∧ g.members ≤ 1024 ∧ g.rank < g.members ∧ g.ports ≠ 0
            let up : Prop := ∀ p, p < 16 → g.ports / 2 ^ p % 2 = 1 → (s.host.links.getD p {}).up = true
            let joined := { s with host := { s.host with groups := s.host.groups.set n { g with joined := g.joined + 1 } } }
            (f.addr.toNat % 32 = 0 → ¬configured → Answers i s c s 0x06 0x22)
              ∧ (f.addr.toNat % 32 = 0 → configured → ¬up → Answers i s c s 0x06 0x23)
              ∧ (f.addr.toNat % 32 = 0 → configured → up →
                  (f.operand = 0 → AnswersOpen i s c joined 0x00) ∧ (f.operand ≠ 0 → Begins i s joined c { round := g.joined }))))
    -- a command under way has nothing to do in its own turn
    ∧ (∀ (s : State) (c : Command) (f : Cmd) (i : Instr), s.myCommand = some c → c.stage = .running →
        i ∈ [Instr.cpy f, .cpyl f, .fil f, .colAllReduce f, .colAllGather f, .colReduceScatter f] → exec i s = .next s)
    -- a copy: descriptor, pieces of at most a line read and written, the checksum of a chain, the done value
    ∧ (∀ (s : State) (c : Command) (f : Cmd) (i : Instr), i = .cpy f ∨ i = .cpyl f → Replies s c i →
        let p := c.prog
        let me : Instr := .streamReply c.core (.command c.uid)
        let entries : Nat := if i = .cpyl f then f.operand.toNat else 1
        (∀ bs, p.desc = none → EngineReads s c.ctx (f.addr.toNat + 32 * p.entry) 32 bs →
            let d := dwordsAt bs 4
            let w (k : Nat) : Nat := (d.getD k 0).toNat
            let ok : Prop := w 0 < 2 ^ 56 ∧ w 1 < 2 ^ 56 ∧ w 2 < 2 ^ 33 ∧ w 3 < 2 ^ 56 ∧ (f.cks = true → w 3 % 4 = 0)
            (ok → Begins me s s c { p with desc := some d, pos := 0 }) ∧ (¬ok → Answers me s c s 0x01 (p.entry * 2 ^ 8)))
          ∧ (∀ d, p.desc = some d →
              let w (k : Nat) : Nat := (d.getD k 0).toNat
              let len := w 2 % 2 ^ 32
              let closes : Prop := w 2 / 2 ^ 32 % 2 = 0
              let n := min (len - p.pos) (min (128 - (w 0 + p.pos) % 128) (128 - (w 1 + p.pos) % 128))
              (∀ bs, p.pos < len → p.held = none → EngineReads s c.ctx (w 0 + p.pos) n bs →
                  ∃ hs, hs.length = bs.length ∧ Begins me s { s with fresh := s.fresh + n } c { p with held := some hs }
                    ∧ ∀ j, j < n → ¬(w 0 ≤ w 1 + p.pos + j ∧ w 1 + p.pos + j < w 0 + len) → hs.getD j 0 = bs.getD j 0)
                ∧ (∀ hs pa, p.pos < len → p.held = some hs → EngineWrites s c.ctx (w 1 + p.pos) hs.length pa →
                    ∃ x, Wrote s x pa hs
                      ∧ Begins me s x c { p with pos := p.pos + hs.length, held := none, crc := if f.cks then crcUpdate p.crc hs else p.crc })
                ∧ (len ≤ p.pos →
                    let next : CmdProg := { p with entry := p.entry + 1, desc := none, pos := 0, held := none,
                                                   crc := if w 2 / 2 ^ 32 % 2 = 0 then 0xFFFFFFFF else p.crc, moved := p.moved + len }
                    let goes (x : State) : Prop :=
                      if entries ≤ p.entry + 1 then Answers me s c x 0x00 (if i = .cpyl f then p.entry + 1 else len)
                      else Begins me s x c next
                    (¬(f.cks = true ∧ closes ∧ w 3 ≠ 0) → goes s)
                      ∧ (∀ pa, f.cks = true → closes → w 3 ≠ 0 → EngineWrites s c.ctx (w 3) 4 pa →
                          ∃ x, Wrote s x pa (leBytes 4 (p.crc ^^^ 0xFFFFFFFF).toNat) ∧ goes x))))
    -- a fill
    ∧ (∀ (s : State) (c : Command) (f : Cmd), Replies s c (.fil f) →
        let p := c.prog
        let me : Instr := .streamReply c.core (.command c.uid)
        (∀ bs, p.desc = none → EngineReads s c.ctx f.addr.toNat 16 bs →
            let d := dwordsAt bs 2
            ((d.getD 0 0).toNat % 8 ≠ 0 → AnswersOpen me s c s 0x01)
              ∧ ((d.getD 0 0).toNat % 8 = 0 → (f.operand = 0 → Answers me s c s 0x00 0)
                  ∧ (f.operand ≠ 0 → Begins me s s c { p with desc := some d })))
          ∧ (∀ d pa, p.desc = some d → p.pos < f.operand.toNat → f.operand.toNat % 8 = 0 → p.pos % 8 = 0 → (d.getD 0 0).toNat % 8 = 0 →
              let n := min (f.operand.toNat - p.pos) (128 - ((d.getD 0 0).toNat + p.pos) % 128)
              EngineWrites s c.ctx ((d.getD 0 0).toNat + p.pos) n pa →
              ∃ x, Wrote s x pa ((List.range n).map fun j => (d.getD 1 0).extractLsb' (8 * (j % 8)) 8)
                ∧ (if f.operand.toNat ≤ p.pos + n then Answers me s c x 0x00 f.operand.toNat
                   else Begins me s x c { p with pos := p.pos + n })))
    -- a collective: one element received at a time
    ∧ (∀ (s : State) (c : Command) (f : Cmd) (i : Instr) (op : ColOp), ColWord i op f → Replies s c i →
        let p := c.prog
        let me : Instr := .streamReply c.core (.command c.uid)
        let group := f.dest.toNat - 0x200
        let g := s.host.groups.getD group {}
        let n := f.operand.toNat
        let fm : FFmt := if f.flags.toNat / 4 % 2 = 1 then f32 else bf16
        let w : Nat := if f.flags.toNat / 4 % 2 = 1 then 4 else 2
        let total : Nat := if op = .allGather then g.members * n else n
        (∀ bs, p.desc = none → EngineReads s c.ctx f.addr.toNat 32 bs → Begins me s s c { p with desc := some (dwordsAt bs 2) })
          ∧ (∀ d, p.desc = some d → total ≤ p.pos →
              if Config.peerAgrees group p.round then AnswersOpen me s c s 0x00
              else Answers me s c { s with fresh := s.fresh + total } 0x06 0x22)
          ∧ (∀ d pa bs own, p.desc = some d → p.pos < total →
              let k : Nat := match op with
                | .allReduce => p.pos
                | .allGather => p.pos % n
                | .reduceScatter => g.rank * n + p.pos
              (op = .allGather → p.pos / n ≠ g.rank → own = 0) →
              (op ≠ .allGather ∨ p.pos / n = g.rank → EngineReads s c.ctx ((d.getD 0 0).toNat + w * k) w bs ∧ own = leNat bs) →
              EngineWrites s c.ctx ((d.getD 1 0).toNat + w * p.pos) w pa →
              let of (q : Nat) : Nat :=
                if q = g.rank then own else (Config.peerElement group p.round q k).toNat % 2 ^ (8 * w)
              let value : Nat :=
                if Config.peerAgrees group p.round then
                  (if op = .allGather then of (p.pos / n) else sumOfRanks fm ((List.range g.members).map of))
                else (Config.freeWord (s.fresh + p.pos)).toNat
              ∃ x, Wrote s x pa (leBytes w value) ∧ Begins me s x c { p with pos := p.pos + 1 }))

/-- R170 to R176: CFG, BARC, HAND, DRN, PTCH, TSK and SWS. Model's choices it rests on: assumption log 28, 29, 51. -/
def Obligations.ControlCommandResults : Prop :=
  ∀ (s : State) (c : Command) (f : Cmd), s.myCommand = some c →
    let core := s.core c.core
    let earlier := (s.cmds.filter fun x => decide (x.stream = c.stream)).takeWhile fun x => decide (x.uid ≠ c.uid)
    let done (x : Command) : Prop := ∃ r, x.stage = .done r
    let b := s.sched.barcs.getD c.stream {}
    let skips (skip : Bool) : State :=
      { s with sched := { s.sched with barcs := s.sched.barcs.set c.stream { b with skipping := skip } } }
    let decides (i : Instr) (proceeds : Bool) : Prop := Answers i s c (skips !proceeds) 0x00 (if proceeds then 1 else 0)
    let kind := f.operand.toNat % 16
    let malformed : Prop := 4 ≤ kind ∨ f.operand.toNat / 16 ≠ 0 ∨ (kind ≠ 3 ∧ f.addr ≠ 0) ∨ (kind = 3 ∧ f.addr.toNat % 8 ≠ 0)
    let region := f.dest.toNat - 0x600
    let slotOf (y : StreamEntry) : Prop := y.ctx = c.ctx ∧ y.id = f.operand.toNat
    -- BARC
    (c.stage = .waiting →
        (malformed → b.skipping = false → AnswersOpen (.barc f) s c (skips false) 0x01)
          ∧ (¬malformed → (∃ x ∈ earlier, ¬done x) → exec (.barc f) s = .next s)
          ∧ (¬malformed → (∀ x ∈ earlier, done x) →
              (kind = 0 → decides (.barc f) true) ∧ (kind = 1 → decides (.barc f) !b.cfgBad) ∧ (kind = 2 → decides (.barc f) !b.anyBad)
                ∧ ∀ bs, kind = 3 → EngineReads s c.ctx f.addr.toNat 8 bs → decides (.barc f) (decide (leNat bs ≠ 0))))
      -- CFG
      ∧ (c.stage = .waiting →
          (∀ e, s.readImage c.core c.ctx f.addr = .error e → Answers (.cfg f) s c s e.1 e.2)
            ∧ (∀ g tk, s.readImage c.core c.ctx f.addr = .ok g → s.task c.task = some tk →
                s.sched.queues.getD (queueNo (.fabric c.core)) [] = [] →
                ∃ x, Begins (.cfg f) s x c {} ∧ x = s.setCore c.core (x.core c.core)
                  ∧ x.core c.core = { core with
                      ready := core.ready ++ [{ image := f.addr, ctx := c.ctx, task := c.task, level := tk.priority, cmd := some c.uid,
                                                order := core.readyCfgNo, since := s.tns }]
                      readyCfgNo := core.readyCfgNo + 1 }))
      -- HAND and DRN name a region that is loaded
      ∧ (c.stage = .waiting → core.regions.get? region = none → s.regionAway c.core c.ctx region = false →
          Answers (.hand f) s c s 0x06 0x26 ∧ Answers (.drn f) s c s 0x06 0x26)
      ∧ (∀ r, c.stage = .waiting → core.regions.get? region = some r → r.ctx = c.ctx →
          Begins (.drn f) s s c {}
            ∧ (r.ranges.length ≤ f.operand.toNat → Answers (.hand f) s c s 0x06 0x27)
            ∧ (∀ m, r.ranges[f.operand.toNat]? = some m → m.owner < m.owners.length →
                let old := m.owners.getD m.owner 0
                let next := (m.owner + 1) % m.owners.length
                ((r.cell old).ag.stores ≠ [] → exec (.hand f) s = .next s)
                  ∧ ((r.cell old).ag.stores = [] →
                      Answers (.hand f) s c (s.setRegion c.core region
                        { r with ranges := r.ranges.set f.operand.toNat { m with owner := next } }) 0x00 (m.owners.getD next 0))))
      -- PTCH
      ∧ (∀ n link r, c.stage = .waiting → core.portLink c.ctx (.input f.dest.toNat) = some (n, link) → s.region c.core n = some r →
          let i := f.operand.toNat % 16
          let field := f.operand.toNat / 16 % 16
          let sh := r.shapes.getD i {}
          let s1 := s.setCore c.core (core.setPort f.dest.toNat { core.port f.dest.toNat with saved := none })
          let fits : Prop := field = 0 ∧ f.addr.toNat < 2 ^ 56 ∨ 1 ≤ field ∧ field ≤ 5 ∧ f.addr.toNat < 2 ^ 32
          (r.shapes.length ≤ i → Answers (.ptch f) s c s1 0x06 0x21)
            ∧ (i < r.shapes.length → ¬fits → AnswersOpen (.ptch f) s c s1 0x01)
            ∧ (i < r.shapes.length → fits →
                let sh1 : Shape := if field = 0 then { sh with base := f.addr } else { sh with ext := sh.ext.set (field - 1) f.addr.toNat }
                AnswersOpen (.ptch f) s c (s1.setRegion c.core n { r with shapes := r.shapes.set i sh1 }) 0x00))
      -- TSK: an instance of the node, ready
      ∧ (∀ d g n, c.stage = .waiting → s.engineDwords c.ctx f.addr.toNat 8 = .ok d → s.readTgo c.ctx f.addr.toNat = some g →
          (g.nodes.length ≤ f.operand.toNat → Answers (.tsk f) s c s 0x06 0x24)
            ∧ (g.nodes[f.operand.toNat]? = some n → ∃ x tk, exec (.tsk f) s = .next x
                ∧ x.sched.tasks.get? s.sched.nextTask = some tk ∧ tk.status = .queued ∧ tk.origin = .tsk c.uid ∧ tk.ctx = c.ctx
                ∧ tk.kind = n.kind ∧ tk.priority = n.priority ∧ tk.die = n.die ∧ tk.address = n.dwv 1
                ∧ tk.params = ((List.range 8).map fun j => n.dwv (8 + j))
                ∧ (x.queue tk.queue).getLast? = some ⟨s.sched.nextTask, n.priority, s.tns⟩
                ∧ x.sched.slots = s.sched.slots ∧ x.mem = s.mem ∧ x.strands = s.strands))
      -- SWS, out
      ∧ (c.stage = .waiting → f.addr.toNat % 128 = 0 →
          ((∀ y ∈ core.streams, slotOf y → y.slot = none) → Answers (.swsSwapOut f) s c s 0x00 1)
            ∧ (∀ y n, core.stream c.ctx f.operand.toNat = some y → y.slot = some n → y.isOpen = true →
                exec (.swsSwapOut f) s = .next s)
            ∧ (∀ y n p0 p1 p2 p3, core.stream c.ctx f.operand.toNat = some y → y.slot = some n → y.isOpen = false → s.rimes = [] → s.mem.wf = true →
                s.engineRange c.ctx f.addr.toNat 512 .write = .ok [(f.addr.toNat, p0, 128), (f.addr.toNat + 128, p1, 128),
                  (f.addr.toNat + 256, p2, 128), (f.addr.toNat + 384, p3, 128)] →
                [p0, p1, p2, p3].Nodup → (∀ p ∈ [p0, p1, p2, p3], isMain p = true ∧ p % 128 = 0 ∧ s.resident (p / 128) = true) →
                ∃ x, Answers (.swsSwapOut f) s c (x.modCore c.core fun k => k.setStream { y with slot := none, save := f.addr }) 0x00 0
                  ∧ x = { s with mem := x.mem, slice := x.slice }
                  ∧ (∀ k p, [p0, p1, p2, p3][k]? = some p → ∀ j, j < 128 →
                      x.mem.read (p + j) = BitVec.ofNat 8 (core.slotBits n / 2 ^ (8 * (128 * k + j))))
                  ∧ memoryUnchangedBut s x fun a => ∃ p ∈ [p0, p1, p2, p3], p ≤ a ∧ a < p + 128))
      -- SWS, in
      ∧ (c.stage = .waiting → f.addr.toNat % 128 = 0 →
          (∀ y n, core.stream c.ctx f.operand.toNat = some y → y.slot = some n → Answers (.swsSwapIn f) s c s 0x00 1)
            ∧ ((∀ y, core.stream c.ctx f.operand.toNat = some y → y.slot = none) → core.takeSlot c.ctx f.operand.toNat = none →
                Answers (.swsSwapIn f) s c s 0x06 0x25)
            ∧ (∀ n k ps, (∀ y, core.stream c.ctx f.operand.toNat = some y → y.slot = none) →
                core.takeSlot c.ctx f.operand.toNat = some (n, k) → s.engineRange c.ctx f.addr.toNat 512 .read = .ok ps →
                (∀ p ∈ ps, (isMain p.2.1 = true → s.resident (p.2.1 / 128) = true) ∧ s.poisoned p.2.1 p.2.2 = false) →
                Answers (.swsSwapIn f) s c
                  (s.setCore c.core (k.putSlot n (leNat (ps.flatMap fun p => s.mem.bytes p.2.1 p.2.2)))) 0x00 0))

namespace Sys2Proof.Machine

/-- s with a kick slot (R360). -/
def withSlot (s : State) (slot : Nat) (x : KickSlot) : State :=
  { s with sched := { s.sched with slots := s.sched.slots.set slot x } }

/-- s with a ready queue. -/
def withQueue (s : State) (q : Nat) (xs : List Queued) : State :=
  { s with sched := { s.sched with queues := s.sched.queues.set q xs } }

/-- x heads a queue: of its highest level that holds a node, the first (R366). -/
def HeadsQueue (xs : List Queued) (x : Queued) : Prop :=
  x.level ≤ 7 ∧ (∀ y ∈ xs, y.level ≤ x.level) ∧ xs.find? (fun y => decide (y.level = x.level)) = some x

/-- The vector of a kick slot raised, where it has one. -/
def vectorRaised (s : State) (v : Option Nat) : State :=
  match v with
  | none => s
  | some n => { s with host := { s.host with msix := n :: s.host.msix } }

end Sys2Proof.Machine

/-- R356 to R368: kicks, bindings, replays, dispatch, ageing, and nodes that finish. Model's choices it rests on: assumption log 22, 26, 54, 79. -/
def Obligations.KickAndReplayEffects : Prop :=
  -- KICK
  (∀ (s : State) (slot : Nat) (word : BitVec 64), slot < 131072 →
      let ks := s.kickSlot slot
      let table := word.toNat % 2 ^ 16
      let dropped : Prop := 2 ^ 32 ≤ word.toNat ∨ ks.state = .unbound ∨ (s.ctx ks.ctx).dead = true ∨ ks.pending ≠ none
        ∨ (table ≠ 0xFFFF ∧ ks.tables ≤ table)
      (dropped → exec (.kick slot word) s = .next (withSlot s slot { ks with overruns := min 0xFFFF (ks.overruns + 1) }))
        ∧ (¬dropped → ks.state = .running → exec (.kick slot word) s = .next (withSlot s slot { ks with pending := some word }))
        ∧ (¬dropped → ks.state ≠ .running → exec (.kick slot word) s = .next
            { withSlot s slot { ks with
                state := .running, table := table, replaysLeft := max 1 (word.toNat / 2 ^ 16 % 2 ^ 16), pending := none
                started := false, nodes := [], failing := none, due := s.sched.dueNo } with
              sched := { (withSlot s slot { ks with
                state := .running, table := table, replaysLeft := max 1 (word.toNat / 2 ^ 16 % 2 ^ 16), pending := none
                started := false, nodes := [], failing := none, due := s.sched.dueNo }).sched with dueNo := s.sched.dueNo + 1 } }))
    -- KICK_SLOT_BIND
    ∧ (∀ (s : State) (slot : Nat) (r : KickRecord), slot < 131072 →
        let ks := s.kickSlot slot
        let bound (st : SlotState) (tables : Nat) : KickSlot :=
          { ks with tgo := r.tgo, ctx := r.ctx, vector := r.vector, enable := r.enable, completed := 0, pending := none, state := st,
                    tables := tables }
        (ks.state = .running → exec (.kickSlotBind slot r) s = .next s)
          ∧ (∀ t, ks.state ≠ .running → r.enable = true → s.readTgo r.ctx r.tgo.toNat = some t →
              exec (.kickSlotBind slot r) s = .next (withSlot s slot (bound .idle t.tables)))
          ∧ (ks.state ≠ .running → r.enable = false ∨ s.readTgo r.ctx r.tgo.toNat = none →
              exec (.kickSlotBind slot r) s = .next (withSlot s slot (bound .unbound 0))))
    -- REPLAY_START
    ∧ (∀ (s : State) (slot : Nat),
        let ks := s.kickSlot slot
        let due : Prop := ks.state = .running ∧ ks.started = false ∧ ks.failing = none
        (¬due → exec (.replayStart slot) s = .next s)
          ∧ (due → s.replayNodes slot = none → s.sched.tasks = [] → ks.pending = none →
              exec (.replayStart slot) s = .next (vectorRaised (withSlot s slot
                { ks with state := .failed, code := 0x20, nodes := [], started := false, replaysLeft := 0 }) ks.vector))
          ∧ (∀ ns ps, due → s.replayNodes slot = some (ns, ps) → s.heldBack slot = false → s.depFits ns = false →
              exec (.replayStart slot) s = .next s)
          ∧ (∀ ns ps, due → s.replayNodes slot = some (ns, ps) → s.heldBack slot = false → s.depFits ns = true →
              ∃ t, exec (.replayStart slot) s = .next t ∧ (t.kickSlot slot).started = true ∧ (t.kickSlot slot).state = .running
                ∧ (t.kickSlot slot).nodes = (List.range ns.length).map (fun i =>
                    let n := ns.getD i ⟨[], []⟩
                    { node := i, die := n.die, count := n.preds, task := s.sched.nextTask + i, succs := n.succs })
                ∧ (∀ i n, ns[i]? = some n → ∃ tk, t.task (s.sched.nextTask + i) = some tk ∧ tk.node = i ∧ tk.origin = .replay slot
                    ∧ tk.ctx = ks.ctx ∧ tk.kind = n.kind ∧ tk.priority = n.priority ∧ tk.address = n.dwv 1
                    ∧ tk.status = (if n.preds = 0 then .queued else .waiting))
                ∧ t.mem = s.mem ∧ t.strands = s.strands ∧ t.records = s.records))
    -- NODE_DISPATCH
    ∧ (∀ (s : State) (q : QueueId) (x : Queued) (tk : Task),
        let n := queueNo q
        let rest := (s.queue n).filter fun y => decide (y.task ≠ x.task)
        HeadsQueue (s.queue n) x → s.task x.task = some tk → tk.queue = n →
        (∀ sid p, tk.kind = .strand → s.freeSid tk.core = some sid → s.slotFor tk.core tk.ctx .task = some p →
            ∃ t, exec (.nodeDispatch q) s = .next t ∧ t.queue n = rest
              ∧ t.task x.task = some { tk with status := .started, root := some (keyOf tk.core sid) }
              ∧ (let st := t.strand (keyOf tk.core sid)
                 st.pc = tk.address ∧ st.ctx = tk.ctx ∧ st.task = x.task ∧ st.parent = none ∧ st.sys = false ∧ st.scout = false
                   ∧ st.prio = BitVec.ofNat 3 tk.priority ∧ st.ordered = tk.ordered ∧ st.place = .recorded
                   ∧ (∀ i : BitVec 5, st.g i = if 1 ≤ i.toNat ∧ i.toNat ≤ 8 then tk.params.getD (i.toNat - 1) 0 else 0))
              ∧ (∃ r, t.records.get? (keyOf tk.core sid) = some r ∧ r.ready = true ∧ r.kind = .resume ∧ r.pc = tk.address)
              ∧ StrandsBut s t [keyOf tk.core sid])
          ∧ (tk.kind = .strand → s.freeSid tk.core = none ∨ s.slotFor tk.core tk.ctx .task = none →
              exec (.nodeDispatch q) s = .next s)
          ∧ (tk.kind = .fabric → ∃ t, exec (.nodeDispatch q) s = .next t ∧ t.queue n = rest
              ∧ t.task x.task = some { tk with offered := true }
              ∧ (t.core tk.core).ready = (s.core tk.core).ready ++ [
                  { image := (tk.params.takeWhile (· ≠ 0)).getD tk.done 0, ctx := tk.ctx, task := x.task, level := x.level, cmd := none,
                    order := (s.core tk.core).readyCfgNo, since := x.since }]
              ∧ StrandsBut s t [])
          ∧ (tk.kind = .copy → ∃ t, exec (.nodeDispatch q) s = .next t ∧ t.queue n = rest
              ∧ t.task x.task = some { tk with status := .started, list := some s.nextUid }
              ∧ (∃ cs, t.cmds = s.cmds ++ cs ∧ cs.length = tk.count
                  ∧ ∀ i c, cs[i]? = some c → c.src = some (tk.address + BitVec.ofNat 64 (16 * i), i, s.nextUid) ∧ c.ctx = tk.ctx
                      ∧ c.task = x.task ∧ c.stream = s.nextUid ∧ c.sid = none ∧ c.stage = .waiting)
              ∧ StrandsBut s t [])
          -- requests without a step of their own are then carried out (drainEp)
          ∧ (∀ rs, tk.kind = .episode ∨ tk.kind = .grammar → s.readRequests tk.ctx tk.address.toNat tk.count = some rs →
              ∃ t, exec (.nodeDispatch q) s = .next t.drainEp ∧ t.queue n = rest
                ∧ t.task x.task = some { tk with status := .started }
                ∧ (∃ qs, t.firn.reqs = s.firn.reqs ++ qs ∧ qs.length = rs.length
                    ∧ ∀ i r, qs[i]? = some r → r.asker = .task x.task ∧ r.ctx = tk.ctx ∧ r.id = s.firn.nextId + i)
                ∧ StrandsBut s t []))
    -- READY_QUEUE_AGEING
    ∧ (∀ (s : State) (q : QueueId) (level : Nat) (x : Queued), level < 7 →
        let interval := s.sched.ageing.getD (queueNo q) 0
        interval ≠ 0 →
        (s.queue (queueNo q)).find? (fun y => decide (y.level = level ∧ y.since + 1000 * interval ≤ s.tns)) = some x →
        exec (.readyQueueAgeing q level) s = .next (withQueue s (queueNo q)
          ((s.queue (queueNo q)).filter (fun y => decide (y.task ≠ x.task)) ++ [⟨x.task, level + 1, s.tns⟩])))
    -- NODE_FINISH
    ∧ (∀ (s : State) (tid : Nat) (tk : Task), s.task tid = some tk → s.taskFinished tid tk = false →
        exec (.nodeFinish tid) s = .next s)
    ∧ (∀ (s : State) (tid slot : Nat) (tk : Task) (d : DepEntry), s.task tid = some tk → tk.origin = .replay slot →
        s.taskFinished tid tk = true →
        let ks := s.kickSlot slot
        ks.failing = none → ks.nodes.find? (fun n => decide (n.task = tid)) = some d →
        let after := ks.nodes.map fun (n : DepEntry) =>
          { n with finished := n.finished || decide (n.task = tid), count := n.count - (d.succs.filter fun k => decide (k = n.node)).length }
        let fresh := (after.filter fun n => decide (n.count = 0) && d.succs.contains n.node).map (·.task)
        ((∃ n ∈ after, n.finished = false) → (fresh.Nodup) → (∀ k ∈ fresh, k ≠ tid ∧ (s.task k).isSome = true) →
            ∃ t, exec (.nodeFinish tid) s = .next t ∧ t.kickSlot slot = { ks with nodes := after }
              ∧ t.task tid = some { tk with status := .finished }
              ∧ (∀ k ∈ fresh, ∃ a b, s.task k = some a ∧ t.task k = some b ∧ b.status = .queued
                  ∧ ∃ e ∈ t.queue b.queue, e.task = k ∧ e.level = a.priority)
              ∧ (∀ k, k ≠ tid → k ∉ fresh → t.task k = s.task k))
          ∧ ((∀ n ∈ after, n.finished = true) → fresh = [] → 1 < ks.replaysLeft →
              ∃ t, exec (.nodeFinish tid) s = .next t
                ∧ t.kickSlot slot = { ks with completed := (ks.completed + 1) % 2 ^ 32, started := false, nodes := [], replaysLeft := ks.replaysLeft - 1 }
                ∧ t.host.msix = s.host.msix)
          ∧ ((∀ n ∈ after, n.finished = true) → fresh = [] → ks.replaysLeft ≤ 1 → ks.pending = none →
              ∃ t, exec (.nodeFinish tid) s = .next t
                ∧ t.kickSlot slot = { ks with completed := (ks.completed + 1) % 2 ^ 32, started := false, nodes := [],
                                              replaysLeft := ks.replaysLeft - 1, state := .idle }
                ∧ t.host.msix = (match ks.vector with
                  | none => s.host.msix
                  | some v => v :: s.host.msix)))

/-- R224, R230, R237, R238, R369 to R371: the region arbiter, quiet rounds, passes that complete, stall timers. Model's choices it rests on: assumption log 53, 55. -/
def Obligations.RegionArbitrationEffects : Prop :=
  -- CONFIG_ADMIT on an idle region that matches, and on free cells
  (∀ (s : State) (n : Nat) (rc : ReadyConfig) (uid : Nat), s.sched.queues.getD (queueNo (.fabric n)) [] = [] →
      let c := s.core n
      c.ready = [rc] → rc.cmd = some uid → c.out = [] → c.preemption = none → c.frozen = [] → s.cmds = [] →
      (∀ x shapes, c.matching rc = some x → s.rereadShapes rc.ctx rc.image = .ok shapes →
          ∃ t r, exec (.configAdmit n) s = .next t ∧ t.region n x.number = some r ∧ r.status = .running ∧ r.shapes = shapes
            ∧ r.ctx = rc.ctx ∧ r.task = rc.task ∧ r.links = x.links ∧ r.pass = false ∧ (t.core n).ready = [])
        ∧ (∀ g x0 y0, c.matching rc = none → s.readImage n rc.ctx rc.image = .ok g → c.regions = [] →
            c.origin g.hdr.w g.hdr.h = some (x0, y0) →
            ∃ t r, exec (.configAdmit n) s = .next t ∧ t.region n (8 * y0 + x0) = some r ∧ r.status = .running ∧ r.x0 = x0 ∧ r.y0 = y0
              ∧ r.ctx = rc.ctx ∧ r.image = rc.image ∧ r.w = g.hdr.w ∧ r.h = g.hdr.h ∧ (t.core n).ready = [])
        ∧ (∀ g, c.matching rc = none → s.readImage n rc.ctx rc.image = .ok g → c.regions = [] → c.origin g.hdr.w g.hdr.h = none →
            exec (.configAdmit n) s = .next s))
    -- the first free origin in row-major order, inside the 8 × 8 cells
    ∧ (∀ (c : CoreState) (w h : Nat), 1 ≤ w → w ≤ 8 → 1 ≤ h → h ≤ 8 →
        let free (x y : Nat) : Prop := x + w ≤ 8 ∧ y + h ≤ 8 ∧ ∀ i j, i < w → j < h → 8 * (y + j) + x + i ∉ c.takenCells
        (∀ x y, c.origin w h = some (x, y) → free x y ∧ ∀ x' y', free x' y' → y < y' ∨ (y = y' ∧ x ≤ x'))
          ∧ (c.origin w h = none → ∀ x y, ¬free x y))
    -- PASS_COMPLETE
    ∧ (∀ (s : State) (n region : Nat) (r : Region), s.region n region = some r →
        (r.passDone = false → exec (.passComplete n region) s = .next s)
          ∧ (r.passDone = true → r.pass = false → exec (.passComplete n region) s = .next (s.setRegion n region { r with status := .idle }))
          ∧ (∀ tk, r.passDone = true → r.pass = true → s.task r.task = some tk → (tk.params.takeWhile (· ≠ 0)).length ≤ tk.done + 1 →
              ∃ t, exec (.passComplete n region) s = .next t ∧ t.region n region = some { r with status := .idle }
                ∧ t.task r.task = some { tk with done := tk.done + 1, offered := false }))
    -- SAMPLING_ROUND: two quiet rounds answer the DRNs of the region with its summary, and clear it
    ∧ (∀ (s : State) (n region : Nat) (r : Region), s.region n region = some r →
        let r1 (quiet : Nat) : Region := { r with quiet := quiet, permit := r.permit.map fun p => p.sample r.absent }
        (r.isQuiet = false → exec (.samplingRound n region) s = .next (s.setRegion n region (r1 0)))
          ∧ (r.isQuiet = true → r.quiet = 0 → exec (.samplingRound n region) s = .next (s.setRegion n region (r1 1)))
          ∧ (∀ c, r.isQuiet = true → 1 ≤ r.quiet → s.cmds = [c] → c.core = n → c.ctx = r.ctx → c.opcode = 0x13 → c.stage = .running →
              c.fields.dest.toNat = 0x600 + region →
              let value := b2n r.sumFault + 2 * b2n r.sumPoison + 4 * b2n r.sumParam + 8 * b2n r.sumAppend
              exec (.samplingRound n region) s = .next ((s.setRegion n region
                { r1 2 with sumFault := false, sumPoison := false, sumParam := false, sumAppend := false }).finishCommand c.uid
                  (BitVec.ofNat 64 (value * 2 ^ 8)))))
    -- STALL_TIMER_EXPIRY: every full branch marked detach is cut off, and the region's event is raised
    ∧ (∀ (s : State) (n region root ns : Nat) (r : Region), s.region n region = some r → r.stalls.lookup root = some ns →
        r.stall ≠ 0 → 1000 * r.stall ≤ ns → (s.core n).iters = [] →
        let cut (j : Nat) : Prop := j ∈ r.branches root ∧ (r.link j).room = false ∧ (r.link j).detach = true
        ∃ t, exec (.stallTimerExpiry n region root) s = .next t
          ∧ ∃ r', t.region n region = some r' ∧ r'.links.length = r.links.length
            ∧ (∀ j, j < r.links.length → (cut j → r'.link j = { r.link j with detached := true, closed := true })
                ∧ (¬cut j → r'.link j = r.link j))
            ∧ r'.stalls = r.stalls.filter fun x => decide (x.1 ≠ root))

namespace Sys2Proof.Machine

/-- A record made ready in this step (R320, R322): nothing else changes but the core's count of readiness. -/
def MadeReady (s t : State) (k : Nat) (r : Record) : Prop :=
  let n := (s.core (k / 65536)).readyNo
  t = (s.setRecord k { r with ready := true, readyNo := n, readyTick := s.tick, readyAt := s.tns }).modCore (k / 65536)
    fun c => { c with readyNo := n + 1 }

/-- The registers that a relaunch restores (R47, R320): the record's dirty ones, in ascending number, over the launch image. -/
def restoredReg (s : State) (st : Strand) (r : Record) (n : Nat) : Dword :=
  if n = 0 then 0
  else if r.dmask.getLsbD n then r.dirty.getD (((List.range n).filter fun i => r.dmask.getLsbD i).length) 0
  else match s.task st.task with
    | some t => if 1 ≤ n ∧ n ≤ 8 then t.params.getD (n - 1) 0 else 0
    | none => 0

/-- Every slot of a core is taken. -/
def SlotsFull (s : State) (core : Nat) : Prop := 64 ≤ (s.residents core).length

end Sys2Proof.Machine

/-- R203, R316, R319 to R323, R327, R328, R388: completions, relaunch, rotation, parking, scouts, lost state. Model's choices it rests on: assumption log 81. -/
def Obligations.MoraineEffects : Prop :=
  -- COMPLETION_ACCEPT: the first completion for a strand, where the record it names waits for it, or none does
  (∀ (s : State) (core sid : Nat) (c : Completion),
      let k := keyOf core sid
      (s.completions.find? fun x => decide (x.core = core) && decide (x.sid = sid)) = some c → c.line = none → sid < 65536 →
      let s1 := { s with completions := s.completions.erase c }
      let named (r : Record) : Prop := r.space = c.space ∧ r.space ≠ 0 ∧ r.tag = c.tag ∧ r.ready = false
      (∀ r, s.records.get? k = some r → named r → c.fault = none →
          ∃ t, exec (.completionAccept core sid) s = .next t ∧ MadeReady s1 t k { r with result := c.value })
        ∧ (∀ r code v, s.records.get? k = some r → named r → c.fault = some (code, v) →
            ∃ t r', exec (.completionAccept core sid) s = .next t ∧ MadeReady s1 t k r' ∧ r'.kind = .trap ∧ r'.pc = r.ownPc
              ∧ r'.cause = BitVec.ofNat 8 code ∧ r'.result = v ∧ r'.dest = 0 ∧ r'.dmask = r.dmask ∧ r'.dirty = r.dirty)
        ∧ ((∀ r, s.records.get? k = some r → ¬named r) → exec (.completionAccept core sid) s = .next s1))
    -- the same event for what a record waits for without a completion
    ∧ (∀ (s : State) (core sid : Nat) (r : Record),
        let k := keyOf core sid
        (s.completions.find? fun x => decide (x.core = core) && decide (x.sid = sid)) = none → s.records.get? k = some r → sid < 65536 →
        let ended : Prop := match r.wait with
          | .drain ids _ => s.drained core ids = true ∧ s.unackedStvs core sid = 0
          | .responses => s.answered k = true
          | .stvRoom => s.unackedStvs core sid < 8
          | .held => s.holds core sid = false
          | _ => False
        (r.ready = true → exec (.completionAccept core sid) s = .next s)
          ∧ (r.ready = false → r.wait = .completion ∨ r.wait = .children → exec (.completionAccept core sid) s = .next s)
          ∧ (r.ready = false → ended → ∃ t, exec (.completionAccept core sid) s = .next t ∧ MadeReady s t k r))
    -- RELAUNCH: which record takes a free slot, of two
    ∧ (∀ (s : State) (core : Nat) (a b : Nat × Strand × Record),
        s.readyRecords core = [a, b] ∨ s.readyRecords core = [b, a] →
        (∀ x ∈ [a, b], x.2.1.ordered = false) →
        let x := a.2.1
        let y := b.2.1
        let sibs : Prop := x.parent.isSome = true ∧ x.parent = y.parent
        let first : Prop :=
          (x.scout = false ∧ y.scout = true)
            ∨ x.scout = y.scout ∧ (y.prio < x.prio
              ∨ x.prio = y.prio ∧ (a.2.2.readyTick < b.2.2.readyTick
                ∨ a.2.2.readyTick = b.2.2.readyTick ∧ ((sibs ∧ x.sibling < y.sibling) ∨ (¬sibs ∧ x.sid < y.sid))))
        first → s.nextRecord core = some a)
    -- RELAUNCH: the strand restored
    ∧ (∀ (s : State) (core k : Nat) (st : Strand) (r : Record),
        (SlotsFull s core → exec (.relaunch core) s = .next s)
          ∧ (¬SlotsFull s core → s.nextRecord core = none → exec (.relaunch core) s = .next s)
          ∧ (¬SlotsFull s core → s.nextRecord core = some (k, st, r) → r.crc = r.crcOf → r.act = .nothing →
              let back (t : Strand) : Prop := t.place = .resident s.tns ∧ t.core = st.core ∧ t.sid = st.sid ∧ t.ctx = st.ctx
                ∧ t.task = st.task ∧ t.ordered = r.ordered ∧ t.sibling = r.sibling
              (r.kind ≠ .trap → ∃ t, exec (.relaunch core) s = .next t ∧ t.records.get? k = none ∧ StrandsBut s t [k]
                  ∧ back (t.strand k) ∧ (t.strand k).pc = r.pc ∧ (t.strand k).sys = r.sys
                  ∧ ∀ n : BitVec 5, (t.strand k).g n = if n ≠ 0 ∧ n = r.dest then r.result else restoredReg s st r n.toNat)
                ∧ (r.kind = .trap → st.scout = false → r.sys = false → 4 ≤ st.tvec.toNat % 2 ^ 56 →
                    ∃ t, exec (.relaunch core) s = .next t ∧ t.records.get? k = none ∧ StrandsBut s t [k]
                      ∧ back (t.strand k) ∧ (t.strand k).pc = st.tvec ∧ (t.strand k).sys = true ∧ (t.strand k).cause = r.cause
                      ∧ (t.strand k).tval = r.result ∧ (t.strand k).epc = BitVec.ofNat 64 (r.pc.toNat % 2 ^ 56 / 4 * 4)
                      ∧ ∀ n : BitVec 5, (t.strand k).g n = restoredReg s st r n.toNat)))
    -- ROTATION: a full core, and a record of no scout that has been ready for 10 µs
    ∧ (∀ (s : State) (core k : Nat) (p : SlotPlace), SlotsFull s core →
        (∃ x ∈ s.readyRecords core, x.2.1.scout = false ∧ x.2.2.readyAt + 10000 ≤ s.tns) → s.longestResident core = some k →
        (s.strand k).sys = false → s.slotFor (s.strand k).core (s.strand k).ctx .forced = some p →
        ∃ t r, exec (.rotation core) s = .next t ∧ t.strand k = { s.strand k with place := .recorded }
          ∧ t.records.get? k = some r ∧ r.ready = true ∧ r.kind = .resume ∧ r.pc = (s.strand k).pc ∧ r.dmask = (s.strand k).dmask
          ∧ r.dirty = (s.strand k).dirtyRegs ∧ r.place = p ∧ StrandsBut s t [k])
    ∧ (∀ (s : State) (core : Nat),
        (¬SlotsFull s core ∨ ∀ x ∈ s.readyRecords core, x.2.1.scout = true ∨ s.tns < x.2.2.readyAt + 10000) →
        exec (.rotation core) s = .next s)
    -- STRAND_PARK
    ∧ (∀ (s : State) (core sid n : Nat) (st : Strand),
        let k := keyOf core sid
        s.strands.get? k = some st → st.place = .resident n → st.parked = true →
        (s.holds core sid = false → exec (.strandPark core sid) s = .next (s.setStrand k { st with parked := false }))
          ∧ (∀ p, s.holds core sid = true → s.slotFor st.core st.ctx st.depositor = some p →
              ∃ t r, exec (.strandPark core sid) s = .next t ∧ t.strand k = { st with parked := false, place := .recorded }
                ∧ t.records.get? k = some r ∧ r.ready = false ∧ r.wait = .held ∧ r.pc = st.pc ∧ StrandsBut s t [k]))
    -- SCOUT_YIELD and SCOUT_BUDGET_EXPIRY: a scout gone
    ∧ (∀ (s : State) (core sid n : Nat) (st : Strand),
        let k := keyOf core sid
        s.strands.get? k = some st → st.scout = true →
        let gone (i : Instr) : Prop :=
          ∃ t, exec i s = .next t ∧ t.strands.get? k = none ∧ t.records.get? k = none ∧ StrandsBut s t [k]
        (st.place = .resident n → SlotsFull s core → (∃ x ∈ s.readyRecords core, x.2.1.scout = false) → gone (.scoutYield core sid))
          ∧ (st.budget = 0 → gone (.scoutBudgetExpiry core sid))
          ∧ (st.budget ≠ 0 → exec (.scoutBudgetExpiry core sid) s = .next s))
    -- STRAND_STATE_ERROR: a record fails its check, a resident strand's state is lost with an event of kind 4
    ∧ (∀ (s : State) (core sid : Nat) (st : Strand),
        let k := keyOf core sid
        s.strands.get? k = some st →
        (∀ r, st.place = .recorded → s.records.get? k = some r →
            ∃ t r', exec (.strandStateError core sid) s = .next t ∧ t = s.setRecord k r' ∧ r'.crc ≠ r'.crcOf ∧ r' = { r with crc := r'.crc })
          ∧ (∀ n, st.place = .resident n → exec (.strandStateError core sid) s = .next (s.contain st.ctx st.task false
              { kind := 0x04, core := st.core, code := 0x07, value := BitVec.ofNat 64 st.sid })))

namespace Sys2Proof.Machine

/-- What an atomic writes (R84): the value of w bits for the old value m, the operand x and the compare value c; none for no write. -/
def atomicValue (op : AtomOp) (w m x c : Nat) : Option Nat :=
  let a := m % 2 ^ w
  let b := x % 2 ^ w
  let sgn (v : Nat) : Int := (BitVec.ofNat w v).toInt
  match op with
  | .add => some ((a + b) % 2 ^ w)
  | .and => some (Nat.land a b)
  | .or => some (Nat.lor a b)
  | .xor => some (Nat.xor a b)
  | .min => some (if sgn a < sgn b then a else b)
  | .max => some (if sgn a < sgn b then b else a)
  | .minu => some (min a b)
  | .maxu => some (max a b)
  | .swp => some b
  | .cas => if a = c % 2 ^ w then some b else none

/-- A completion sent, by its requester, with a value. -/
def Sent (s t : State) (core sid : Nat) (tag : BitVec 16) (v : Dword) (line : Option Nat) : Prop :=
  t.completions = s.completions ++ [{ core := core, sid := sid, space := 2, tag := tag, value := v, fault := none, line := line }]

/-- A completion sent with a fault. -/
def SentFault (s t : State) (core sid : Nat) (tag : BitVec 16) (code : Nat) (va : Dword) : Prop :=
  ∃ c : Completion, t.completions = s.completions ++ [c] ∧ c.core = core ∧ c.sid = sid ∧ c.tag = tag ∧ c.space = 2
    ∧ c.fault = some (code, va)

/-- A line asked for: a fill of it begins, unless one is on its way or the line is being evicted; nothing else changes (R77, R79). -/
def Asked (s t : State) (line ctx : Nat) (va : Dword) : Prop :=
  t = if s.filling line ∨ s.evictingLine line then s
    else { s with slice := { s.slice with fills := s.slice.fills ++ [{ line := line, ctx := ctx, va := va }] } }

/-- The slice's lines and memory apart, t is s. -/
def MemoryStep (s t : State) : Prop := t = { s with mem := t.mem, slice := t.slice, completions := t.completions, strands := t.strands }

end Sys2Proof.Machine

/-- R77 to R87, R178 to R182, R201 to R206: what a slice and a core's buffers do in their own steps, without handlers. Model's choices it rests on: assumption log 68, 73, 74. -/
def Obligations.SliceEventEffects : Prop :=
  -- COALESCING_BUFFER_DRAIN, CB_DRAIN_ACCEPT
  (∀ (s : State) (core id : Nat), exec (.coalescingBufferDrain core id) s = .next (s.modCore core fun c =>
      { c with cb := c.cb.map fun (e : CbEntry) => if e.id = id then { e with draining := true } else e }))
    ∧ (∀ (s : State) (core id : Nat) (e : CbEntry), s.rimes = [] →
        (s.core core).cb.find? (fun x => decide (x.id = id) && x.draining) = some e → s.filling e.line = false →
        let full : Prop := e.mask = BitVec.allOnes 128
        (¬full → s.resident e.line = false → ∀ o, e.owners.head? = some o →
            ∃ t, exec (.cbDrainAccept core id) s = .next t ∧ Asked s t e.line o.1 (BitVec.ofNat 64 (o.2.2 * 2 ^ 16 + 128 * e.line % 2 ^ 16)))
          -- accepted: its bytes stand in memory, its entry is free; then what waited for the drain goes on (drainEp, nextIter)
          ∧ (s.resident e.line = true ∨ full → s.mem.wf = true →
              ∃ x, exec (.cbDrainAccept core id) s = .next (x.drainEp.nextIter core)
                ∧ (∀ j, j < 128 → x.mem.read (128 * e.line + j)
                    = if e.mask.getLsbD j then BitVec.ofNat 8 (lineGet e.data j 1) else s.mem.read (128 * e.line + j))
                ∧ memoryUnchangedBut s x (fun a => a / 128 = e.line)
                ∧ (x.core core).cb = (s.core core).cb.filter (fun y => decide (y.id ≠ e.id))
                ∧ (full → x.linePoisoned e.line = false) ∧ StrandsBut { s with mem := x.mem } x []))
    -- L1_FILL
    ∧ (∀ (s : State) (core line sid pa : Nat) (tag : BitVec 16) (va : Dword) (form : LoadForm) (r : LineReq),
        (s.core core).lineReqs.find? (fun x => decide (x.line = line)) = some r → s.rimes = [] →
        (∀ e ∈ (s.core core).cb, r.after ≠ some e.id) →
        (s.resident line = false → ∃ t, exec (.l1Fill core line) s = .next t ∧ Asked s t line r.ctx r.va)
          ∧ (s.resident line = true → r.uses = [.load sid tag va pa form] → pa / 128 = line → pa % 128 + form.size ≤ 128 →
              0 < form.size →
              (s.linePoisoned line = true → ∃ t, exec (.l1Fill core line) s = .next t ∧ SentFault s t core sid tag 0x07 va
                  ∧ (t.core core).lineReqs = (s.core core).lineReqs.filter (fun x => decide (x.line ≠ line)) ∧ t.mem = s.mem)
                ∧ (s.linePoisoned line = false → (∀ x ∈ (s.core core).l1, x.line ≠ line) → (∀ x ∈ (s.core core).cb, x.line ≠ line) →
                    ∃ t l, exec (.l1Fill core line) s = .next t ∧ Sent s t core sid tag (form.extend (s.mem.readN pa form.size)) none
                      ∧ (t.core core).lineReqs = (s.core core).lineReqs.filter (fun x => decide (x.line ≠ line))
                      ∧ (t.core core).l1Valid line = some l ∧ l.data = s.mem.line line ∧ StrandsBut s t [])))
    -- SLICE_FILL, SLICE_CLEAN, SLICE_UNCORRECTABLE_ERROR
    ∧ (∀ (s : State) (line : Nat) (f : Fill), s.rimes = [] →
        s.slice.fills.find? (fun x => decide (x.line = line) && !x.handler) = some f → s.resident line = false →
        ∃ t, exec (.sliceFill line) s = .next t ∧ t.resident line = true ∧ t.mem = s.mem
          ∧ t.slice.fills = s.slice.fills.filter (fun x => decide (x.line ≠ line))
          ∧ t.slice.poison = (if Config.linkFails s.fresh ∧ s.linePoisoned line = false then line :: s.slice.poison else s.slice.poison)
          ∧ t.cores = s.cores ∧ t.strands = s.strands ∧ t.records = s.records)
    ∧ (∀ (s : State) (line : Nat),
        (∃ t, exec (.sliceClean line) s = .next t ∧ t = { s with slice := { s.slice with lines := t.slice.lines } }
            ∧ (∀ x ∈ t.slice.lines, x.line = line → x.dirty = false)
            ∧ t.slice.lines.map (·.line) = s.slice.lines.map (·.line) ∧ t.slice.lines.map (·.lockedBy) = s.slice.lines.map (·.lockedBy))
          ∧ (s.resident line = true → s.linePoisoned line = false → exec (.sliceUncorrectableError line) s
              = .next { s with slice := { s.slice with poison := line :: s.slice.poison } })
          ∧ (s.resident line = false → exec (.sliceUncorrectableError line) s = .next s))
    -- ATOMIC_AT_SLICE
    ∧ (∀ (s : State) (id : Nat) (r : SliceReq), s.slice.reqs.find? (fun x => decide (x.id = id)) = some r → s.rimes = [] →
        (∀ e ∈ (s.core r.core).cb, r.after ≠ some e.id) → s.mem.wf = true →
        let line := r.pa / 128
        let owner := (s.slice.lines.find? fun x => decide (x.line = line)).bind (·.lockedBy)
        let status (v : Nat) (o : Option Nat) (set : Bool) : Prop :=
          ∃ t, exec (.atomicAtSlice id) s = .next t ∧ Sent s t r.core r.sid r.tag (BitVec.ofNat 64 v) none
            ∧ t.slice.reqs = s.slice.reqs.filter (fun x => decide (x.id ≠ id)) ∧ t.mem = s.mem
            ∧ t.slice.lines = (if set then s.slice.lines.map (fun x => if x.line = line then { x with lockedBy := o } else x)
                else s.slice.lines)
        let setLocks := (s.slice.lines.filter fun x => x.lockedBy.isSome && decide (s.setOf x.line = s.setOf line)).length
        let count := (s.slice.lines.filter fun x => decide (x.lockedBy = some r.ctx)).length
        (∀ op size x c, r.op = .atom op size x c → size = 4 ∨ size = 8 →
            (s.resident line = false → ∃ t, exec (.atomicAtSlice id) s = .next t ∧ Asked s t line r.ctx (lineVa r.va))
              ∧ (s.resident line = true → s.linePoisoned line = true →
                  ∃ t, exec (.atomicAtSlice id) s = .next t ∧ SentFault s t r.core r.sid r.tag 0x07 r.va ∧ t.mem = s.mem)
              ∧ (s.resident line = true → s.linePoisoned line = false →
                  let m := s.mem.readN r.pa size
                  ∃ t, exec (.atomicAtSlice id) s = .next t
                    ∧ Sent s t r.core r.sid r.tag (BitVec.signExtend 64 (BitVec.ofNat (8 * size) m)) (some line) ∧ MemoryStep s t
                    ∧ t.slice.reqs = s.slice.reqs.filter (fun x => decide (x.id ≠ id))
                    ∧ t.mem.readN r.pa size = (atomicValue op (8 * size) m x.toNat c.toNat).getD m
                    ∧ memoryUnchangedBut s t (fun a => r.pa ≤ a ∧ a < r.pa + size)))
          -- LOCK: the checks in the order of the codes
          ∧ (r.op = .lock →
              (owner = some r.ctx → status 0x01 none false) ∧ (∀ o, owner = some o → o ≠ r.ctx → status 0x02 none false)
                ∧ (owner = none → 8 ≤ setLocks → status 0x03 none false)
                ∧ (owner = none → setLocks < 8 → (s.ctx r.ctx).lockQuota ≤ count → status 0x04 none false)
                ∧ (owner = none → setLocks < 8 → count < (s.ctx r.ctx).lockQuota → s.resident line = true → status 0x00 (some r.ctx) true))
          ∧ (r.op = .unlock → (owner = some r.ctx → status 0x00 none true) ∧ (owner = none → status 0x05 none false)
              ∧ ∀ o, owner = some o → o ≠ r.ctx → status 0x06 none false))
    -- STV_AT_SLICE
    ∧ (∀ (s : State) (id : Nat) (r : StvReq), s.slice.stvs.find? (fun x => decide (x.id = id)) = some r → s.rimes = [] →
        r.held = false → s.drained r.core r.after = true →
        (∀ x ∈ s.slice.stvs, x.core = r.core → x.sid = r.sid → r.id ≤ x.id) →
        let block := s.versionBlock r.ctx r.va.toNat
        let newest := (s.mem.dword (block + 128)).toNat
        let floor := (s.mem.dword (block + 136)).toNat
        let word (m : Memory) (a : Nat) : Nat := m.readN a 8
        let room : Prop := (newest + 2 ^ 64 - floor) % 2 ^ 64 ≠ 15 ∧ newest ≠ 2 ^ 64 - 1
        s.poisoned block 256 = false → s.resident (r.pa / 128) = true → s.mem.wf = true →
        (room → r.pa + 8 ≤ block ∨ block + 256 ≤ r.pa →
            ∃ x, exec (.stvAtSlice id) s = .next x.drainEp ∧ word x.mem (block + 128) = newest + 1
              ∧ word x.mem (block + 8 * ((newest + 1) % 16)) = r.value.toNat ∧ word x.mem r.pa = r.value.toNat
              ∧ memoryUnchangedBut s x (fun a => (block + 128 ≤ a ∧ a < block + 136)
                  ∨ (block + 8 * ((newest + 1) % 16) ≤ a ∧ a < block + 8 * ((newest + 1) % 16) + 8) ∨ (r.pa ≤ a ∧ a < r.pa + 8))
              ∧ x.slice.stvs = s.slice.stvs.filter (fun y => decide (y.id ≠ id))
              -- every load that waits for a version up to this one is answered
              ∧ (∀ l ∈ s.slice.ldvs, ∀ u, l.pa = r.pa → l.waiting = some u → u ≤ newest + 1 →
                  ∃ c ∈ x.completions, c.core = l.core ∧ c.sid = l.sid ∧ c.tag = l.tag ∧ c.fault = none
                    ∧ c.value.toNat = word x.mem (block + 8 * (u % 16))))
          ∧ (¬room → ∀ st, s.strands.get? (keyOf r.core r.sid) = some st →
              ∃ t, exec (.stvAtSlice id) s = .next t ∧ t.mem = s.mem
                ∧ t.slice.stvs = s.slice.stvs.map (fun (x : StvReq) => if x.id = id then { x with held := true } else x)
                ∧ t.strand (keyOf r.core r.sid) = { st with parked := true }))
    -- LDV_AT_SLICE
    ∧ (∀ (s : State) (id : Nat) (r : LdvReq), s.slice.ldvs.find? (fun x => decide (x.id = id)) = some r → r.waiting = none →
        (∀ x ∈ s.slice.stvs, ¬(x.core = r.core ∧ x.sid = r.sid ∧ x.pa = r.pa)) →
        (∀ x ∈ s.slice.rclms, ¬(x.core = r.core ∧ x.sid = r.sid ∧ x.pa = r.pa)) →
        let block := s.versionBlock r.ctx r.va.toNat
        let newest := s.mem.dword (block + 128)
        let floor := s.mem.dword (block + 136)
        let answers (v : Dword) : Prop := ∃ t, exec (.ldvAtSlice id) s = .next t ∧ Sent s t r.core r.sid r.tag v none
          ∧ t.slice.ldvs = s.slice.ldvs.filter (fun x => decide (x.id ≠ id)) ∧ t.mem = s.mem
        let waits (u : Nat) : Prop := exec (.ldvAtSlice id) s = .next { s with slice := { s.slice with
          ldvs := s.slice.ldvs.map fun (x : LdvReq) => if x.id = id then { x with waiting := some u } else x } }
        let version (v : Dword) : Dword := s.mem.dword (block + 8 * (v.toNat % 16))
        s.poisoned block 256 = false → s.linePoisoned (r.pa / 128) = false → s.resident (r.pa / 128) = true →
        (∀ v, r.form = .eq v → (v < floor → ∃ t, exec (.ldvAtSlice id) s = .next t ∧ SentFault s t r.core r.sid r.tag 0x08 r.va)
            ∧ (floor ≤ v → v ≤ newest → answers (version v)) ∧ (floor ≤ v → newest < v → waits v.toNat))
          ∧ (∀ v, r.form = .ge v → (v < floor → floor ≤ newest → answers (version floor))
              ∧ (floor ≤ v → v ≤ newest → answers (version v)) ∧ (floor ≤ v → newest < v → waits v.toNat))
          ∧ (∀ form, r.form = .newest form → answers (form.extend (s.mem.readN r.pa form.size))))
    -- RCLM_AT_SLICE, where no store is held
    ∧ (∀ (s : State) (id : Nat) (r : RclmReq), s.slice.rclms.find? (fun x => decide (x.id = id)) = some r → s.slice.stvs = [] →
        (∀ x ∈ s.slice.rclms, x.core = r.core → x.sid = r.sid → x.pa = r.pa → r.id ≤ x.id) → s.mem.wf = true → s.rimes = [] →
        let block := s.versionBlock r.ctx r.va.toNat
        let newest := s.mem.dword (block + 128)
        let floor := s.mem.dword (block + 136)
        s.poisoned block 256 = false →
        ∃ t, exec (.rclmAtSlice id) s = .next t ∧ t.slice.rclms = s.slice.rclms.filter (fun x => decide (x.id ≠ id))
          ∧ (t.mem.dword (block + 136)).toNat = max floor.toNat (min r.v.toNat newest.toNat)
          ∧ memoryUnchangedBut s t fun a => block + 136 ≤ a ∧ a < block + 144)

namespace Sys2Proof.Machine

/-- A handler of a slice's Rime core is running, with a window operation pending where one is given (R88, R93, R95). -/
def Running (s : State) (sl : Nat) (h : Handler) (op : Option WindowOp) : Prop := (s.rime sl).running = some h ∧ h.op = op

/-- s with the running handler of a slice. -/
def withHandler (s : State) (sl : Nat) (h : Option Handler) : State := s.setRime sl { s.rime sl with running := h }

/-- The handler has been aborted (R96): it has ended, its report is written, its event takes its default action. -/
def Aborts (i : Instr) (s : State) (sl : Nat) (h : Handler) (cause : Nat) : Prop :=
  exec i s = .next (((withHandler s sl none).rimeReport sl h.ev cause h.pc).eventDefault h.ev)

/-- x(r) of a handler: x0 is zero. -/
def xReg (h : Handler) (r : Nat) : Dword := if r = 0 then 0 else h.regs.toList.getD r 0

/-- h after an instruction that writes v to x(rd) and goes on at a pc. -/
def HandlerSteps (h h' : Handler) (rd : Nat) (v pc : Dword) : Prop :=
  (∀ r, r < 32 → xReg h' r = if r ≠ 0 ∧ r = rd then v else xReg h r) ∧ h' = { h with pc := pc, regs := h'.regs }

/-- The line of LN_VA that a line command of a slice's handler may act on (R95). -/
def LineAt (s : State) (sl : Nat) (h : Handler) (acc : Access) (line : Nat) : Prop :=
  ∃ pa, s.engineXlat h.ev.ctx (h.lnVa.toNat / 128 * 128) acc = .ok pa ∧ isMain pa = true ∧ line = pa / 128 ∧ s.homeOf line = sl
    ∧ s.evictingLine line = false ∧ (∀ f ∈ s.slice.fills, f.line = line → f.handler = false)

/-- The value an RV64 operation gives (R88): the published RV64IM operations, 32-bit results sign-extended. -/
def rvValue (op : RvAlu) (x y : Dword) : Option Dword :=
  match op with
  | .add => some (x + y)
  | .sub => some (x - y)
  | .and => some (x &&& y)
  | .or => some (x ||| y)
  | .xor => some (x ^^^ y)
  | .sll => some (x <<< (y.toNat % 64))
  | .srl => some (x >>> (y.toNat % 64))
  | .slt => some (if x.toInt < y.toInt then 1 else 0)
  | .sltu => some (if x.toNat < y.toNat then 1 else 0)
  | .mul => some (x * y)
  | .divu => some (if y = 0 then BitVec.ofInt 64 (-1) else BitVec.ofNat 64 (x.toNat / y.toNat))
  | .remu => some (if y = 0 then x else BitVec.ofNat 64 (x.toNat % y.toNat))
  | _ => none

end Sys2Proof.Machine

/-- R88, R91 to R97: handlers dispatched, run, ended and aborted, and the operations of the slice window. Model's choices it rests on: assumption log 69, 70, 71. -/
def Obligations.HandlerEffects : Prop :=
  -- HANDLER_DISPATCH
  (∀ (s : State) (sl : Nat) (ev : RimeEvent) (rest : List RimeEvent) (e : HandlerEntry),
      let r := s.rime sl
      let misses : Prop := ev.kind = .fill ∧ ∃ m ∈ r.free, m.kind = .miss ∧ m.line = ev.line
      let starts (r1 : Rime) : Prop := ∃ h, exec (.handlerDispatch sl) s = .next (s.setRime sl { r1 with running := some h, started := r.started + 1 })
        ∧ h.ev = ev ∧ h.pc.toNat = (e.get 2).toNat % 2 ^ 56 / 2 * 2 ∧ h.op = none ∧ h.workLine = 0 ∧ h.reserved = none
        ∧ (∀ n, n < 32 → xReg h n = if n = 10 then BitVec.ofNat 64 (ev.depth * 2 ^ 28 + ev.ctx * 2 ^ 16 + ev.entry * 2 ^ 8 + ev.kind.code)
            else if n = 11 then ev.va else 0)
        ∧ h.budget = (let n := max 1 ((e.get 3).toNat % 2 ^ 16); if ev.kind = .fill ∨ ev.kind = .evict then min n 2048 else n)
        ∧ h.eventLine = (match ev.line with
          | some l => if ev.kind = .fill ∨ ev.kind = .evict then s.mem.line l else ev.data
          | none => ev.data)
      r.running = none → r.table.get? ev.entry = some e →
      (e.serves ev.ctx = true →
          (r.bound = ev :: rest → ¬misses → starts { r with bound := rest })
            ∧ (r.bound = [] → r.free = ev :: rest → starts { r with free := rest })
            ∧ (∀ b bs, r.bound = b :: bs → b.kind = .fill → r.free = ev :: rest → ev.kind = .miss → ev.line = b.line →
                starts { r with free := rest }))
        ∧ (e.serves ev.ctx = false → r.bound = ev :: rest → ¬misses →
            exec (.handlerDispatch sl) s = .next ((s.setRime sl { r with bound := rest }).eventDefault ev)))
    -- RIME_HANDLER_INSTRUCTION: a word that has been fetched, its length l
    ∧ (∀ (s s1 : State) (sl : Nat) (h : Handler) (w : Dword) (l : Nat) (i : RvInstr), Running s sl h none → 0 < h.budget →
        s.rimeFetch sl h = .val s1 w →
        (l = 4 ∧ w.toNat % 4 = 3 ∧ rvDecode w.toNat = some i ∨ l = 2 ∧ w.toNat % 4 ≠ 3 ∧ rvDecodeC (w.toNat % 2 ^ 16) = some i) →
        let me : Instr := .rimeHandlerInstruction sl
        let next := h.pc + BitVec.ofNat 64 l
        let goes (rd : Nat) (v pc : Dword) : Prop := ∃ h', exec me s = .next (withHandler s1 sl (some h')) ∧ HandlerSteps h h' rd v pc
        (∀ op rd a b v, i = .op op false rd a b → rvValue op (xReg h a) (xReg h b) = some v → rd < 32 → goes rd v next)
          ∧ (∀ op rd a imm v, i = .opImm op false rd a imm → rvValue op (xReg h a) imm = some v → rd < 32 → goes rd v next)
          ∧ (∀ rd imm, rd < 32 → (i = .lui rd imm → goes rd imm next) ∧ (i = .auipc rd imm → goes rd (h.pc + imm) next)
              ∧ (i = .jal rd imm → goes rd next (h.pc + imm))
              ∧ ∀ a, i = .jalr rd a imm → goes rd next (xReg h a + imm - (if (xReg h a + imm).toNat % 2 = 1 then 1 else 0)))
          ∧ (∀ c a b off, i = .branch c a b off →
              let x := xReg h a
              let y := xReg h b
              let holds : Prop := match c with
                | .eq => x = y
                | .ne => x ≠ y
                | .lt => x.toInt < y.toInt
                | .ge => y.toInt ≤ x.toInt
                | .ltu => x.toNat < y.toNat
                | .geu => y.toNat ≤ x.toNat
              (holds → goes 0 0 (h.pc + off)) ∧ (¬holds → goes 0 0 next))
          ∧ (i = .fence → goes 0 0 next) ∧ (i = .ecall → exec me s = .next (s1.abortHandler sl h 0x10))
          ∧ (i = .ebreak → exec me s = .next (s1.abortHandler sl h 0x0F))
          -- memory: a resident line of no event of the handler
          ∧ (∀ n rd a off pa, (i = .load n true rd a off ∨ i = .load n false rd a off) → n = 1 ∨ n = 2 ∨ n = 4 ∨ n = 8 → rd < 32 →
              let va := xReg h a + off
              va.toNat < 2 ^ 56 → va.toNat % n = 0 → s1.engineXlat h.ev.ctx va.toNat .read = .ok pa → isMain pa = true →
              h.ev.line = none → s1.resident (pa / 128) = true → s1.linePoisoned (pa / 128) = false →
              let v : BitVec (8 * n) := BitVec.ofNat (8 * n) (s1.mem.readN pa n)
              goes rd (if i = .load n true rd a off then v.signExtend 64 else v.zeroExtend 64) next)
          ∧ (∀ n a b off pa, i = .store n a b off → n = 1 ∨ n = 2 ∨ n = 4 ∨ n = 8 →
              let va := xReg h a + off
              va.toNat < 2 ^ 56 → va.toNat % n = 0 → s1.engineXlat h.ev.ctx va.toNat .write = .ok pa → isMain pa = true →
              h.ev.line = none → s1.resident (pa / 128) = true → s1.mem.wf = true →
              ∃ t, exec me s = .next t ∧ t.mem.readN pa n = (xReg h b).toNat % 2 ^ (8 * n)
                ∧ memoryUnchangedBut s1 t (fun a => pa ≤ a ∧ a < pa + n) ∧ ∃ h', (t.rime sl).running = some h' ∧ h'.pc = next ∧ h'.regs = h.regs)
          -- the window: DONE, PF_VA, LN_CMD, FW_CMD ask for their operations; misuse aborts
          ∧ (∀ a b off, i = .store 8 a b off →
              let o := (xReg h a + off).toNat
              let v := xReg h b
              let asks (op : WindowOp) : Prop := exec me s = .next (withHandler s1 sl (some { h with pc := next, op := some op }))
              (o = 2 ^ 64 - 2048 + 0x30 → (v = 0 → asks (.done 0)) ∧ (v = 1 → h.ev.kind = .fill → asks (.done 1))
                  ∧ ((v ≠ 0 ∧ v ≠ 1) ∨ (v = 1 ∧ h.ev.kind ≠ .fill) → exec me s = .next (s1.abortHandler sl h 0x01)))
                ∧ (o = 2 ^ 64 - 2048 + 0x40 → asks (.prefetch v))
                ∧ (o = 2 ^ 64 - 2048 + 0x50 → (v = 1 → asks .lnRead) ∧ (v = 2 → asks .lnWrite)
                    ∧ (v ≠ 1 → v ≠ 2 → exec me s = .next (s1.abortHandler sl h 0x04)))
                ∧ (o = 2 ^ 64 - 2048 + 0x78 → (v.toNat < 2 ^ 16 → asks (.forward v))
                    ∧ (2 ^ 16 ≤ v.toNat → exec me s = .next (s1.abortHandler sl h 0x04)))
                ∧ (o = 2 ^ 64 - 2048 → exec me s = .next (s1.abortHandler sl h 0x04))))
    ∧ (∀ (s s1 : State) (sl : Nat) (h : Handler) (w : Dword), Running s sl h none → 0 < h.budget → s.rimeFetch sl h = .val s1 w →
        w.toNat % 4 = 3 → rvDecode w.toNat = none → exec (.rimeHandlerInstruction sl) s = .next (s1.abortHandler sl h 0x01))
    ∧ (∀ (s : State) (sl : Nat) (h : Handler) (code : Nat), Running s sl h none → 0 < h.budget → s.rimeFetch sl h = .abort code →
        Aborts (.rimeHandlerInstruction sl) s sl h code)
    -- HANDLER_BUDGET_EXPIRY, DONE_DEFAULT, DONE_INSTALL
    ∧ (∀ (s : State) (sl : Nat) (h : Handler), (s.rime sl).running = some h →
        (h.budget = 0 → (∀ k, h.op ≠ some (.done k)) → Aborts (.handlerBudgetExpiry sl) s sl h 0x0D)
          ∧ (0 < h.budget ∨ h.op = some (.done 0) ∨ h.op = some (.done 1) → exec (.handlerBudgetExpiry sl) s = .next s)
          ∧ (h.op = some (.done 0) →
              exec (.doneDefault sl) s = .next ((withHandler s sl none).eventDefault h.ev)
                -- the default action of a fill installs the fetched line
                ∧ ∀ l, h.ev.kind = .fill → h.ev.line = some l → ∃ t, exec (.doneDefault sl) s = .next t ∧ t.resident l = true
                    ∧ t.filling l = false)
          ∧ (∀ l, h.op = some (.done 1) → h.ev.line = some l → s.mem.wf = true → h.late = 0 →
              (s.slice.lines.filter fun x => decide (s.setOf x.line = s.setOf l)).length < 16 →
              ∃ t, exec (.doneInstall sl) s = .next t ∧ (∃ x ∈ t.slice.lines, x.line = l ∧ x.dirty = true) ∧ t.filling l = false
                ∧ t.linePoisoned l = false ∧ (t.rime sl).running = none
                ∧ (∀ j, j < 128 → t.mem.read (128 * l + j) = BitVec.ofNat 8 (lineGet h.eventLine j 1))
                ∧ memoryUnchangedBut s t fun a => a / 128 = l))
    -- PREFETCH and PREFETCH_ISSUE
    ∧ (∀ (s : State) (sl : Nat) (h : Handler) (va : Dword), Running s sl h (some (.prefetch va)) →
        let r := s.rime sl
        (r.pf.length < 16 → exec (.prefetch sl va) s = .next (s.setRime sl
            { r with running := some { h with op := none, pfQueued := min (h.pfQueued + 1) 0xFFFF }
                     pf := r.pf ++ [{ ctx := h.ev.ctx, va := va, depth := h.ev.depth + 1, by_ := r.started }] }))
          ∧ (16 ≤ r.pf.length → exec (.prefetch sl va) s
              = .next (withHandler s sl (some { h with op := none, pfDropped := min (h.pfDropped + 1) 0xFFFF }))))
    ∧ (∀ (s : State) (sl : Nat) (p : RimePf) (rest : List RimePf), (s.rime sl).pf = p :: rest →
        (∀ h c, s.engineXlat p.ctx p.va.toNat .read = .error c → (s.rime sl).running = some h → (s.rime sl).started = p.by_ →
            exec (.prefetchIssue sl) s = .next (s.setRime sl
              { s.rime sl with pf := rest, running := some { h with pfDropped := min (h.pfDropped + 1) 0xFFFF } }))
          ∧ (∀ pa, s.engineXlat p.ctx p.va.toNat .read = .ok pa → isMain pa = true → s.evictingLine (pa / 128) = false →
              s.resident (pa / 128) = false → s.filling (pa / 128) = false →
              exec (.prefetchIssue sl) s = .next { s.setRime sl { s.rime sl with pf := rest } with
                slice := { s.slice with fills := s.slice.fills ++ [{ line := pa / 128, ctx := p.ctx, va := lineVa p.va, depth := p.depth }] } }))
    -- LN_READ and LN_WRITE
    ∧ (∀ (s : State) (sl line : Nat) (h : Handler),
        let ends (h1 : Handler) (stat : Nat) : Handler := { h1 with op := none, lnStat := stat }
        let readEnds (stat : Nat) : Prop := exec (.lnRead sl) s = .next (withHandler s sl (some (ends h stat)))
        (Running s sl h (some .lnRead) →
            (s.engineXlat h.ev.ctx (h.lnVa.toNat / 128 * 128) .read = .error 0x03 → readEnds 2)
              ∧ (s.engineXlat h.ev.ctx (h.lnVa.toNat / 128 * 128) .read = .error 0x04 → readEnds 3)
              ∧ (∀ pa, s.engineXlat h.ev.ctx (h.lnVa.toNat / 128 * 128) .read = .ok pa → isMain pa = true → s.homeOf (pa / 128) ≠ sl →
                  readEnds 1)
              ∧ (∀ pa f, s.engineXlat h.ev.ctx (h.lnVa.toNat / 128 * 128) .read = .ok pa → isMain pa = true → s.homeOf (pa / 128) = sl →
                  f ∈ s.slice.fills → f.line = pa / 128 → f.handler = true → readEnds 5)
              ∧ (LineAt s sl h .read line → s.resident line = true → s.linePoisoned line = true → readEnds 4)
              ∧ (LineAt s sl h .read line → s.resident line = true → s.linePoisoned line = false → exec (.lnRead sl) s
                  = .next (withHandler s sl (some (ends { h with workLine := s.mem.line line } 0)))))
          ∧ (Running s sl h (some .lnWrite) → LineAt s sl h .write line → s.resident line = true → s.linePoisoned line = false →
              s.mem.wf = true →
              ∃ t, exec (.lnWrite sl) s = .next t
                ∧ (∀ j, j < 128 → t.mem.read (128 * line + j)
                    = if h.lnMask.getLsbD j then BitVec.ofNat 8 (lineGet h.workLine j 1) else s.mem.read (128 * line + j))
                ∧ memoryUnchangedBut s t (fun a => a / 128 = line)
                ∧ ∃ h', (t.rime sl).running = some h' ∧ h'.op = none ∧ h'.lnStat = 0 ∧ h'.workLine = h.workLine))
    -- FORWARD
    ∧ (∀ (s : State) (sl : Nat) (h : Handler) (cmd : Dword), Running s sl h (some (.forward cmd)) →
        let target := cmd.toNat % 256
        let entry := cmd.toNat / 256 % 256
        let ends (code : Nat) : State := withHandler s sl (some { h with op := none, fwStat := code })
        let accepts (e : HandlerEntry) : Prop := e.serves h.ev.ctx = true ∧ (e.get 3).toNat / 2 ^ 59 % 2 = 1
        (191 < target → exec (.forward sl cmd) s = .next (ends 3))
          ∧ (target ≤ 191 → (∀ e, (s.rime target).table.get? entry = some e → ¬accepts e) → exec (.forward sl cmd) s = .next (ends 1))
          ∧ (∀ e, target ≤ 191 → (s.rime target).table.get? entry = some e → accepts e →
              (48 ≤ (s.rime target).free.length → exec (.forward sl cmd) s = .next (ends 2))
                ∧ ((s.rime target).free.length < 48 → ∃ ev : RimeEvent, exec (.forward sl cmd) s = .next ((ends 0).setRime target
                    { (ends 0).rime target with free := ((ends 0).rime target).free ++ [ev] })
                    ∧ ev.kind = .message ∧ ev.entry = entry ∧ ev.ctx = h.ev.ctx ∧ ev.src = some (sl, h.ev.entry) ∧ ev.msg = h.fwData
                    ∧ ev.line = none)))

namespace Sys2Proof.Machine

/-- The four words of a record header (R102). -/
def headerWords (r : Rec) : List Dword :=
  [nat64 r.prev, nat64 r.next, nat64 (r.seq % 2 ^ 32 * 2 ^ 32 + r.episode % 2 ^ 32),
   nat64 (r.gen % 2 ^ 16 * 2 ^ 48 + r.length % 2 ^ 32 * 2 ^ 16 + (if r.sat then 2 ^ 13 else 0) + (if r.tail then 2 ^ 12 else 0)
      + r.kind % 16 * 2 ^ 8 + r.salience % 256)]

/-- The 32 bytes of a record header (R102). -/
def headerOf (r : Rec) : List Byte := (headerWords r).flatMap fun w => leBytes 8 w.toNat

/-- Payload bytes 32 to 63 of an episode record (R104). -/
def episodeOf (e : EpRec) : List Byte :=
  let words : List Dword := [nat64 e.tail, nat64 (e.items % 2 ^ 32 * 2 ^ 32 + e.next % 2 ^ 32),
    nat64 (e.branches % 2 ^ 32 * 2 ^ 32 + e.parent % 2 ^ 32), 0]
  words.flatMap fun w => leBytes 8 w.toNat

/-- The handle of a slot of store id (R105). -/
def handleWord (id : Nat) (st : Store) (i : Nat) : Dword := nat64 (id * 2 ^ 48 + (st.gen i).toNat % 256 * 2 ^ 40 + i)

/-- A slot in use whose header reads as r (R101, R102). -/
def RecordIn (s : State) (st : Store) (i : Nat) (r : Rec) : Prop :=
  i < st.capacity ∧ i < st.high ∧ i ∉ st.free ∧ s.readRec st i = .ok r

/-- s with store id in another state. -/
def withStore (s : State) (id : Nat) (st : Store) : State := s.setFirn { s.firn with stores := s.firn.stores.set id st }

/-- s with a cursor in another state. -/
def withCursor (s : State) (k : Nat) (c : Cursor) : State := s.setFirn { s.firn with cursors := s.firn.cursors.set k c }

/-- Request id, of op, is taken by its engine: it is the one request there, nothing holds it back (R110, R118, R119); s0 is s without
it. -/
def TakesStep (s s0 : State) (id : Nat) (op : EpOp) (r : EpReq) : Prop :=
  s.firn.reqs = [r] ∧ r.id = id ∧ r.op = op ∧ s.drained r.core r.after = true ∧ s.stopped r.core r.ctx = false
    ∧ (∀ x ∈ s.firn.cursors, ∀ p, x.2.play = some p → p.asker ≠ r.asker) ∧ (∀ c, op.cursorOf = some c → s.playing c = false)
    ∧ s0 = s.setFirn { s.firn with reqs := [] }

/-- A record of an own chain: the record's slot and header, in chain order from first to last (R103). -/
def OwnChain (s : State) (st : Store) (episode : Nat) : List (Nat × Rec) → Prop
  | [] => False
  | [x] => RecordIn s st x.1 x.2 ∧ x.2.episode = episode
  | x :: y :: l => RecordIn s st x.1 x.2 ∧ x.2.episode = episode ∧ x.2.next = y.1 ∧ y.1 ≠ 2 ^ 40 - 1 ∧ OwnChain s st episode (y :: l)

/-- A position moved off a range replaced by repl (R116): position and armed flag. -/
def movedTo (handles : List Dword) (repl pos : Dword) (back armed : Bool) : Dword × Bool :=
  let end_ : Option Dword := if back then handles.head? else handles.getLast?
  if pos ∈ handles then (repl, armed || decide (some pos ≠ end_)) else (pos, armed)

/-- A cursor and its play moved off a range (R116). -/
def MovedCursor (handles : List Dword) (repl : Dword) (c c' : Cursor) : Prop :=
  let back := c.cfg.toNat.testBit 8
  (c'.pos, c'.armed) = movedTo handles repl c.pos back c.armed ∧ c'.e = (if c.pos ∈ handles then false else c.e)
    ∧ (c.play = none → c'.play = none)
    ∧ (∀ p, c.play = some p → ∃ p', c'.play = some p' ∧ (p'.cur, p'.armed) = movedTo handles repl p.cur back p.armed
        ∧ p'.last = (if p.last ∈ handles then repl else p.last) ∧ p' = { p with cur := p'.cur, armed := p'.armed, last := p'.last })
    ∧ c' = { c with pos := c'.pos, armed := c'.armed, e := c'.e, play := c'.play }

/-- Branch records of a store whose prev lay among slots that are gone now name another (R115, step 5). -/
def Redirects (st : Store) (gone : List Nat) (to_ : Nat) : List (Nat × Nat) → State → State → Prop
  | [], s, t => t = s
  | x :: l, s, t => ∃ r s1, s.readRec st x.2 = .ok r
      ∧ (if r.kind = 3 ∧ r.prev ∈ gone then
          s.agentWrite st.ctx (st.base.toNat + x.2 * 2 ^ st.k) (headerOf { r with prev := to_, gen := (st.gen x.2).toNat }) = .ok s1
        else s1 = s)
      ∧ Redirects st gone to_ l s1 t

/-- t is s after a range of an own chain has been replaced by one record in its first slot (R115, steps 1 to 7): the record with its
length, its neighbours' links, the episode record, branch records, generations, free list and cursors. ei: the episode record's slot. -/
def Replaces (s t : State) (id ei kind removed : Nat) (l : List (Nat × Rec)) : Prop :=
  ∃ st a ra b rb e s1 s2 s3 s4 st', s.firn.stores.get? id = some st ∧ l.head? = some (a, ra) ∧ l.getLast? = some (b, rb)
    ∧ (let sum := (l.map fun (x : Nat × Rec) => if x.2.kind = 0 then 1 else x.2.length).sum
       let len := min sum (2 ^ 32 - 1)
       let sat := decide (2 ^ 32 - 1 < sum) || l.any fun (x : Nat × Rec) => x.2.sat
       let new : Rec := ⟨ra.prev, rb.next, ra.seq, ra.episode, (st'.gen a).toNat, len, sat, rb.tail, kind, 0⟩
       s.agentWrite st.ctx (st.base.toNat + a * 2 ^ st.k) (headerOf new ++ List.replicate (2 ^ st.k - 32) 0) = .ok s1)
    ∧ (if rb.next = 2 ^ 40 - 1 then s2 = s1
      else ∃ rn, s1.readRec st rb.next = .ok rn
        ∧ s1.agentWrite st.ctx (st.base.toNat + rb.next * 2 ^ st.k) (headerOf { rn with prev := a, gen := (st.gen rb.next).toNat }) = .ok s2)
    ∧ s2.readEp st ei = .ok e
    ∧ s2.agentWrite st.ctx (st.base.toNat + ei * 2 ^ st.k + 32)
        (episodeOf { e with tail := if rb.tail then a else e.tail, items := e.items - removed }) = .ok s3
    ∧ Redirects st ((l.drop 1).map fun (x : Nat × Rec) => x.1) a st.live s3 s4
    ∧ st' = { st with gens := l.foldl (fun g (x : Nat × Rec) => g.set x.1 (g.getD x.1 0 + 1)) st.gens
                      free := ((l.drop 1).map fun (x : Nat × Rec) => x.1).reverse ++ st.free }
    ∧ ∃ cs : Tbl Cursor, cs.length = s4.firn.cursors.length
        ∧ (∀ (n : Nat) (x : Nat × Cursor), s4.firn.cursors[n]? = some x → ∃ c' : Cursor, cs[n]? = some (x.1, c')
            ∧ MovedCursor (l.map fun (y : Nat × Rec) => handleWord id st y.1) (handleWord id st' a) x.2 c')
        ∧ t = s4.setFirn { s4.firn with stores := s4.firn.stores.set id st', cursors := cs }

/-- A play's next record: its handle and header (R111): pos itself where the play is armed, else the step of its direction. -/
def MeetsRecord (s : State) (c : Cursor) (p : Play) (id : Nat) (st : Store) (i : Nat) (h : Dword) (r : Rec) : Prop :=
  let slot := p.cur.toNat % 2 ^ 40
  id = p.cur.toNat / 2 ^ 48 ∧ Names s c.ctx p.cur ∧ s.firn.stores.get? id = some st
    ∧ ((p.armed = true ∧ i = slot ∧ h = p.cur ∧ RecordIn s st i r)
      ∨ ∃ r0, p.armed = false ∧ RecordIn s st slot r0 ∧ RecordIn s st i r ∧ h = handleWord id st i ∧ i ≠ 2 ^ 40 - 1
          ∧ (if c.cfg.toNat.testBit 8 then
              i = r0.prev ∧ ∃ home, r.episode = home
                ∧ (if r0.kind = 3 then ∃ e, s.readEp st slot = .ok e ∧ home = e.parent else home = r0.episode)
            else i = r0.next ∧ r.episode = r0.episode))

/-- Whether a cursor's play emits a record (R111). -/
def Carries (c : Cursor) (r : Rec) : Prop :=
  let skim := c.cfg.toNat.testBit 9
  r.kind = 2 ∨ (r.kind = 4 ∧ skim = false) ∨ (r.kind = 0 ∧ (skim = false ∨ c.cfg.toNat / 2 ^ 24 % 2 ^ 8 ≤ r.salience))

/-- Whether an item's time has not come (R113): pace P, i items emitted since t0. -/
def TooEarly (s : State) (c : Cursor) (p : Play) : Prop :=
  let pace := c.cfg.toNat / 2 ^ 32 % 2 ^ 16
  let t0 := if p.begun then p.t0 else s.tns
  1 ≤ pace ∧ pace ≤ 4096 ∧ s.tns * pace < t0 * pace + 16000 * p.count

/-- The tokens of a record with its slot's bytes (R112). -/
def recordTokens (st : Store) (r : Rec) (bs : List Byte) : List Token :=
  let words : List Dword := headerWords r
  let head (kind : Kind) (last : Bool) : Token := { kind := kind, last := last, fmt := 7, lanes := words.map fun w => { val := w, ok := true } }
  let n := (2 ^ st.k - 32 + 511) / 512
  match r.kind with
  | 0 => head .item false :: (List.range n).map fun i =>
      let part := (bs.drop (32 + 512 * i)).take 512
      { fmt := st.fmt, last := decide (i + 1 = n), lanes := lanesOf st.fmt (leNat part) (lanesIn st.fmt (8 * part.length)) }
  | 2 => [head .crevasse true]
  | _ => [head .splice true]

end Sys2Proof.Machine

/-- R107, R112, R114 to R117, R125, R127, R129, R138, R140: the steps of appends, branches, calves and splices at their engines. Model's choices it rests on: assumption log 37, 89. -/
def Obligations.EngineRecordSteps : Prop :=
  -- answers
  (∀ (x : State) (core sid : Nat) (tag : BitVec 16),
      let tells (r : Except EpFail Dword) (v : Dword) (f : Option (Nat × Dword)) : Prop :=
        x.answer (.long core sid tag) true r
          = { x with completions := x.completions ++ [{ core := core, sid := sid, space := 2, tag := tag, value := v, fault := f }] }
      let puts (r : Except EpFail Dword) (v : Dword) : Prop := x.answer (.posted core sid tag) false r = x.windowPut core sid tag v
      (∀ v, tells (.ok v) v none ∧ puts (.ok v) v)
        ∧ (∀ c, c < 2 ^ 8 → tells (.error (.refuse c)) (refusal c) none ∧ puts (.error (.refuse c)) (nat64 c)
            ∧ (∀ w, w < 2 ^ 48 → tells (.error (.engine c w)) (nat64 (c * 2 ^ 48 + 0x8D * 2 ^ 40 + (2 ^ 40 - 1))) none
                ∧ puts (.error (.engine c w)) (nat64 (w * 2 ^ 16 + c * 2 ^ 8 + 0x06)))
            ∧ ∀ w, tells (.error (.handle c w)) 0 (some (c, w)) ∧ puts (.error (.handle c w)) (nat64 (c * 2 ^ 8 + 0x06)))
        ∧ ∀ va, tells (.error (.poison va)) 0 (some (0x07, va)) ∧ puts (.error (.poison va)) (nat64 0x05))
    -- APPEND_AT_ENGINE
    ∧ (∀ (s s0 : State) (n : Nat) (r : EpReq) (e p : Dword) (sal : Nat), TakesStep s s0 n (.append e p sal) r →
        let id := e.toNat / 2 ^ 48
        let num := e.toNat % 2 ^ 32
        let gives (x : State) (v : Except EpFail Dword) : Prop := exec (.appendAtEngine n) s = .next (x.answer r.asker true v)
        (s.firn.stores.get? id = none → gives s0 (.error (.handle 0x09 e)))
          ∧ (∀ st, s.firn.stores.get? id = some st →
              (st.ctx ≠ r.ctx ∨ e.toNat / 2 ^ 32 % 2 ^ 16 ≠ 0 ∨ st.live.get? num = none → gives s0 (.error (.handle 0x09 e)))
                ∧ (∀ ei, st.ctx = r.ctx → e.toNat / 2 ^ 32 % 2 ^ 16 = 0 → st.live.get? num = some ei →
                    (st.free = [] → st.capacity ≤ st.high → gives s0 (.error (.refuse 0x80)))
                      ∧ (∀ st1 slot er, NextSlot st st1 slot → s0.readEp st ei = .ok er →
                          let size := 2 ^ st.k - 32
                          (er.next = 0 → gives s0 (.error (.refuse 0x81)))
                            ∧ (∀ va, er.next ≠ 0 → r.inline_ = none → s0.engineRead r.ctx p.toNat size = .error (0x07, va) →
                                gives s0 (.error (.poison p)))
                            ∧ (∀ bs q s1 s2 s3, er.next ≠ 0 →
                                (r.inline_ = none ∧ s0.engineRead r.ctx p.toNat size = .ok bs
                                  ∨ ∃ d, r.inline_ = some d ∧ bs = (d ++ List.replicate (size - d.length) 0).take size) →
                                RecordIn s0 st er.tail q → q.episode = num →
                                s0.agentWrite r.ctx (st.base.toNat + slot * 2 ^ st.k) (headerOf
                                  ⟨er.tail, 2 ^ 40 - 1, er.next, num, (st.gen slot).toNat, 0, false, true, 0, sal⟩ ++ bs) = .ok s1 →
                                s1.agentWrite r.ctx (st.base.toNat + er.tail * 2 ^ st.k)
                                  (headerOf { q with next := slot, tail := false, gen := (st.gen er.tail).toNat }) = .ok s2 →
                                s2.agentWrite r.ctx (st.base.toNat + ei * 2 ^ st.k + 32)
                                  (episodeOf { er with tail := slot, items := er.items + 1, next := er.next + 1 }) = .ok s3 →
                                gives (withStore s3 id st1) (.ok (handleWord id st slot)))))))
    -- BRANCH_AT_ENGINE
    ∧ (∀ (s s0 : State) (n : Nat) (r : EpReq) (g : Dword) (c : Cursor), TakesStep s s0 n (.branch g) r →
        s.firn.cursors.get? g.toNat = some c → c.ctx = r.ctx →
        let id := c.pos.toNat / 2 ^ 48
        let slot := c.pos.toNat % 2 ^ 40
        let gives (x : State) (v : Except EpFail Dword) : Prop := exec (.branchAtEngine n) s = .next (x.answer r.asker false v)
        (∀ st, s.firn.stores.get? id = some st → st.ctx = r.ctx →
            (st.free = [] → st.capacity ≤ st.high → gives s0 (.error (.refuse 0x80)))
              ∧ (∀ st1 new, NextSlot st st1 new → st.number = none → gives s0 (.error (.refuse 0x83)))
              ∧ (∀ st1 new num, NextSlot st st1 new → st.number = some num →
                  (¬Names s c.ctx c.pos → gives s0 (.error (.refuse 0x8A)))
                    ∧ (∀ q, Names s c.ctx c.pos → s0.readRec st slot = .ok q →
                        (q.kind = 2 ∨ q.kind = 4 → gives s0 (.error (.refuse 0x87)))
                          ∧ (∀ ei e s1 s2, q.kind ≠ 2 → q.kind ≠ 4 → st.live.get? q.episode = some ei → s0.readEp st ei = .ok e →
                              s0.agentWrite st.ctx (st.base.toNat + new * 2 ^ st.k) (headerOf
                                  ⟨slot, 2 ^ 40 - 1, q.seq, num, (st.gen new).toNat, 0, false, true, 3, 0⟩
                                ++ episodeOf { tail := new, items := 0, next := q.seq + 1, branches := 0, parent := q.episode }
                                ++ List.replicate (2 ^ st.k - 64) 0) = .ok s1 →
                              s1.agentWrite st.ctx (st.base.toNat + ei * 2 ^ st.k + 32) (episodeOf { e with branches := e.branches + 1 })
                                = .ok s2 →
                              gives (withStore s2 id { st1 with counter := (num + 1) % 2 ^ 32, live := st1.live.set num new })
                                (.ok (nat64 (id * 2 ^ 48 + num * 2 ^ 16))))))))
    -- CALVE_AT_ENGINE and SPLICE_AT_ENGINE
    ∧ (∀ (s s0 : State) (n : Nat) (r : EpReq) (x y : Dword) (i : Instr),
        i = .calveAtEngine n ∧ TakesStep s s0 n (.calve x y) r ∨ i = .spliceAtEngine n ∧ TakesStep s s0 n (.splice x y) r →
        let gives (t : State) (v : Except EpFail Dword) : Prop := exec i s = .next (t.answer r.asker false v)
        let id := x.toNat / 2 ^ 48
        let inRange (k : Nat) : Prop := k = 0 ∨ k = 2 ∨ k = 4
        (∀ st, s.firn.stores.get? id = none ∨ (s.firn.stores.get? id = some st ∧ st.ctx ≠ r.ctx) → gives s0 (.error (.handle 0x09 x)))
          ∧ (Names s r.ctx x → Names s r.ctx y → y.toNat / 2 ^ 48 ≠ id → gives s0 (.error (.refuse 0x86)))
          ∧ (∀ st l a ra b rb ei, Names s r.ctx x → Names s r.ctx y → y.toNat / 2 ^ 48 = id → s.firn.stores.get? id = some st →
              l.head? = some (a, ra) → l.getLast? = some (b, rb) → a = x.toNat % 2 ^ 40 → b = y.toNat % 2 ^ 40 →
              OwnChain s0 st ra.episode l → (l.map fun z => z.1).Nodup → l.length ≤ st.high → st.live.get? ra.episode = some ei →
              let answer (t : State) (k : Nat) : Prop :=
                ∃ st', t.firn.stores.get? id = some st' ∧ gives t (.ok (nat64 (k * 2 ^ 16 + (st'.gen k).toNat % 256 * 2 ^ 8)))
              let items (m : List (Nat × Rec)) : Nat := (m.filter fun z => decide (z.2.kind = 0)).length
              (i = .calveAtEngine n →
                  (¬(∀ z ∈ l, inRange z.2.kind) → gives s0 (.error (.refuse 0x86)))
                    ∧ (∀ s1 st1 c, (∀ z ∈ l, inRange z.2.kind) → Replaces s0 s1 id ei 2 (items l) l → s1.firn.stores.get? id = some st1 →
                        s1.readRec st1 a = .ok c →
                        -- step 8: neighbouring crevasses merge
                        (∀ s2 k, (if c.prev = 2 ^ 40 - 1 then s2 = s1 ∧ k = a
                            else ∃ p, s1.readRec st1 c.prev = .ok p
                              ∧ (if p.kind = 2 then k = c.prev ∧ Replaces s1 s2 id ei 2 0 [(c.prev, p), (a, c)] else s2 = s1 ∧ k = a)) →
                          ∀ st2 c2 s3, s2.firn.stores.get? id = some st2 → s2.readRec st2 k = .ok c2 →
                          (if c2.next = 2 ^ 40 - 1 then s3 = s2
                            else ∃ q, s2.readRec st2 c2.next = .ok q
                              ∧ (if q.kind = 2 then Replaces s2 s3 id ei 2 0 [(k, c2), (c2.next, q)] else s3 = s2)) →
                          answer s3 k)))
                ∧ (i = .spliceAtEngine n →
                    let inner := (l.drop 1).dropLast
                    (inner = [] ∨ ¬(∀ z ∈ l.drop 1, inRange z.2.kind) → gives s0 (.error (.refuse 0x86)))
                      ∧ (∀ s1 f, inner.head? = some f → (∀ z ∈ l.drop 1, inRange z.2.kind) → Replaces s0 s1 id ei 4 (items inner) inner →
                          answer s1 f.1))))

/-- R111 to R113, R129, R137, R420: the steps of a play. Model's choices it rests on: assumption log 45. -/
def Obligations.PlaySteps : Prop :=
  ∀ (s : State) (k : Nat) (c : Cursor) (p : Play), s.firn.cursors.get? k = some c → c.play = some p →
    let goes (t : State) : Prop := exec (.playStep k) s = .next t
    -- the play goes on, or ends with its count and E, or stops by a failure
    let on (x : State) (c' : Cursor) (p' : Play) : State := withCursor x k { c' with play := some p' }
    let ends (x : State) (c' : Cursor) (pos : Dword) (count : Nat) (e : Bool) : State :=
      ((withCursor x k { c' with pos := pos, e := e, armed := false, play := none }).answer p.asker false
        (.ok (nat64 ((if e then 2 ^ 40 else 0) + count % 2 ^ 32 * 2 ^ 8)))).drainEp
    let stops (x : State) (f : EpFail) : State := ((withCursor x k { c with armed := false, play := none }).answer p.asker false (.error f)).drainEp
    let sent (x : State) (c' : Cursor) (p' : Play) : State :=
      if p'.count = p'.n then ends x c' p'.cur p'.count false
      else on x { c' with pos := p'.cur } { p' with out := [], emitting := false }
    let port := c.cfg.toNat.testBit 15
    let link := (s.core c.owner).portLink c.ctx (.input c.dest.toNat)
    let away := (s.core c.owner).portAway c.ctx (.input c.dest.toNat)
    -- a record examined
    (p.out = [] → p.emitting = false →
        (¬Names s c.ctx p.cur → if p.begun then goes (stops s (.refuse 0x8A))
            else goes (((withCursor s k { c with play := none }).answer p.asker false (.error (.refuse 0x8A))).drainEp))
          ∧ (∀ st r0, p.armed = false → Names s c.ctx p.cur → s.firn.stores.get? (p.cur.toNat / 2 ^ 48) = some st →
              s.readRec st (p.cur.toNat % 2 ^ 40) = .ok r0 →
              (c.cfg.toNat.testBit 8 = true ∧ r0.prev = 2 ^ 40 - 1 ∨ c.cfg.toNat.testBit 8 = false ∧ r0.next = 2 ^ 40 - 1) →
              goes (ends s c p.last p.count true))
          ∧ (∀ id st i h r, MeetsRecord s c p id st i h r →
              let p1 := { p with cur := h, armed := false, begun := true, t0 := if p.begun then p.t0 else s.tns
                                 last := if r.kind = 1 then p.last else h }
              let p2 := { p1 with count := if r.kind = 0 then p.count + 1 else p.count }
              let bytes := if r.kind = 0 then 2 ^ st.k else 32
              (¬Carries c r → goes (on s c p1))
                ∧ (Carries c r → r.kind = 0 → TooEarly s c p →
                    goes (if p.begun then s else on s c { p with begun := true, t0 := s.tns }))
                ∧ (∀ bs, Carries c r → (r.kind = 0 → ¬TooEarly s c p) → s.engineRead c.ctx (st.base.toNat + i * 2 ^ st.k) bytes = .ok bs →
                    (port = true → link.isSome = true →
                        goes (on s c { p2 with emitting := true, out := recordTokens st { r with gen := (st.gen i).toNat } bs }))
                      ∧ (port = true → link = none → away = false → goes (stops s (.engine 0x20 0)))
                      ∧ (port = true → link = none → away = true → goes s)
                      ∧ (port = false → 2 ^ 32 - 1 < c.off + bytes → goes (stops s (.engine 0x13 c.off)))
                      ∧ (∀ s1, port = false → c.off + bytes ≤ 2 ^ 32 - 1 → s.agentWrite c.ctx (c.dest.toNat + c.off) bs = .ok s1 →
                          goes (sent s1 { c with off := c.off + bytes } p2))
                      ∧ (∀ code va, port = false → c.off + bytes ≤ 2 ^ 32 - 1 → code = 0x03 ∨ code = 0x04 →
                          s.agentWrite c.ctx (c.dest.toNat + c.off) bs = .error (code, va) →
                          goes (stops s (.engine (if code = 0x03 then 0x11 else 0x12) c.off))))))
    -- its tokens placed, one a step, as the port's link has room
    ∧ (∀ t rest region l, p.out = t :: rest → link = some (region, l) →
        let room := s.feedable c.owner c.dest.toNat region l (.play k)
        let fed := s.feed c.owner c.dest.toNat region l (.play k) t
        (room = false → goes s) ∧ (room = true → rest ≠ [] → goes (on fed c { p with out := rest }))
          ∧ (room = true → rest = [] → goes (sent fed c p)))

namespace Sys2Proof.Machine

/-- it is the running iteration of a core (R289). -/
def Iterates (s : State) (core : Nat) (it : Iter) : Prop := ∃ rest, (s.core core).iters = it :: rest

/-- s with the running iteration of a core in another state. -/
def withIter (s : State) (core : Nat) (it : Iter) : State :=
  s.modCore core fun c => { c with iters := it :: c.iters.drop 1 }

/-- An output port of a core has a token for a unit beside the fabric: no PRD is in its way (R239, R242). -/
def PortHas (s : State) (core ctx port region link : Nat) (t : Token) : Prop :=
  ((s.core core).port port).readPos = 0 ∧ s.portWaiters core port = [] ∧ (s.core core).portLink ctx (.output port) = some (region, link)
    ∧ ∃ r, s.region core region = some r ∧ (r.link link).head = some t

/-- Doubleword i of a slot's policy record (R292). -/
def policyWord (it : Iter) (slot i : Nat) : Nat := ((it.policies.getD slot []).getD i 0).toNat

/-- A policy record within its ranges (R292). -/
def PolicyOk (it : Iter) (slot : Nat) : Prop :=
  let w := policyWord it slot
  w 0 / 2 ^ 43 = 0 ∧ w 0 / 2 ^ 32 % 2 ^ 11 ≤ 1024 ∧ w 0 / 2 ^ 21 % 2 ^ 11 = 0 ∧ 1 ≤ w 0 % 2 ^ 19 ∧ w 0 % 2 ^ 19 ≤ 262144
    ∧ w 4 / 2 ^ 56 = 0 ∧ w 4 / 2 ^ 9 % 2 ^ 23 = 0 ∧ w 5 = 0 ∧ w 6 = 0 ∧ w 7 = 0

/-- A row header in form (R290): table index j, row i of c, lane 2. -/
def HeaderIs (h : Token) (j i c : Nat) (l2 : Dword) : Prop :=
  h.kind = .control ∧ h.fmt = 7 ∧ h.lanes = [⟨nat64 j, true⟩, ⟨nat64 (c * 16 + i), true⟩, ⟨l2, true⟩, ⟨0, true⟩] ∧ j < 1024
    ∧ 1 ≤ c ∧ c ≤ 8 ∧ i < c ∧ l2.toNat / 2 ^ 18 % 2 ^ 45 = 0

/-- The draft token of a header (R290). -/
def draftIn (l2 : Dword) : Option Nat := if l2.toNat.testBit 63 then some (l2.toNat % 2 ^ 18) else none

/-- Logits of data tokens: lanes that are invalid or NaN are out (R293). -/
def rowZ (data : List Token) : List (Option (BitVec 32)) :=
  data.flatMap fun t => t.lanes.map fun (l : Lane) =>
    if l.ok = true ∧ ¬0x7F80_0000 < l.val.toNat % 2 ^ 31 then some (BitVec.ofNat 32 l.val.toNat) else none

/-- The table entry's doubleword i as it was when the iteration began (R291). -/
def entryDword (it : Iter) (j i : Nat) : Nat := (((it.seqs.getD j { words := none }).words.getD []).getD i 0).toNat

/-- The rows of a sequence after one more. -/
def withRow (it : Iter) (j : Nat) (rows : Option Nat) (r : RowEntry) : Iter :=
  let x := it.seqs.getD j { words := none }
  { it with seqs := it.seqs.set j { x with rows := rows, got := x.got ++ [r] } }

/-- s after a row of a slot has come out (R293 to R296). -/
def rowOut (s : State) (core slot : Nat) (it : Iter) (sl : SampSlot) (row : GenRow) (o : RowOutcome) : State :=
  withIter s core ({ it with slots := it.slots.set slot sl }.outcome row o)

/-- The rows in order of their indices, the lowest first, up to the one that ends acceptance: m (R297). -/
def AcceptsTo (endToken : Nat) (rs : List RowEntry) (ts : List Nat) (f : Bool) : Prop :=
  ts ≠ [] ∧ ts.length ≤ rs.length ∧ (∀ i t, ts[i]? = some t → (rs.getD i ⟨0, none, none⟩).outcome = some (.token t)
      ∧ (i + 1 < ts.length → t ≠ endToken ∧ (rs.getD i ⟨0, none, none⟩).draft = some t)
      ∧ (i + 1 = ts.length → f = decide (t = endToken)
          ∧ (t ≠ endToken → (rs.getD i ⟨0, none, none⟩).draft ≠ some t ∨ ts.length = rs.length)))

/-- The doublewords of a commit entry (R298): the table entry's first doubleword, the decision, the tokens. -/
def commitWords (w : Dword) (d : Option Decision) : List Dword :=
  let ts : List Nat := (d.map fun (x : Decision) => x.tokens).getD []
  let word1 := match d with
    | some x => (if x.x then 2 ^ 9 else 0) + (if x.f then 2 ^ 8 else 0) + x.status % 16 * 2 ^ 4 + x.tokens.length % 16
    | none => 0
  [w, nat64 word1] ++ ((List.range 4).map fun q => nat64 (ts.getD (2 * q) 0 + ts.getD (2 * q + 1) 0 * 2 ^ 32)) ++ [0, 0]

/-- Bytes of doublewords. -/
def dwordBytes (ws : List Dword) : List Byte := ws.flatMap fun w => leBytes 8 w.toNat

/-- The commit entries of table entries from j on, n of them, written in order: t after s (R298). -/
def RecordEntries (it : Iter) : Nat → Nat → State → State → Prop
  | _, 0, s, t => t = s
  | j, n + 1, s, t => ∃ w s1, s.engineDword it.ctx (it.table.toNat + 64 * j) = .ok w
      ∧ s.agentWrite it.ctx (it.area.toNat + 64 + 64 * j) (dwordBytes (commitWords w (it.seqs.getD j { words := none }).decision)) = .ok s1
      ∧ RecordEntries it (j + 1) n s1 t

/-- s, the iteration as it, once acceptance has gone on (R298, R421): the record is written when the rows have ended and every sequence
with rows is decided. -/
def Settles (i : Instr) (s : State) (core : Nat) (it : Iter) : Prop :=
  let open_ : Prop := it.ended = false ∨ ∃ x ∈ it.seqs, x.got ≠ [] ∧ x.decision = none
  let x := withIter s core it
  (open_ → exec i s = .next x)
    ∧ (∀ t u, ¬open_ → RecordEntries it 0 it.n x t →
        t.agentWrite it.ctx it.area.toNat (dwordBytes [nat64 (it.n * 2 ^ 32 + 1), it.iteration, 0, 0, 0, 0, 0, 0]) = .ok u →
        exec i s = .next (withIter u core { it with phase := .decided, commit := {} }))

/-- A commit entry as the record holds it (R298). -/
def RecordHolds (s : State) (it : Iter) (j p seq status count : Nat) (x f : Bool) (tokens : List Nat) : Prop :=
  ∃ ds : List Dword, s.engineDwords it.ctx (it.area.toNat + 64 + 64 * j) 6 = .ok ds ∧ p < 2 ^ 32 ∧ seq < 2 ^ 32 ∧ status < 16 ∧ count ≤ 8
    ∧ ds.getD 0 0 = nat64 (p * 2 ^ 32 + seq)
    ∧ ds.getD 1 0 = nat64 ((if x then 2 ^ 9 else 0) + (if f then 2 ^ 8 else 0) + status * 2 ^ 4 + count)
    ∧ tokens.length = count ∧ ∀ q, q < count → (ds.getD (2 + q / 2) 0).toNat / 2 ^ (32 * (q % 2)) % 2 ^ 18 = tokens.getD q 0

/-- t is s after an entry stopped at token q (R299): its table entry, its position reading p, takes X, F and the position. -/
def StopsTable (s : State) (it : Iter) (j p : Nat) (t : State) (q : Nat) (f : Bool) : Prop :=
  ∃ w0 w1 : Dword, s.engineDwords it.ctx (it.table.toNat + 64 * j) 2 = .ok [w0, w1] ∧ w0.toNat / 2 ^ 32 = p
    ∧ (let v := w1.toNat - w1.toNat / 2 ^ 20 % 4 * 2 ^ 20 + 2 ^ 21 + (if f then 2 ^ 20 else 0)
       s.agentWrite it.ctx (it.table.toNat + 64 * j) (dwordBytes [nat64 ((p + q) % 2 ^ 32 * 2 ^ 32 + w0.toNat % 2 ^ 32), nat64 v]) = .ok t)

end Sys2Proof.Machine

/-- R290 to R297, R421: rows at the router, in their slots, back from their kernels, and their acceptance. Model's choices it rests on: assumption log 33, 60, 62. -/
def Obligations.RowEffects : Prop :=
  -- LOGIT_ROW
  (∀ (s : State) (core region link : Nat) (it : Iter) (t : Token), Iterates s core it → it.phase = .rows → it.ended = false →
      (s.stopped core it.ctx = false ∨ it.entered = true) → PortHas s core it.ctx it.rowPort region link t →
      let s1 := s.portTake core region link
      let it1 := { it with entered := true, part := [] }
      let gives (x : Iter) : Prop := exec (.logitRow core) s = .next (withIter s1 core x)
      (t.last = false → gives { it with entered := true, part := it.part ++ [t] })
        ∧ (∀ h data j i c l2, t.last = true → it.part ++ [t] = h :: data → HeaderIs h j i c l2 →
            let x := it.seqs.getD j { words := none }
            let active : Prop := (entryDword it j 1).testBit 19 = true ∧ (entryDword it j 1).testBit 20 = false
            let put (rows : Option Nat) (o : Option RowOutcome) : Iter := withRow it1 j rows ⟨i, draftIn l2, o⟩
            let fresh : Prop := (x.rows = none ∨ x.rows = some c) ∧ ∀ r ∈ x.got, r.index ≠ i
            let rows := if x.rows = none then some c else x.rows
            (it.n ≤ j ∨ (x.words ≠ none ∧ ¬active) →
                exec (.logitRow core) s = .next ((withIter s1 core { it1 with droppedRow := true }).modCore core fun c =>
                  { c with droppedRows := c.droppedRows + 1 }))
              ∧ (j < it.n → x.words ≠ none → active → ¬fresh → gives (put rows (some (.void 8))))
              ∧ (j < it.n → x.words = none → fresh → gives (put rows (some (.void 7))))
              ∧ (j < it.n → x.words ≠ none → active → fresh →
                  (∀ e, s1.engineDwords it.ctx (it.table.toNat + 64 * j) 8 = .error e → gives (put rows (some (.void 7))))
                    ∧ (∀ ds, s1.engineDwords it.ctx (it.table.toNat + 64 * j) 8 = .ok ds →
                        let tag := it.map.toNat / 2 ^ (4 * h.policy) % 16
                        let slot := tag % 8
                        let v := policyWord it slot 0 % 2 ^ 19
                        let short : Prop := (∃ t ∈ data, t.kind ≠ .data ∨ t.fmt ≠ 12) ∨ (rowZ data).length < v
                        (tag < 8 → gives (put rows (some (.void 4))))
                          ∧ (8 ≤ tag → ¬PolicyOk it slot → gives (put rows (some (.void 6))))
                          ∧ (8 ≤ tag → PolicyOk it slot → short → gives (put rows (some (.void 8))))
                          ∧ (8 ≤ tag → PolicyOk it slot → ¬short →
                              let it2 := put rows none
                              let sl := it.slots.getD slot {}
                              let row : GenRow := { entry := j, index := i, count := c, draft := draftIn l2, pol := h.policy, z := (rowZ data).take v }
                              gives { it2 with slots := it2.slots.set slot { sl with queue := sl.queue ++ [row] } })))))
    -- SAMPLE_ROW: the stages of R293 in order
    ∧ (∀ (s : State) (core slot : Nat) (it : Iter) (row : GenRow) (rest : List GenRow), Iterates s core it → it.phase = .rows →
        let sl := it.slots.getD slot {}
        sl.queue = row :: rest → sl.kernel = none →
        let out (o : RowOutcome) : Prop := exec (.sampleRow core slot) s = .next (rowOut s core slot it { sl with queue := rest } row o)
        let masked : Prop := (policyWord it slot 0).testBit 19 = true ∧ (entryDword it row.entry 1).testBit 16 = true
        let f32At (i : Nat) (high : Bool) : FVal := val32 (policyWord it slot i / (if high then 2 ^ 32 else 1) % 2 ^ 32)
        let greedy := (policyWord it slot 0).testBit 20
        let pens (ps : List (Nat × Nat)) : Prop :=
          let n := entryDword it row.entry 7 % 2 ^ 11
          if n = 0 then ps = [] else ∃ ds : List Dword, s.engineDwords it.ctx (entryDword it row.entry 6 % 2 ^ 56) n = .ok ds
            ∧ ps = ds.map fun (d : Dword) => (d.toNat % 2 ^ 18, d.toNat / 2 ^ 32)
        -- the logits once a mask has been applied
        let goes (z : List (Option (BitVec 32))) : Prop :=
          (∀ ps, pens ps →
            let z3 := penalise ⟨f32At 3 true, f32At 3 false, f32At 2 true⟩ ps (temperature (f32At 1 false) z)
            let p := f32At 1 true
            let m := f32At 2 false
            let usesP : Prop := p.lt (val32 0x3F80_0000) = true
            let usesM : Prop := m.isZero = false ∧ m.isNan = false
            let z4 := topK (policyWord it slot 0 / 2 ^ 32 % 2 ^ 11) z3
            let w4 := policyWord it slot 4
            let ends (z6 : List (Option (BitVec 32))) : Prop :=
              (w4.testBit 8 = false →
                out (match drawToken greedy (drawHash (nat64 (entryDword it row.entry 5)) (nat64 (entryDword it row.entry 0 % 2 ^ 32))
                    (nat64 (entryDword it row.entry 0 / 2 ^ 32)) (nat64 row.index)) z6 with
                  | some t => .token t
                  | none => .void 3))
                -- a user logit kernel takes the row, where its ports are bound
                ∧ (let bound : Prop := (s.core core).binds it.ctx (.input (w4 % 2 ^ 4)) = true ∧ (s.core core).binds it.ctx (.output (w4 / 2 ^ 4 % 2 ^ 4)) = true
                   let it1 := { it with slots := it.slots.set slot { sl with queue := rest, kernel := some { row := { row with z := z6 } } } }
                   (w4.testBit 8 = true → ¬bound → out (.void 2))
                    ∧ (w4.testBit 8 = true → bound → exec (.sampleRow core slot) s = .next ((withIter s core it1).modCore core fun c =>
                        { c with feeds := c.feeds ++ [⟨c.nextFeed, w4 % 2 ^ 4, it.ctx, it.task, .kernel slot,
                                   row.header :: logitTokens row.pol (chunksOf (laneCount 12) (z6.length + 1) z6)⟩]
                                 nextFeed := c.nextFeed + 1 })))
            (greedy = true → ends z3)
              ∧ (∀ t, greedy = false → usesP ∨ usesM → infToken z4 = some t → out (.token t))
              ∧ (greedy = false → ¬usesP → ¬usesM → ends z4)
              ∧ (greedy = false → infToken z4 = none → usesP → ¬usesM → inTokens 0 z4 ≠ [] → ends (topP p z4))
              ∧ (greedy = false → infToken z4 = none → ¬usesP → usesM → inTokens 0 z4 ≠ [] → ends (minP m z4))
              ∧ (greedy = false → infToken z4 = none → usesP → usesM → inTokens 0 z4 ≠ [] → inTokens 0 (topP p z4) ≠ [] →
                  ends (minP m (topP p z4))))
        (¬masked → goes row.z)
          ∧ (∀ e, ¬masked → entryDword it row.entry 7 % 2 ^ 11 ≠ 0 →
              s.engineDwords it.ctx (entryDword it row.entry 6 % 2 ^ 56) (entryDword it row.entry 7 % 2 ^ 11) = .error e → out (.void 7))
          ∧ (∀ m, masked → s.specMask it row = .mask m → goes ((List.range row.z.length).map fun t =>
            if m.testBit t then row.z.getD t none else none))
          ∧ (∀ o, masked → s.specMask it row = .finished o → out o) ∧ (masked → s.specMask it row = .wait → exec (.sampleRow core slot) s = .next s))
    -- the stages one by one
    ∧ (∀ (inv : FVal) (z : List (Option (BitVec 32))) (t : Nat),
        (temperature inv z).getD t none = (z.getD t none).bind fun b => logit (round32 (FVal.mul (val32 b.toNat) inv)))
    ∧ (∀ (seed seq p i : Dword), let x := seed ^^^ (seq * 0x9E37_79B9_7F4A_7C15) ^^^ (p * 0xC2B2_AE3D_27D4_EB4F) ^^^ (i * 0x1656_67B1_9E37_79F9)
        let y := (x ^^^ (x >>> 30)) * 0xBF58_476D_1CE4_E5B9
        let w := (y ^^^ (y >>> 27)) * 0x94D0_49BB_1331_11EB
        drawHash seed seq p i = w ^^^ (w >>> 31))
    -- KERNEL_ROW_RETURN and KERNEL_BUDGET_EXPIRY
    ∧ (∀ (s : State) (core slot : Nat) (it : Iter), Iterates s core it → slot < it.slots.length →
        let sl := it.slots.getD slot {}
        let put (x : SampSlot) : Iter := { it with slots := it.slots.set slot x }
        (∀ region link t, PortHas s core it.ctx (policyWord it slot 4 / 2 ^ 4 % 16) region link t →
            let s1 := s.portTake core region link
            let gives (x : Iter) : Prop := exec (.kernelRowReturn core slot) s = .next (withIter s1 core x)
            (sl.dropping = true → gives (put { sl with dropping := !t.last }))
              ∧ (∀ k, sl.dropping = false → sl.kernel = some k → (∀ e, k.ends = some e → (s.core core).cyc ≤ e) →
                  (t.last = false → gives (put { sl with kernel := some { k with back := k.back ++ [t] } }))
                    ∧ (∀ h data l2, t.last = true → k.back ++ [t] = h :: data →
                        let good : Prop := HeaderIs h k.row.entry k.row.index k.row.count l2 ∧ (∀ x ∈ data, x.kind = .data ∧ x.fmt = 12)
                          ∧ k.row.z.length ≤ (rowZ data).length
                        (good → gives ((put { sl with kernel := none }).outcome k.row
                            (it.drawRow slot k.row ((rowZ data).take k.row.z.length))))
                          ∧ (1 ≤ k.row.count → k.row.count ≤ 8 → (∀ l, ¬HeaderIs h k.row.entry k.row.index k.row.count l) →
                              gives ((put { sl with kernel := none }).outcome k.row (.void 6))))))
          ∧ (∀ k e, sl.kernel = some k → k.ends = some e → (s.core core).cyc ≤ e → exec (.kernelBudgetExpiry core slot) s = .next s)
          ∧ (∀ k e, sl.kernel = some k → k.ends = some e → e < (s.core core).cyc → exec (.kernelBudgetExpiry core slot) s
              = .next (withIter s core ((put { sl with kernel := none, dropping := true }).outcome k.row (.void 1)))))
    -- ACCEPTANCE
    ∧ (∀ (s : State) (core j : Nat) (it : Iter) (x : SeqState) (c : Nat) (rs : List RowEntry), Iterates s core it → it.phase = .rows →
        j < it.n → it.seqs[j]? = some x → x.decision = none → x.rows = some c → c ≤ x.got.length → (∀ r ∈ x.got, r.outcome ≠ none) →
        let decides (d : Decision) : Prop := Settles (.acceptance core j) s core { it with seqs := it.seqs.set j { x with decision := some d } }
        (∀ r st, r ∈ x.got → r.outcome = some (.void st) → (∀ q ∈ x.got, ∀ v, q.outcome = some (.void v) → q = r ∨ r.index < q.index) →
            decides ⟨true, false, st, []⟩)
          ∧ (∀ ts f, (∀ r ∈ x.got, ∀ v, r.outcome ≠ some (.void v)) → x.got.Perm rs → rs.Pairwise (fun a b => a.index < b.index) →
              AcceptsTo (entryDword it j 1 / 2 ^ 32 % 2 ^ 18) rs ts f →
              decides ⟨false, f, 0, ts⟩))
    -- ROWS_END
    ∧ (∀ (s : State) (core : Nat) (it : Iter), Iterates s core it → it.phase = .rows → it.ended = false →
        let active (x : SeqState) : Prop := ∃ ws : List Dword, x.words = some ws ∧ (ws.getD 1 0).toNat.testBit 19 = true
          ∧ (ws.getD 1 0).toNat.testBit 20 = false
        let whole (x : SeqState) : Prop := ∃ c, x.rows = some c ∧ c ≤ x.got.length
        let dry : Prop := (∀ f ∈ (s.core core).feeds, ¬(f.ctx = it.ctx ∧ f.for_ = .start)) ∧ it.part = []
          ∧ ∃ region link r, (s.core core).portLink it.ctx (.output it.rowPort) = some (region, link) ∧ s.region core region = some r
            ∧ 2 ≤ r.quiet ∧ r.isQuiet = true ∧ (r.link link).queue = []
        let ended : Prop := (∀ x ∈ it.seqs, active x → whole x) ∨ dry
        ended → ∀ seqs : List SeqState, seqs.length = it.seqs.length →
          (∀ (j : Nat) (x : SeqState), it.seqs[j]? = some x →
            let waits : Prop := x.decision = none ∧ ¬whole x
            seqs[j]? = some (if waits ∧ x.got ≠ [] then { x with decision := some ⟨true, false, 8, []⟩ }
              else if waits ∧ active x then { x with decision := some ⟨false, false, 0, []⟩ } else x)) →
          Settles (.rowsEnd core) s core { it with seqs := seqs, ended := true })

/-- R97, R298 to R303, R308, R312, R313: the commit unit's effects, the hold queue's releases, and the scrubber. Model's choices it rests on: assumption log 61, 65, 66. -/
def Obligations.CommitAndScrubEffects : Prop :=
  -- COMMIT
  (∀ (s : State) (core : Nat) (it : Iter), Iterates s core it → it.phase = .decided → s.stopped core it.ctx = false →
      let a := it.commit
      let gives (x : State) : Prop := exec (.commit core) s = .next x
      let begun : Prop := a ≠ {} ∨ ∃ w : Dword, s.engineDwords it.ctx it.area.toNat 2 = .ok [w, it.iteration] ∧ w.toNat % 2 ^ 8 = 1
      let at_ (x : State) (b : CommitAt) : State := withIter x core { it with commit := b }
      -- the end: state 2, the status word to its strand
      (∀ s1, begun → it.n ≤ a.entry → (s.core core).iters = [it] →
          s.agentWrite it.ctx it.area.toNat (dwordBytes [nat64 (it.n * 2 ^ 32 + 2)]) = .ok s1 →
          ∃ t, exec (.commit core) s = .next t ∧ t.mem = s1.mem ∧ (t.core core).iters = []
            ∧ (let status := if a.status = 0 ∧ it.droppedRow = true then 8 else a.status
               let word := nat64 (status % 256 * 2 ^ 48 + a.tokens % 2 ^ 16 * 2 ^ 32 + a.faulted % 2 ^ 16 * 2 ^ 16 + a.committed % 2 ^ 16)
               t.completions = s.completions ++ [{ core := core, sid := it.sid, space := 2, tag := it.tag, value := word }]))
        ∧ (∀ p seq status count x f tokens, begun → a.entry < it.n → RecordHolds s it a.entry p seq status count x f tokens →
            let past (st : Nat) (fault : Bool) : CommitAt :=
              { entry := a.entry + 1, status := if a.status = 0 then st else a.status, tokens := a.tokens + count
                faulted := a.faulted + (if fault ∧ st ≠ 0 then 1 else 0), committed := a.committed + (if count = 0 then 0 else 1) }
            let table := it.table.toNat + 64 * a.entry
            -- nothing committed: X is set where the decision sets it
            (count = 0 → x = false → gives (at_ s (past status false)))
              ∧ (∀ (w : Dword) s1, count = 0 → x = true → s.engineDword it.ctx (table + 8) = .ok w →
                  s.agentWrite it.ctx (table + 8) (dwordBytes [w ||| nat64 (2 ^ 21)]) = .ok s1 → gives (at_ s1 (past status true)))
              -- every token committed: X, F and position, only while the position reads P
              ∧ (∀ (w0 w1 : Dword), 1 ≤ count → a.token = count → status ≠ 7 → status ≠ 9 →
                  s.engineDwords it.ctx table 2 = .ok [w0, w1] →
                  (w0.toNat / 2 ^ 32 ≠ p → gives (at_ s (past status x)))
                    ∧ (∀ s1, w0.toNat / 2 ^ 32 = p →
                        let v := w1.toNat - w1.toNat / 2 ^ 20 % 4 * 2 ^ 20 + (if x then 2 ^ 21 else 0) + (if f then 2 ^ 20 else 0)
                        s.agentWrite it.ctx table (dwordBytes [nat64 ((p + count) % 2 ^ 32 * 2 ^ 32 + w0.toNat % 2 ^ 32), nat64 v]) = .ok s1 →
                        gives (at_ s1 (past status x))))
              -- the effects of token q, in order
              ∧ (a.token < count →
                  let token := tokens.getD a.token 0
                  let pos := (p + a.token) % 2 ^ 32
                  let flag (n : Nat) : Bool := (entryDword it a.entry 1).testBit n
                  let next (n : Nat) : CommitAt := if n < 4 then { a with effect := n } else { a with effect := 0, token := a.token + 1 }
                  (a.effect = 0 → entryDword it a.entry 4 % 2 ^ 16 = 0 → gives (at_ s { next 1 with handle := nat64 (2 ^ 64 - 1) }))
                    -- one KV copy a token: source, destination, length, no checksum word
                    ∧ (∀ ds bs s1, a.effect = 0 → entryDword it a.entry 4 % 2 ^ 16 = 1 → flag 22 = false →
                        let list := entryDword it a.entry 3 % 2 ^ 56
                        let src := (ds.getD 0 0 : Dword).toNat
                        let dst := (ds.getD 1 0 : Dword).toNat
                        let len := (ds.getD 2 0 : Dword).toNat % 2 ^ 32
                        list % 32 = 0 → s.engineDwords it.ctx (list + 32 * a.token) 4 = .ok ds → src < 2 ^ 56 → dst < 2 ^ 56 →
                        (ds.getD 2 0 : Dword).toNat < 2 ^ 33 → (ds.getD 3 0 : Dword).toNat < 2 ^ 56 →
                        s.engineRead it.ctx src len = .ok bs → (dst + len ≤ src ∨ src + len ≤ dst) →
                        { s with fresh := s.fresh + len }.agentWrite it.ctx dst bs = .ok s1 →
                        gives (at_ s1 { next 1 with handle := nat64 (2 ^ 64 - 1) }))
                    ∧ (a.effect = 1 → flag 16 = false → gives (at_ s (next 2)))
                    ∧ (∀ g, a.effect = 1 → flag 16 = true → s.myGram it.ctx (nat64 (entryDword it a.entry 1 % 2 ^ 13)) = .ok (entryDword it a.entry 1 % 2 ^ 13, g) →
                        (g.position ≠ BitVec.ofNat 32 pos →
                            gives (at_ s { next 2 with handle := (g.keyed.lookup (BitVec.ofNat 32 pos)).getD (nat64 (2 ^ 64 - 1)) }))
                          ∧ (∀ g1, g.position = BitVec.ofNat 32 pos → s.gramStep g token = .ok g1 → flag 23 = false →
                              let keep := { g1 with keyed := ((BitVec.ofNat 32 pos, nat64 (2 ^ 64 - 1)) :: g1.keyed).take 8 }
                              gives (at_ (s.setGram (entryDword it a.entry 1 % 2 ^ 13) keep) { next 2 with handle := nat64 (2 ^ 64 - 1) })))
                    ∧ (a.effect = 2 → flag 17 = false → gives (at_ s (next 3)))
                    ∧ (∀ id st num ei er, a.effect = 2 → flag 17 = true →
                        s.checkEpisode it.ctx (nat64 (entryDword it a.entry 2)) = .ok (id, st, num, ei) → s.readEp st ei = .ok er →
                        (er.next ≠ (pos + 1) % 2 ^ 32 → gives (at_ s (next 3)))
                          ∧ (∀ h s1, er.next = (pos + 1) % 2 ^ 32 →
                              s.epAppend it.ctx (nat64 (entryDword it a.entry 2)) 0 0 (some (leBytes 8 token ++ leBytes 8 a.handle.toNat)) = .ok (h, s1) →
                              gives (at_ s1 (next 3)))
                          ∧ (∀ c s1, er.next = (pos + 1) % 2 ^ 32 → status = 9 → StopsTable s it a.entry p s1 a.token
                                ((tokens.take a.token).contains (entryDword it a.entry 1 / 2 ^ 32 % 2 ^ 18)) →
                              s.epAppend it.ctx (nat64 (entryDword it a.entry 2)) 0 0 (some (leBytes 8 token ++ leBytes 8 a.handle.toNat))
                                = .error (.refuse c) →
                              gives (at_ s1 (past 9 true))))
                    ∧ (a.effect = 3 → flag 18 = false → gives (at_ s (next 4)))
                    ∧ (a.effect = 3 → flag 18 = true →
                        let domain := entryDword it a.entry 1 / 2 ^ 24 % 2 ^ 8
                        let due := s.gen.nextPosition domain seq
                        (pos < due → gives (at_ s (next 4)))
                          ∧ (due ≤ pos → 65536 ≤ s.gen.hold.length → gives s)
                          ∧ (due ≤ pos → s.gen.hold.length < 65536 → ∃ g : GenState, gives (at_ (s.setGen g) (next 4))
                              ∧ g.hold = s.gen.hold ++ [{ domain := domain, seq := seq, position := pos, token := token }]
                              ∧ (∀ d q, g.nextPosition d q = if d = domain ∧ q = seq then pos + 1 else s.gen.nextPosition d q)
                              ∧ g = { s.gen with hold := g.hold, holdNext := g.holdNext })))))
    -- HOLD_ENTRY_RELEASE: in position order within a sequence; the layout of a ring's record is a free value (log)
    ∧ (∀ (s : State) (domain seq : Nat) (e : HoldEntry), e ∈ s.gen.hold → e.domain = domain → e.seq = seq →
        (∀ x ∈ s.gen.hold, x.domain = domain → x.seq = seq → x = e ∨ e.position < x.position) →
        (e.released = false → exec (.holdEntryRelease domain seq) s = .next s)
          ∧ (e.released = true → let d := s.gen.domains.getD domain {}
              exec (.holdEntryRelease domain seq) s = .next ((s.setGen { s.gen with hold := s.gen.hold.erase e }).ringWrite d.producer d.ring
                (leBytes 16 (Config.holdRecord domain seq e.position e.token).toNat))))
    -- a record on a ring: slot c mod 2^n, then the counter, then the vector
    ∧ (∀ (s s1 s2 : State) (ctx : Nat) (r : Ring) (bs : List Byte) (c : Dword), s.engineDword ctx r.counter.toNat = .ok c →
        s.engineWrite ctx (r.va.toNat + bs.length * (c.toNat % 2 ^ r.logSize)) bs = .ok s1 →
        s1.engineWrite ctx r.counter.toNat (leBytes 8 (c + 1).toNat) = .ok s2 → s.ringWrite ctx r bs = vectorRaised s2 r.vector)
    -- SCRUB_ENTRY
    ∧ (∀ (s : State) (ctx index : Nat) (ds : List Dword),
        let x := s.ctx ctx
        x.created = true → x.dead = false → index < x.scrubCount → s.engineDwords ctx (x.scrubList.toNat + 64 * index) 8 = .ok ds →
        let w (i : Nat) : Nat := (ds.getD i 0).toNat
        let data := w 0 % 2 ^ 56
        let scales := w 2 % 2 ^ 56
        ((w 4).testBit 63 = false → exec (.scrubEntry ctx index) s = .next s)
          ∧ (∀ b1 b2 b3 p1 p2, (w 4).testBit 63 = true → s.engineRead ctx data (w 1 % 2 ^ 32) = .ok b1 →
              s.engineRead ctx scales (w 1 / 2 ^ 32) = .ok b2 → s.engineRead ctx (w 3 % 2 ^ 56) 4 = .ok b3 →
              s.engineRange ctx data (w 1 % 2 ^ 32) .read = .ok p1 → s.engineRange ctx scales (w 1 / 2 ^ 32) .read = .ok p2 →
              let sum := (crc32c (b1 ++ b2)).toNat
              (sum = leNat b3 → exec (.scrubEntry ctx index) s = .next s)
                ∧ (sum ≠ leNat b3 → ∃ s1 : State, s1 = { s with slice := s1.slice } ∧ s1.slice = { s.slice with poison := s1.slice.poison }
                    ∧ (∀ l, l ∈ s1.slice.poison ↔ l ∈ s.slice.poison ∨ ∃ p ∈ p1 ++ p2, isMain p.2.1 = true ∧ l = p.2.1 / 128)
                    ∧ exec (.scrubEntry ctx index) s = .next (s1.ringWrite ctx x.scrubRing
                      (leBytes 8 index ++ leBytes 8 data ++ leBytes 8 (leNat b3 * 2 ^ 32 + sum) ++ leBytes 8 s.tns)))))

namespace Sys2Proof.Machine

/-- s with the AG state of a cell's element. -/
def withAg (s : State) (core region cell : Nat) (r : Region) (ag : AgState) : State :=
  s.setRegion core region (r.setCell cell { r.cell cell with ag := ag })

/-- Element x as memory gives it at a physical address: invalid where its line is poisoned (R145, R149). -/
def laneAt (s : State) (x : ElemAt) (pa : Nat) : Lane :=
  if s.poisoned pa x.bytes then ⟨0, false⟩ else ⟨nat64 (s.mem.readN pa x.bytes / 2 ^ x.bit % 2 ^ x.width), true⟩

/-- A loading AG's next token can be read: its lanes' elements from pos on, n of them, lie at these addresses, in lines at hand. -/
def TokenAtHand (s : State) (r : Region) (sh : Shape) (pos n : Nat) (pa : Nat → Nat) : Prop :=
  pos < roundElems .load sh ∧ n = min sh.perToken (sh.extent 1 - pos % sh.extent 1) ∧ ∀ k, k < n → (sh.elem (pos + k)).fault = none
    ∧ s.engineXlat r.ctx (sh.elem (pos + k)).va.toNat .read = .ok (pa k) ∧ (isMain (pa k) = true → s.resident (pa k / 128) = true)

/-- The instruction gives a loading AG its next token (R149, R154). -/
def TokenFetched (i : Instr) (s : State) (core region cell : Nat) (r : Region) (sh : Shape) (n : Nat) (pa : Nat → Nat) : Prop :=
  let ag := (r.cell cell).ag
  let lanes := (List.range n).map fun k => laneAt s (sh.elem (ag.pos + k)) (pa k)
  let token : Token := { policy := ag.policy, iter := ag.iter, last := decide (ag.pos % sh.extent 1 + n = sh.extent 1), fmt := sh.fmt, lanes := lanes }
  ∃ t r' lines, exec i s = .next t ∧ t.region core region = some r' ∧ t.mem = s.mem
    ∧ (r'.cell cell).ag = { ag with ahead := ag.ahead ++ [(token, lines)], pos := ag.pos + n, fault := none }
    ∧ (r'.sumPoison = true ↔ r.sumPoison = true ∨ ∃ l ∈ lanes, l.ok = false)

/-- Something of a context is on a core (R378). -/
def OnCore (s : State) (core ctx : Nat) : Prop :=
  (∃ x ∈ s.strands, x.1 / 65536 = core ∧ x.2.ctx = ctx) ∨ (∃ r ∈ (s.core core).regions, r.2.ctx = ctx)
    ∨ (∃ r ∈ (s.core core).ready, r.ctx = ctx) ∨ (∃ i ∈ (s.core core).iters, i.ctx = ctx) ∨ ∃ c ∈ s.cmds, c.core = core ∧ c.ctx = ctx

/-- Strand k is the context's system strand on a core (R379): its live root strand of lowest id. -/
def SystemStrand (s : State) (core ctx k : Nat) : Prop :=
  let root (x : Nat × Strand) : Prop := x.1 / 65536 = core ∧ x.2.ctx = ctx ∧ x.2.scout = false ∧ x.2.parent = none
  (∃ x ∈ s.strands, x.1 = k ∧ root x) ∧ ∀ x ∈ s.strands, root x → k ≤ x.1

/-- The strands of a context resident on a core. -/
def ResidentsAre (s : State) (core ctx : Nat) (ks : List Nat) : Prop :=
  ks = ((s.residents core).filter fun x => decide (x.1 / 65536 = core) && decide (x.2.ctx = ctx)).map fun x => x.1

/-- A region of a context that freezes: every one but that whose pass, under way at the deadline, has completed since (R380). -/
def Freezes (p : Preemption) (r : Region) : Prop := r.ctx = p.ctx ∧ ¬(r.number ∈ p.passing ∧ r.status = .idle)

/-- Nothing of a context remains in the part (R98, R121, R209, R377). -/
def Gone (t : State) (ctx : Nat) : Prop :=
  (∀ x ∈ t.strands, x.2.ctx ≠ ctx) ∧ (∀ c ∈ t.cmds, c.ctx ≠ ctx) ∧ (∀ r ∈ t.firn.reqs, r.ctx ≠ ctx) ∧ (∀ x ∈ t.firn.stores, x.2.ctx ≠ ctx)
    ∧ (∀ x ∈ t.firn.cursors, x.2.ctx ≠ ctx) ∧ (∀ x ∈ t.gen.grams, x.2.ctx ≠ ctx) ∧ (∀ x ∈ t.gen.snaps, x.2.ctx ≠ ctx)
    ∧ (∀ x ∈ t.sched.tasks, x.2.ctx ≠ ctx) ∧ (∀ r ∈ t.slice.reqs, r.ctx ≠ ctx) ∧ (∀ r ∈ t.slice.stvs, r.ctx ≠ ctx)
    ∧ (∀ r ∈ t.slice.ldvs, r.ctx ≠ ctx)
    ∧ ∀ c ∈ t.cores, (∀ r ∈ c.2.regions, r.2.ctx ≠ ctx) ∧ (∀ r ∈ c.2.ready, r.ctx ≠ ctx) ∧ (∀ i ∈ c.2.iters, i.ctx ≠ ctx)
        ∧ (∀ f ∈ c.2.frozen, f.ctx ≠ ctx) ∧ (∀ e ∈ c.2.cb, ∀ o ∈ e.owners, o.1 ≠ ctx)

end Sys2Proof.Machine

/-- R143, R149, R154, R156, R237, R239, R376: what answers a streaming agent, and a held AG's retries. Model's choices it rests on: assumption log 33, 84. -/
def Obligations.StreamReplies : Prop :=
  -- AGLD: its next token, at a reply or at a retry
  (∀ (s : State) (core region cell : Nat) (r : Region) (e : EWord) (sh : Shape), s.region core region = some r →
      (r.cell cell).elem = some (.agld e) → (r.cell cell).ag.round = some sh →
      let ag := (r.cell cell).ag
      let reply : Instr := .streamReply core (.cell region cell)
      let retry : Instr := .agFaultRetry core region cell
      (∀ n pa, ag.fault = none → r.mayFetch ag e = true → TokenAtHand s r sh ag.pos n pa → TokenFetched reply s core region cell r sh n pa)
        ∧ (ag.fault ≠ none ∨ r.mayFetch ag e = false → exec reply s = .next s)
        ∧ (ag.fault = none → exec retry s = .next s)
        ∧ (∀ f, ag.fault = some f → s.tns < f.retryAt → exec retry s = .next s)
        ∧ (∀ f n pa, ag.fault = some f → f.retryAt ≤ s.tns → TokenAtHand s r sh ag.pos n pa → TokenFetched retry s core region cell r sh n pa)
        -- a retry that fails again writes no new event
        ∧ (∀ f code, ag.fault = some f → f.retryAt ≤ s.tns → ag.pos < roundElems .load sh → 0 < sh.perToken →
            (sh.elem ag.pos).fault = none → s.engineXlat r.ctx (sh.elem ag.pos).va.toNat .read = .error code →
            exec retry s = .next (withAg s core region cell r { ag with fault := some ⟨code, (sh.elem ag.pos).va, s.tns + 10000⟩ })))
    -- AGST: its oldest store accepted at its slice
    ∧ (∀ (s : State) (core region cell : Nat) (r : Region) (e : EWord) (p : PendStore) (w : ElemWrite), s.region core region = some r →
        (r.cell cell).elem = some (.agst e) → (r.cell cell).ag.stores = [p] → p.writes = [w] → r.blocks p = false → r.squashed p = false →
        isMain w.pa = true → w.bit = 0 → w.width = 8 * w.bytes → 0 < w.bytes → s.mem.wf = true → s.rimes = [] →
        let reply : Instr := .streamReply core (.cell region cell)
        (s.resident (w.pa / 128) = true → ∃ t, exec reply s = .next t ∧ t.mem.readN w.pa w.bytes = w.code % 2 ^ (8 * w.bytes)
            ∧ memoryUnchangedBut s t (fun a => w.pa ≤ a ∧ a < w.pa + w.bytes)
            ∧ t.region core region = some (r.setCell cell { r.cell cell with ag := { (r.cell cell).ag with stores := [] } }))
          ∧ (s.resident (w.pa / 128) = false → s.filling (w.pa / 128) = false → s.evictingLine (w.pa / 128) = false →
              ∃ t, exec reply s = .next t ∧ t.filling (w.pa / 128) = true ∧ t.mem = s.mem
                ∧ t.region core region = some (r.setCell cell { r.cell cell with ag := { (r.cell cell).ag with stores := [p] } })))
    -- a unit beside the fabric that feeds an input port
    ∧ (∀ (s : State) (core region link : Nat) (f : PortFeed) (fs : List PortFeed) (t : Token) (rest : List Token),
        (s.core core).feeds = f :: fs → s.stopped core f.ctx = false → (s.core core).portLink f.ctx (.input f.port) = some (region, link) →
        f.tokens = t :: rest → (∀ x ∈ fs, x.id ≠ f.id) →
        let room := s.feedable core f.port region link (.feed f.id)
        let fed := s.feed core f.port region link (.feed f.id) t
        let left (x : State) : State := x.modCore core fun c =>
          { c with feeds := if rest = [] then c.feeds.filter fun x => decide (x.id ≠ f.id)
              else c.feeds.map fun (x : PortFeed) => if x.id = f.id then { x with tokens := rest } else x }
        let me : Instr := .streamReply core (.feed f.port)
        (room = true → f.for_ = .start → exec me s = .next (left fed))
          ∧ (∀ j, room = true → f.for_ = .mask j → exec me s
              = .next (if rest = [] then (left fed).answer j.asker false (.ok (nat64 (j.allowed * 2 ^ 8))) else left fed))
          -- the budget of a kernel's row runs from its first token, the header
          ∧ (∀ slot it k, room = true → f.for_ = .kernel slot → Iterates fed core it → (it.slots.getD slot {}).kernel = some k → k.ends = none →
              (t.kind ≠ .control → exec me s = .next (left fed))
                ∧ (t.kind = .control →
                    let b := policyWord it slot 4 / 2 ^ 32 % 2 ^ 24
                    let k1 := { k with ends := some ((fed.core core).cyc + (if b = 0 then 2 ^ 24 else b)) }
                    exec me s = .next (left (withIter fed core
                      { it with slots := it.slots.set slot { it.slots.getD slot {} with kernel := some k1 } }))))
          ∧ (room = false → (∀ x ∈ fs, x.port ≠ f.port) → exec me s = .next s))

/-- R301, R323, R377 to R382, R420: a context pre-empted from a core and resumed there, and contexts destroyed. Model's choices it rests on: assumption log 57, 58, 76. -/
def Obligations.PreemptionEffects : Prop :=
  -- PREEMPT and its notice
  (∀ (s : State) (core ctx window : Nat) (notice : Bool),
      let me : Instr := .preempt core ctx notice window
      let idle : Prop := (s.core core).preemption = none ∧ ctx ∉ (s.core core).out ∧ OnCore s core ctx
      let w := if notice then 1000 * window else 0
      let begun := s.modCore core fun c => { c with preemption := some { ctx := ctx, deadline := s.tns + w } }
      (¬idle → exec me s = .next s)
        ∧ (idle → w = 0 ∨ (∀ k, ¬SystemStrand s core ctx k) → exec me s = .next begun)
        ∧ (∀ k st, idle → 0 < w → SystemStrand s core ctx k → s.strands.get? k = some st →
            (st.tvec.toNat % 2 ^ 56 < 4 → exec me s = .next begun)
              ∧ (4 ≤ st.tvec.toNat % 2 ^ 56 → ∃ t, exec me s = .next t ∧ t.strand k = { st with notice := some (s.tns + w) }
                  ∧ (∀ j, j ≠ k → t.strand j = s.strand j) ∧ (∀ j, j ≠ k → t.records.get? j = s.records.get? j) ∧ t.mem = s.mem
                  ∧ (t.core core).preemption = some { ctx := ctx, deadline := s.tns + w }
                  ∧ (s.records.get? k = none → t.records.get? k = none)
                  ∧ (∀ r, s.records.get? k = some r → r.sys = false →
                      -- a JOIN waits again at its own PC, a Retry executes again, a Suspend keeps its wait
                      (r.kind = .join → ∃ r', t.records.get? k = some r' ∧ r'.ready = true ∧ r'.y = true ∧ r'.pc = r.ownPc ∧ r'.dirty = r.dirty)
                        ∧ (r.kind ≠ .join → r.ready = true ∨ r.retry = true → ∃ r', t.records.get? k = some r' ∧ r'.ready = true
                            ∧ r'.y = true ∧ r'.pc = r.pc)
                        ∧ (r.kind ≠ .join → r.ready = false → r.retry = false → t.records.get? k = some r)))))
    -- PREEMPT_DEADLINE: strands yield at instruction boundaries
    ∧ (∀ (s : State) (core : Nat) (p : Preemption), (s.core core).preemption = some p →
        (p.yielded = true ∨ s.tns < p.deadline → exec (.preemptDeadline core) s = .next s)
          ∧ (p.yielded = false → p.deadline ≤ s.tns → (s.core core).iters = [] → ResidentsAre s core p.ctx [] →
              ∃ t, exec (.preemptDeadline core) s = .next t ∧ t.mem = s.mem ∧ t.records = s.records
                ∧ (t.core core).preemption = some { p with
                    yielded := true, freezeAt := s.tns + 1000 * (s.core core).freezeUs
                    passing := ((s.core core).regions.filter fun x => decide (x.2.ctx = p.ctx) && decide (x.2.status = .running)).map fun x => x.1 })
          ∧ (∀ k st place, p.yielded = false → p.deadline ≤ s.tns → (s.core core).iters = [] → ResidentsAre s core p.ctx [k] →
              s.strands.get? k = some st → st.scout = false → st.core = core → st.ctx = p.ctx → k / 65536 = core → s.slotFor core p.ctx .forced = some place →
              ∃ t r, exec (.preemptDeadline core) s = .next t ∧ t.mem = s.mem ∧ t.records.get? k = some r ∧ r.kind = .preempted
                ∧ r.ready = false ∧ r.pc = st.pc ∧ r.place = place ∧ r.dmask = st.dmask ∧ (t.strand k).place = .recorded
                ∧ (∀ j, j ≠ k → t.records.get? j = s.records.get? j)))
    -- FREEZE_THRESHOLD_EXPIRY
    ∧ (∀ (s : State) (core : Nat) (p : Preemption), (s.core core).preemption = some p →
        let c := s.core core
        let due : Prop := p.yielded = true ∧ p.frozen = false ∧ ((∀ x ∈ c.regions, ¬(x.2.ctx = p.ctx ∧ x.2.status = .running)) ∨ p.freezeAt ≤ s.tns)
        (¬due → exec (.freezeThresholdExpiry core) s = .next s)
          ∧ (due → ∃ t, exec (.freezeThresholdExpiry core) s = .next t ∧ t.mem = s.mem ∧ t.strands = s.strands
              ∧ (t.core core).preemption = some { p with frozen := true }
              ∧ ((∀ x ∈ c.regions, ¬Freezes p x.2) → (t.core core).regions = c.regions ∧ (t.core core).frozen = c.frozen)
              ∧ ((∃ x ∈ c.regions, Freezes p x.2) → ∃ f, (t.core core).frozen = c.frozen ++ [f] ∧ f.ctx = p.ctx ∧ f.w = c.w ∧ f.a = c.a
                  ∧ f.c = c.c ∧ f.toRestore = [] ∧ (∀ r, r ∈ f.regions ↔ ∃ x ∈ c.regions, x.2 = r ∧ Freezes p r)
                  ∧ (∀ x, x ∈ (t.core core).regions ↔ x ∈ c.regions ∧ ¬Freezes p x.2)
                  ∧ (∀ x, x ∈ f.streams ↔ x ∈ c.streams ∧ x.ctx = p.ctx) ∧ ∀ x ∈ (t.core core).streams, x.ctx ≠ p.ctx)))
    -- CONTEXT_SWITCH
    ∧ (∀ (s : State) (core : Nat) (p : Preemption), (s.core core).preemption = some p → p.resumeAfter = false →
        let c := s.core core
        let past : Prop := p.yielded = true ∧ p.frozen = true ∧ ∀ x ∈ c.regions, ¬(x.2.ctx = p.ctx ∧ x.2.status = .running)
        (¬past → exec (.contextSwitch core) s = .next s)
          ∧ (past → c.cb ≠ [] → ∃ t, exec (.contextSwitch core) s = .next t ∧ (∀ e ∈ (t.core core).cb, e.draining = true)
              ∧ (t.core core).preemption = some p ∧ t.mem = s.mem)
          ∧ (past → c.cb = [] → (∀ x ∈ s.strands, x.1 / 65536 = core → x.2.ctx = p.ctx → x.2.scout = false) →
              let mine (x : Nat × Record) : Bool := decide (x.1 / 65536 = core) && decide (x.2.ctx = p.ctx)
              let spilled := s.records.map fun (x : Nat × Record) => if mine x then (x.1, { x.2 with place := .spill }) else x
              ({ s with records := spilled }.spillUsed p.ctx ≤ (s.ctx p.ctx).spillRecords →
                  ∃ t, exec (.contextSwitch core) s = .next t ∧ t.records = spilled ∧ t.mem = s.mem ∧ t.strands = s.strands
                    ∧ (t.core core).preemption = none ∧ (t.core core).out = p.ctx :: c.out ∧ (t.core core).bufCtx = none
                    ∧ (∀ l ∈ (t.core core).l1, l.stale = true ∧ l.pin ≠ none))
                ∧ ((s.ctx p.ctx).spillRecords < { s with records := spilled }.spillUsed p.ctx →
                    exec (.contextSwitch core) s = .next (s.overflowKill core p.ctx))))
    -- RESUME and REGION_RESTORE
    ∧ (∀ (s : State) (core ctx : Nat),
        let c := s.core core
        (∀ p, c.preemption = some p → p.ctx = ctx →
            exec (.resume core ctx) s = .next (s.setCore core { c with preemption := some { p with resumeAfter := true } }))
          ∧ ((∀ p, c.preemption = some p → p.ctx ≠ ctx) → ctx ∉ c.out → exec (.resume core ctx) s = .next s)
          ∧ ((∀ p, c.preemption = some p → p.ctx ≠ ctx) → ctx ∈ c.out → c.iters = [] → s.firn.reqs = [] → c.regions = [] →
              (s.records.map fun x => x.1).Nodup →
              ∃ t, exec (.resume core ctx) s = .next t ∧ t.mem = s.mem ∧ t.strands = s.strands
                ∧ (∀ x, x ∈ (t.core core).out ↔ x ∈ c.out ∧ x ≠ ctx)
                ∧ (∀ k r, s.records.get? k = some r → k / 65536 = core → r.ctx = ctx → r.kind = .preempted →
                    ∃ r', t.records.get? k = some r' ∧ r'.ready = true ∧ r'.pc = r.pc)
                ∧ (∀ k r, s.records.get? k = some r → ¬(k / 65536 = core ∧ r.ctx = ctx ∧ r.kind = .preempted) → t.records.get? k = some r)
                ∧ (t.core core).frozen = c.frozen.map fun (f : Frozen) =>
                    if f.ctx = ctx then { f with toRestore := f.regions.map fun r => r.number } else f))
    ∧ (∀ (s : State) (core n : Nat) (f : Frozen) (r : Region),
        let c := s.core core
        -- the region's cells, ports and ranges are free; the buffers are not yet the context's
        c.regions = [] → c.frozen = [f] → n ∈ f.toRestore → f.regions = [r] → r.number = n → c.bufCtx ≠ some f.ctx → c.streams = [] →
        ∃ t r', exec (.regionRestore core n) s = .next t ∧ t.region core n = some r' ∧ (t.core core).frozen = [] ∧ t.mem = s.mem
          ∧ r'.links = r.links ∧ r'.ctx = r.ctx ∧ r'.status = r.status ∧ r'.shapes = r.shapes
          -- what freeze-and-spill saved of the buffers and of the stream map
          ∧ (∀ k, (t.core core).w.get? k = f.w.get? k) ∧ (∀ k, (t.core core).a.get? k = f.a.get? k)
          ∧ (∀ k, (t.core core).c.get? k = f.c.get? k) ∧ (t.core core).streams = f.streams)
    -- CONTEXT_DESTROY
    ∧ (∀ (s : State) (ctx : Nat),
        ((s.ctx ctx).created = false → exec (.contextDestroy ctx) s = .next s)
          ∧ ((s.ctx ctx).created = true → ∃ t, exec (.contextDestroy ctx) s = .next t ∧ t.ctxs.get? ctx = none ∧ (s.rimes = [] → t.mem = s.mem)
              ∧ (∀ l ∈ t.slice.lines, l.lockedBy ≠ some ctx) ∧ (∀ c ∈ t.cores, ∀ l ∈ c.2.l1, l.pin ≠ some ctx)
              ∧ ((s.ctx ctx).dead = false → Gone t ctx ∧ ∀ n x, s.sched.slots.get? n = some x → x.ctx = ctx → x.state ≠ .unbound →
                  ∃ y, t.sched.slots.get? n = some y ∧ y.state = .failed ∧ y.pending = none)))

namespace Sys2Proof.Machine

/-- Entry e is malformed at a level (R384). -/
abbrev Malformed (lev : Nat) (e : Dword) : Prop :=
  let n := e.toNat
  n / 2 ^ 52 ≠ 0 ∨ n / 2 ^ 6 % 2 ^ 7 ≠ 0 ∨ (n.testBit 1 = true ∧ lev = 4) ∨ (n.testBit 1 = false ∧ lev = 1)
    ∨ (n.testBit 1 = false ∧ n / 2 ^ 2 % 2 ^ 4 ≠ 0) ∨ (n.testBit 1 = true ∧ n / 2 ^ 13 % 2 ^ 39 % 2 ^ (10 * lev + 6 - 13) ≠ 0)

/-- The walk of R385 from a node at a level down: what it ends in. -/
def WalkEnds (s : State) (va : Nat) : Nat → Nat → Except Nat (Nat × Dword) → Prop
  | 0, _, _ => False
  | l + 1, a, res =>
    let lev := l + 1
    let pa := a + 8 * (va / 2 ^ (10 * lev + 6) % 2 ^ 10)
    let e := s.mem.dword pa
    if s.linePoisoned (pa / 128) = true then res = .error 0x07
    else if e.toNat.testBit 0 = false then res = .error 0x03
    else if Malformed lev e then res = .error 0x04
    else if e.toNat.testBit 1 then res = .ok (10 * lev + 6, e)
    else WalkEnds s va l (e.toNat / 2 ^ 13 % 2 ^ 39 * 2 ^ 13) res

/-- A cached leaf maps a VA of a context. -/
def Maps (e : TlbEntry) (ctx va : Nat) : Prop := e.ctx = ctx ∧ e.page = va / 2 ^ e.bits

/-- Entries a shootdown drops (R387): one page, a context's, or all. -/
def Dropped (range : BitVec 2) (va : BitVec 64) (ctx : Nat) (e : TlbEntry) : Prop :=
  (range = 0 ∧ Maps e ctx (va.toNat / 2 ^ 16 % 2 ^ 40 * 2 ^ 16)) ∨ (range = 1 ∧ e.ctx = ctx) ∨ range = 2 ∨ range = 3

/-- s with its host state changed. -/
def withHost (s : State) (h : HostState) : State := { s with host := h }

/-- Bytes 0 to 251 of a flit (R414). -/
def flitBytes (f : Flit) : List Byte :=
  leBytes 2 f.seq.toNat ++ leBytes 2 f.ack.toNat ++ [BitVec.ofNat 8 (f.kind.toNat * 16 + f.vc.toNat), 0, 0, 0] ++ leBytes 244 f.payload.toNat

/-- s with a link port in another state. -/
def withPort (s : State) (port : Nat) (l : LinkPort) : State := withHost s { s.host with links := s.host.links.set port l }

end Sys2Proof.Machine

/-- R1, R28, R384 to R387: walks, their ends, shootdowns; an instruction word that is none. Model's choices it rests on: assumption log 12, 75, 84. -/
def Obligations.TranslationEffects : Prop :=
  -- the walk
  (∀ (s : State) (ctx va : Nat) (res : Except Nat (Nat × Dword)), va < 2 ^ 56 → WalkEnds s va 4 (s.ctx ctx).root.toNat res →
      (∀ c, res = .error c → ∀ acc, s.engineXlat ctx va acc = .error c)
        ∧ (∀ bits e, res = .ok (bits, e) →
            let frame := e.toNat / 2 ^ bits % 2 ^ (52 - bits) * 2 ^ bits
            let lies : Prop := (isMain frame = true ∨ isHost frame = true) ∧ frameFits s.host.mpart frame (2 ^ bits) (e.getLsbD 5) = true
            ∀ acc, let has : Prop := match acc with
                | .read => e.getLsbD 2 = true
                | .write => e.getLsbD 3 = true
                | .exec => e.getLsbD 4 = true
                | .atomic => e.getLsbD 2 = true ∧ e.getLsbD 3 = true
              (lies ∧ has → s.engineXlat ctx va acc = .ok (frame + va % 2 ^ bits)) ∧ (¬(lies ∧ has) → s.engineXlat ctx va acc = .error 0x04)))
    ∧ (∀ (s : State) (ctx va : Nat) (acc : Access), 2 ^ 56 ≤ va → s.engineXlat ctx va acc = .error 0x04)
    -- WALK_START
    ∧ (∀ (s : State) (die : Nat),
        let mine := s.trans.walks.filter fun w => decide (w.die = die)
        let inFlight := (mine.filter fun w => w.started).length
        (∀ pre w post, mine = pre ++ w :: post → (∀ x ∈ pre, x.started = true) → w.started = false → inFlight < 1024 →
            exec (.walkStart die) s = .next { s with trans := { s.trans with walks := s.trans.walks.map fun (x : Walk) =>
              if x.id = w.id then { x with started := true } else x } })
          ∧ ((∀ w ∈ mine, w.started = true) ∨ 1024 ≤ inFlight → exec (.walkStart die) s = .next s))
    -- WALK_DONE
    ∧ (∀ (s : State) (w : Walk), w ∈ s.trans.walks → (∀ x ∈ s.trans.walks, x.id = w.id → x = w) →
        (w.started = false → exec (.walkDone w.id) s = .next s)
          ∧ (w.started = true → w.again = true → exec (.walkDone w.id) s = .next { s with trans := { s.trans with
              walks := s.trans.walks.map fun (x : Walk) => if x.id = w.id then { x with again := false } else x } })
          ∧ (∀ r, w.started = true → w.again = false → s.walkVa w.ctx (w.page * 2 ^ 16) = r →
              let joins (x : Walk) : Prop := x = w ∨ ∃ e, r = .ok e ∧ x.die = w.die ∧ Maps e x.ctx (x.page * 2 ^ 16)
              ∃ t, exec (.walkDone w.id) s = .next t ∧ t.mem = s.mem
                ∧ (∀ x, x ∈ t.trans.walks ↔ x ∈ s.trans.walks ∧ ¬joins x)
                ∧ (∀ e, r = .ok e → e ∈ t.trans.dieTlb.getD w.die [])
                ∧ (∀ x ∈ s.trans.walks, joins x → ∀ core sid tag va acc, .strand core sid tag va acc ∈ x.waiters →
                    { core := core, sid := sid, space := 2, tag := tag, value := 0 } ∈ t.completions
                      ∧ (∀ e, r = .ok e → e ∈ (t.core core).tlb))
                -- a refusal is told to the strand that waits alone
                ∧ (∀ core sid tag va acc code, r = .error code → w.waiters = [.strand core sid tag va acc] → s.awaits core sid tag = true →
                    (t.strand (keyOf core sid)).walkFault = some ⟨va, acc, code⟩ ∧ (t.strand (keyOf core sid)).pc = (s.strand (keyOf core sid)).pc)))
    -- TLB_SHOOTDOWN and SHOOTDOWN_COMPLETE
    ∧ (∀ (s : State) (range : BitVec 2) (va : BitVec 64) (ctx : Nat),
        let concerns (c : Nat) : Prop := range = 2 ∨ range = 3 ∨ c = ctx
        (s.trans.shootdown ≠ none → exec (.tlbShootdown range va ctx) s = .next s)
          ∧ (s.trans.shootdown = none → ∃ t, exec (.tlbShootdown range va ctx) s = .next t ∧ t.mem = s.mem ∧ t.trans.shootdown ≠ none
              ∧ t.strands = s.strands ∧ t.records = s.records
              ∧ (∀ c e, e ∈ (t.core c).tlb ↔ e ∈ (s.core c).tlb ∧ ¬Dropped range va ctx e)
              ∧ (∀ d e, e ∈ t.trans.dieTlb.getD d [] ↔ e ∈ s.trans.dieTlb.getD d [] ∧ ¬Dropped range va ctx e)
              ∧ (∀ (n : Nat) (x : Walk), s.trans.walks[n]? = some x → ∃ y, t.trans.walks[n]? = some y
                  ∧ (x.started = true → concerns x.ctx → y = { x with again := true })
                  ∧ (x.started = false ∨ ¬concerns x.ctx → y = x))
              ∧ (∀ c e, e ∈ (t.core c).cb → (∃ o ∈ e.owners, concerns o.1) → e.draining = true)))
    ∧ (∀ (s : State) (d : Shootdown), s.trans.shootdown = some d →
        let concerns (c : Nat) : Prop := 2 ≤ d.range ∨ c = d.ctx
        let left : Prop := (∃ w ∈ s.trans.walks, w.again = true ∧ concerns w.ctx)
          ∨ (∃ c ∈ s.cores, (∃ e ∈ c.2.cb, e.draining = true ∧ ∃ o ∈ e.owners, concerns o.1) ∨ ∃ r ∈ c.2.lineReqs, concerns r.ctx)
          ∨ (∃ r ∈ s.slice.reqs, concerns r.ctx) ∨ (∃ r ∈ s.slice.stvs, r.held = false ∧ concerns r.ctx)
          ∨ (∃ r ∈ s.slice.ldvs, r.waiting = none ∧ concerns r.ctx) ∨ ∃ r ∈ s.slice.rclms, concerns r.ctx
        (left → exec .shootdownComplete s = .next s)
          ∧ (¬left → exec .shootdownComplete s = .next { s with trans := { s.trans with shootdown := none } }))
    -- an instruction word that is none
    ∧ (∀ (s : State) (word : BitVec 32), s.me.handles → Traps (.illegalInstruction word) s 0x01 (nat64 word.toNat))

/-- R74, R77, R365, R404 to R419: what the host writes and reads, link flits, bring-up, identity and power. Model's choices it rests on: assumption log 15, 17, 18, 19, 20, 21, 24, 85, 86. -/
def Obligations.HostAndBringUpEffects : Prop :=
  -- MPART_WRITE, REGISTER_WRITE
  (∀ (s : State) (v : Dword),
      (s.host.mpartSet = true → exec (.mpartWrite v) s = .next s)
        ∧ (s.host.mpartSet = false → (∀ x ∈ s.ctxs, x.2.created = false) →
            exec (.mpartWrite v) s = .next (withHost s { s.host with mpart := v.toNat % 2 ^ 9, mpartSet := true }))
        ∧ (∀ c, exec (.registerWrite (.ctxRoot c) v) s = .next { s with ctxs := s.ctxs.set c { s.ctx c with created := true, root := v } })
        ∧ (∀ c, let x := { s.ctx c with cp := v.getLsbD 0, fk := v.getLsbD 1, scoutPriv := v.getLsbD 2 }
            exec (.registerWrite (.ctxPolicy c) v) s = .next { s with ctxs := s.ctxs.set c x })
        ∧ (∀ c, exec (.registerWrite (.coreFreeze c) v) s = .next (s.modCore c fun x => { x with freezeUs := v.toNat }))
        ∧ exec (.registerWrite .bar4Base v) s = .next (withHost s { s.host with bar4Base := v })
        ∧ exec (.registerWrite .fwAddr v) s = .next (withHost s { s.host with fwAddr := v })
        ∧ exec (.registerWrite .atomicOps v) s = .next (withHost s { s.host with atomicOps := v.getLsbD 0 })
        -- every register: nothing of the program's changes
        ∧ ∀ r, ∃ t, exec (.registerWrite r v) s = .next t ∧ t.mem = s.mem ∧ t.strands = s.strands ∧ t.records = s.records ∧ t.cmds = s.cmds
            ∧ t.firn = s.firn ∧ t.slice = s.slice ∧ t.trans = s.trans)
    -- HOST_MEMORY_WRITE and HOST_MEMORY_READ
    ∧ (∀ (s : State) (offset n : Nat) (bytes : List (BitVec 8)),
        let pa := offset + s.host.bar4Base.toNat
        (2 ^ 30 * 1536 < pa + bytes.length → exec (.hostMemoryWrite offset bytes) s = .next s)
          ∧ (pa + bytes.length ≤ 2 ^ 30 * 1536 → s.mem.wf = true → s.rimes = [] → ∃ t, exec (.hostMemoryWrite offset bytes) s = .next t
              ∧ (∀ j, j < bytes.length → t.mem.read (pa + j) = bytes.getD j 0)
              ∧ memoryUnchangedBut s t (fun a => pa ≤ a ∧ a < pa + bytes.length) ∧ t.strands = s.strands ∧ t.cores = s.cores)
          ∧ (2 ^ 30 * 1536 < pa + n → exec (.hostMemoryRead offset n) s
              = .next (withHost s { s.host with reads := (offset, none) :: s.host.reads, waiting := s.host.waiting.erase (offset, n) }))
          ∧ (pa + n ≤ 2 ^ 30 * 1536 → s.poisoned pa n = false → (∀ l, pa / 128 ≤ l → l ≤ (pa + n) / 128 → s.evictingLine l = false
                ∧ ∀ f ∈ s.slice.fills, f.line = l → f.handler = false) →
              let got := (offset, some (s.mem.bytes pa n))
              exec (.hostMemoryRead offset n) s
                = .next (withHost s { s.host with reads := got :: s.host.reads, waiting := s.host.waiting.erase (offset, n) })))
    -- FLIT_RECEIVE and LINK_PORT_ENABLE
    ∧ (∀ (s : State) (port : Nat) (f : Flit),
        let l := s.host.links.getD port {}
        let good : Prop := f.crc = crc32c (flitBytes f)
        let acked := if f.ack + 1 = l.oldest then l else { l with oldest := f.ack + 1, replays := 0 }
        exec (.linkPortEnable port) s = .next (withPort s port { l with enabled := true, up := true, replays := 0 })
          ∧ (l.up = false → exec (.flitReceive port f) s = .next s)
          ∧ (l.up = true → ¬good → exec (.flitReceive port f) s = .next (withPort s port { l with naks := l.expect :: l.naks }))
          ∧ (l.up = true → good → f.kind = 0 → exec (.flitReceive port f) s = .next (withPort s port acked))
          ∧ (l.up = true → good → f.kind = 1 ∨ f.kind = 2 →
              (f.seq = l.expect → exec (.flitReceive port f) s
                  = .next (withPort s port { acked with expect := l.expect + 1, inbox := acked.inbox ++ [(f.vc, f.kind, f.payload)] }))
                ∧ (f.seq ≠ l.expect → exec (.flitReceive port f) s = .next (withPort s port acked)))
          ∧ (l.up = true → good → f.kind = 3 →
              let seq : BitVec 16 := BitVec.ofNat 16 f.payload.toNat
              let k := if seq = l.oldest then l.replays + 1 else 1
              (k ≤ 8 → exec (.flitReceive port f) s = .next (withPort s port { l with oldest := seq, replays := k }))
                ∧ (8 < k → ∃ t, exec (.flitReceive port f) s = .next t ∧ (t.host.links.getD port {}).up = false ∧ t.mem = s.mem
                    ∧ (1, port) ∈ t.host.reports
                    ∧ ∀ c ∈ s.cmds, c.opcode = 0x09 → c.stage = .running →
                        (s.host.groups.getD (c.bits.toNat / 2 ^ 104 % 2 ^ 16 - 0x200) {}).ports.testBit port = true →
                        ∀ d ∈ t.cmds, d.uid = c.uid → ∃ r : Dword, d.stage = .done r ∧ r.toNat % 2 ^ 16 = 0x2306)))
    -- POWER_UP and THERMAL_TRIP: all state lost, the cause latched; POWER_THROTTLE
    ∧ (∀ (s : State) (cause : ThermalCause),
        let lost (t : State) (powered : Bool) : Prop := t.host.powered = powered ∧ t.host.boot = .awaiting ∧ t.host.bootCode = 0 ∧ t.strands = []
          ∧ t.records = [] ∧ t.cores = [] ∧ t.cmds = [] ∧ t.ctxs = [] ∧ t.host.links = [] ∧ t.host.mpartSet = false
          ∧ ∀ a, a < 2 ^ 51 → t.mem.read a = 0
        (∃ t, exec .powerUp s = .next t ∧ lost t true ∧ t.host.cause = s.host.cause)
          ∧ (cause = .junction110 ∨ cause = .coolantLoss → ∃ t, exec (.thermalTrip cause) s = .next t ∧ lost t false ∧ t.host.cause = some cause)
          ∧ (cause = .junction95 ∨ cause = .powerCap → exec (.powerThrottle cause) s = .next (withHost s { s.host with throttled := true })))
    -- FIRMWARE_LOAD and FIRMWARE_VERIFY_DONE
    ∧ (∀ (s : State) (len : Dword),
        (s.host.boot = .awaiting ∨ s.host.boot = .refused → exec (.firmwareLoad len) s = .next (withHost s { s.host with fwLen := len, boot := .verifying }))
          ∧ (s.host.boot = .verifying ∨ s.host.boot = .running → exec (.firmwareLoad len) s = .next s)
          ∧ (s.host.boot ≠ .verifying → exec .firmwareVerifyDone s = .next s)
          ∧ (s.host.boot = .verifying →
              let pa := s.host.fwAddr.toNat
              let n := s.host.fwLen.toNat
              let refuses (code : Nat) : Prop := exec .firmwareVerifyDone s = .next (withHost s { s.host with boot := .refused, bootCode := code })
              (pa % 4096 = 0 → 896 ≤ n → 2 ^ 30 * 1536 < pa + n ∨ s.poisoned pa n = true → refuses 4)
                ∧ (pa % 4096 = 0 → 896 ≤ n → pa + n ≤ 2 ^ 30 * 1536 → s.poisoned pa n = false →
                    let body := s.mem.bytes pa (n - 384)
                    let sig := s.mem.bytes (pa + (n - 384)) 384
                    let digest := sha256 body
                    let message := modPow (leNat sig) (leNat ((body.drop 384).take 128)) (leNat (body.take 384)) 1024
                    (sha256 (body.take 512) ≠ Config.romKeyDigest → refuses 1)
                      ∧ (sha256 (body.take 512) = Config.romKeyDigest → message ≠ pkcsEncode digest.toNat → refuses 2)
                      ∧ (sha256 (body.take 512) = Config.romKeyDigest → message = pkcsEncode digest.toNat →
                          exec .firmwareVerifyDone s = .next (withHost s { s.host with boot := .running, bootCode := 0, fwDigest := digest })))))
    -- ATTESTATION_REQUEST and ATTESTATION_REPORT
    ∧ (∀ (s : State) (nonce : BitVec 256),
        exec (.attestationRequest nonce) s = .next (withHost s { s.host with nonce := some nonce, attDone := false })
          ∧ (s.host.nonce = none → exec .attestationReport s = .next s)
          ∧ (s.host.nonce = some nonce → ∃ r, exec .attestationReport s
                = .next (withHost s { s.host with report := some r, attDone := true, nonce := none })
              ∧ r.nonce = nonce ∧ r.bodyDigest = s.host.fwDigest ∧ r.straps = Config.straps
              ∧ r.deviceId = sha256 (leBytes 384 Config.deviceModulus ++ leBytes 128 Config.deviceExponent)))

namespace Sys2Proof.Machine

/-- The cores are held in reset (R416): no firmware runs, no strand and no command exists; memory is in its canonical form. -/
def HeldInReset (s : State) : Prop := s.host.boot ≠ .running ∧ s.strands = [] ∧ s.cmds = [] ∧ s.mem.wf = true

/-- What a step adds around an instruction: the turn leaves the agenda, time passes (R20, R21). -/
def turnBegun (s : State) (ts : List Turn) : State := { s with agenda := ts }.advance

/-- A fetch of strand st leaves all but its core's instruction cache and the model's numbering (R185). -/
def FetchLeaves (s0 s1 : State) (st : Strand) : Prop :=
  s1 = { s0 with cores := s1.cores, fresh := s1.fresh } ∧ s1.me = st ∧ ∀ c, s1.core c = { s0.core c with icache := (s1.core c).icache }

/-- The step at s executes a word in s1: the instruction that it decodes to, or fault 0x01 where it decodes to none or REP does
not accept it (R27, R344). -/
def RunsWord (s s1 : State) (w : Word) : Prop :=
  (∀ i, decodeStrand w = .ok i → s1.me.loop.rcnt = 0 ∨ repeatable w i = true → step s = exec i s1)
    ∧ ((∀ i, decodeStrand w = .ok i → s1.me.loop.rcnt ≠ 0 ∧ repeatable w i = false) → s1.me.handles →
        ∃ t, step s = .next t ∧ Enters (s1.putMe { s1.me with loop := { s1.me.loop with rcnt := 0 } }) t 0x01 (w.zeroExtend 64))

end Sys2Proof.Machine

/-- R24 to R45: every well-formed program word decodes to itself, whatever bytes follow it. -/
def Obligations.DecodeOfEncode : Prop :=
  ∀ (i : Instr) (l : Layer) (bs rest : List Byte), WellFormed i = true → encode i = .ok (l, bs) → decodeBytes l (bs ++ rest) = .ok (i, rest)

/-- R24, R27, R38, R41, R42, R45: a strand word, and a command, that decodes is the word its instruction encodes. -/
def Obligations.EncodeOfDecode : Prop :=
  (∀ (w : BitVec 32) (i : Instr), decodeStrand w = .ok i → encodeStrand i = some w)
    ∧ (∀ (w : BitVec 128) (i : Instr), decodeCommand w = .ok i → encodeCommand i = some w)
    ∧ (∀ (w k : BitVec 64) (i : Instr), decodeElement w k = .ok i → encodeElement i = some (w, if w.getLsbD 51 then some k else none))

/-- R416: until an image has been verified, the cores stay in reset; a step that lets them run has verified the image staged. Model's choices it rests on: assumption log 6. -/
def Obligations.HeldUntilVerified : Prop :=
  ∀ s t : State, HeldInReset s → step s = .next t →
    (t.host.boot ≠ .running → HeldInReset t)
      ∧ (t.host.boot = .running → s.host.boot = .verifying ∧ s.verifyImage.1 = 0 ∧ t.strands = [] ∧ t.cmds = []
          ∧ t.host.fwDigest = s.verifyImage.2)

/-- R74, R190, R365, R371, R380, R387, R416: what reset leaves. Model's choices it rests on: assumption log 1, 2. -/
def Obligations.ResetState : Prop :=
  HeldInReset State.reset ∧ State.reset.host.boot = .awaiting ∧ State.reset.host.bootCode = 0 ∧ State.reset.host.mpart = 0
    ∧ State.reset.trans.shootdown = none ∧ (State.reset.core 0).freezeUs = 5 ∧ (State.reset.core 95).bypass = 16
    ∧ State.reset.host.throttled = false ∧ State.reset.tns = 0 ∧ (∀ a, State.reset.mem.read a = 0)

/-- A step runs the instruction that its agent's word decodes to: a strand's at its PC, a cell's, a stream command. Model's choices it rests on: assumption log 4, 7. -/
def Obligations.StepRunsDecoded : Prop :=
  -- a strand
  (∀ (s : State) (ts : List Turn) (k pa : Nat) (st : Strand), s.agenda = .strand k :: ts → s.host.powered = true → s.host.boot = .running →
      let s0 := { turnBegun s ts with actor := .strand k }
      s0.strands.get? k = some st → s0.mayRun st = true → st.noticed = none → s0.xlat st st.pc .exec = .hit pa →
      let now : Word := BitVec.ofNat 32 (s0.mem.readN pa 4)
      -- its line stands in its slice and not in the instruction cache: the word in memory
      (isMain pa = true → icHolds (s0.core st.core).icache pa = false → s0.resident (pa / 128) = true → s0.linePoisoned (pa / 128) = false →
          ∃ s1, FetchLeaves s0 s1 st ∧ RunsWord s s1 now)
        -- its line stands in the instruction cache: the word in memory, or as the cache took it
        ∧ (isMain pa = true → icHolds (s0.core st.core).icache pa = true →
          ∃ s1 w, FetchLeaves s0 s1 st ∧ RunsWord s s1 w
            ∧ (w = now ∨ ∃ l ∈ (s0.core st.core).icache, l.line = pa / 128 ∧ w = BitVec.ofNat 32 (lineGet l.data (pa % 128) 4)))
        -- in the host window
        ∧ (isMain pa = false → RunsWord s s0 now))
    -- a unit
    ∧ (∀ (s : State) (ts : List Turn) (core region cell : Nat) (router : Bool) (i : Instr),
        s.agenda = .unit core region cell router :: ts → s.host.powered = true → s.host.boot = .running →
        let s0 := { turnBegun s ts with actor := .unit core region cell router }
        s0.unitInstr ⟨core, region, cell, router⟩ = some i → step s = exec i s0)
    -- a command that runs or may start
    ∧ (∀ (s : State) (ts : List Turn) (uid : Nat) (c : Command) (i : Instr),
        s.agenda = .command uid :: ts → s.host.powered = true → s.host.boot = .running →
        let s0 := turnBegun s ts
        s0.cmds.find? (fun x => decide (x.uid = uid)) = some c →
        c.stage = .running ∨ (c.stage = .waiting ∧ s0.mayStart c = true ∧ c.src = none ∧ (s0.barc c.stream).skipping = false) →
        decodeCommand c.bits = .ok i → step s = exec i { s0 with actor := .command uid })
    -- the host's and the part's own events
    ∧ (∀ (s : State) (ts : List Turn) (i : Instr), s.agenda = .event i :: ts → s.host.powered = true → s.host.boot = .running →
        Instr.isWord i = false → step s = exec i { turnBegun s ts with actor := .part })

/-- R24 to R45: words written out from the encodings decode to what they stand for. -/
def Obligations.DecodedWords : Prop :=
  -- [31:26] major, [25:21] d, [20:16] a, [15:11] b, [10:0] function
  decodeStrand 0b000001_00101_00000_0000000000001010#32 = .ok (.addi 5 0 10)
    ∧ decodeStrand 0b111110_00000_00000_01110_00000000000#32 = .ok .brk
    ∧ decodeStrand 0b111110_00000_00000_01100_00000000000#32 = .ok .eret
    ∧ decodeStrand 0b100101_00111_00110_00101_00000000001#32 = .ok (.fork 7 6 5)
    ∧ decodeTableWord 32 0x0000_0000 = none
    -- [63:56] op, [55:52] lane format, [51] K, [50] SAT, [49:48] rounding, [47:40] [39:32] [31:24] inputs, [23:16] [15:8] outputs, [7:0] aux
    ∧ decodeElement 0b00000001_0010_0_0_00_00000000_00000001_11111111_00000010_11111111_00000000#64 0
        = .ok (.vadd ⟨2, false, false, 0, 0, 1, 0xFF, 2, 0xFF, 0, 0⟩)
    ∧ decodeElement 0b00000001_0010_1_0_00_00000010_11111111_11111111_00000011_11111111_00000000#64 100
        = .ok (.vadd ⟨2, true, false, 0, 2, 0xFF, 0xFF, 3, 0xFF, 0, 100⟩)
    -- [127:120] opcode, [119:104] destination 3, [103] S, [102] CKS, [101:96] flags, [95:64] operand, [63:0] address
    ∧ decodeCommand (0b00000001_0000000000000011_0_0_000000#32 ++ 0x0000_0040#32 ++ 0x0000_0000_0000_4000#64)
        = .ok (.lds ⟨3, false, false, 0, 0x40, 0x4000⟩)
end

