-- ==== Sys2Proof/Laws/Line.lean ====
section
/-! SUPPORT. Bit fields and the bytes of lines: reads after writes. -/

namespace Sys2Proof.Machine

theorem field_testBit (v hi lo j : Nat) : (field v hi lo).testBit j = (decide (j < hi + 1 - lo) && v.testBit (lo + j)) := by
  unfold field
  rw [Nat.testBit_mod_two_pow, ← Nat.shiftRight_eq_div_pow, Nat.testBit_shiftRight]

/-- A number cut at two places. -/
theorem setField_split (v hi lo x : Nat) (h : lo ≤ hi + 1) :
    setField v hi lo x = (v / 2 ^ (hi + 1)) * 2 ^ (hi + 1) + (x % 2 ^ (hi + 1 - lo)) * 2 ^ lo + v % 2 ^ lo := by
  unfold setField field
  have e : 2 ^ (hi + 1) = 2 ^ lo * 2 ^ (hi + 1 - lo) := by rw [← pow_add]; congr 1; omega
  have h1 : v / 2 ^ (hi + 1) = v / 2 ^ lo / 2 ^ (hi + 1 - lo) := by rw [e, Nat.div_div_eq_div_mul]
  rw [h1, e]
  have h2 := Nat.div_add_mod v (2 ^ lo)
  have h3 := Nat.div_add_mod (v / 2 ^ lo) (2 ^ (hi + 1 - lo))
  generalize v / 2 ^ lo = q at *
  generalize hr : v % 2 ^ lo = r at *
  generalize q % 2 ^ (hi + 1 - lo) = b at *
  generalize q / 2 ^ (hi + 1 - lo) = c at *
  generalize 2 ^ (hi + 1 - lo) = W at *
  generalize 2 ^ lo = L at *
  subst h3
  have : v = c * (L * W) + b * L + r := by rw [← h2]; ring
  have h4 : v - b * L = c * (L * W) + r := by omega
  rw [h4]; ring

/-- A bit of a number whose field has been replaced. -/
theorem setField_testBit (v hi lo x j : Nat) (h : lo ≤ hi + 1) :
    (setField v hi lo x).testBit j = if lo ≤ j ∧ j < hi + 1 then x.testBit (j - lo) else v.testBit j := by
  rw [setField_split v hi lo x h]
  have hb : (x % 2 ^ (hi + 1 - lo)) * 2 ^ lo + v % 2 ^ lo < 2 ^ (hi + 1) := by
    have e : 2 ^ (hi + 1) = 2 ^ (hi + 1 - lo) * 2 ^ lo := by rw [← pow_add]; congr 1; omega
    have h1 := Nat.mod_lt x (Nat.two_pow_pos (hi + 1 - lo))
    have h2 := Nat.mod_lt v (Nat.two_pow_pos lo)
    rw [e]
    calc (x % 2 ^ (hi + 1 - lo)) * 2 ^ lo + v % 2 ^ lo < (x % 2 ^ (hi + 1 - lo)) * 2 ^ lo + 2 ^ lo := by omega
      _ = (x % 2 ^ (hi + 1 - lo) + 1) * 2 ^ lo := by ring
      _ ≤ _ := Nat.mul_le_mul_right _ (by omega)
  rw [add_assoc, mul_comm (v / 2 ^ (hi + 1)), Nat.testBit_two_pow_mul_add _ hb, mul_comm (x % _),
    Nat.testBit_two_pow_mul_add _ (Nat.mod_lt v (Nat.two_pow_pos lo)), Nat.testBit_mod_two_pow, Nat.testBit_mod_two_pow]
  by_cases h1 : j < hi + 1
  · by_cases h2 : j < lo
    · have h3 : ¬(lo ≤ j ∧ j < hi + 1) := by omega
      rw [if_pos h1, if_pos h2, if_neg h3]; simp [h2]
    · have h3 : lo ≤ j ∧ j < hi + 1 := by omega
      have h4 : j - lo < hi + 1 - lo := by omega
      rw [if_pos h1, if_neg h2, if_pos h3]; simp [h4]
  · have h3 : ¬(lo ≤ j ∧ j < hi + 1) := by omega
    rw [if_neg h1, if_neg h3, ← Nat.shiftRight_eq_div_pow, Nat.testBit_shiftRight]
    congr 1; omega

theorem lineGet_testBit (l : Line) (off n j : Nat) (h : 0 < n) :
    (lineGet l off n).testBit j = (decide (j < 8 * n) && l.getLsbD (8 * off + j)) := by
  unfold lineGet
  rw [field_testBit]
  have : 8 * (off + n) - 1 + 1 - 8 * off = 8 * n := by omega
  rw [this]; rfl

theorem linePut_getLsbD (l : Line) (off n v j : Nat) (h : 0 < n) :
    (linePut l off n v).getLsbD j
      = (decide (j < 1024) && if 8 * off ≤ j ∧ j < 8 * (off + n) then v.testBit (j - 8 * off) else l.getLsbD j) := by
  unfold linePut
  rw [BitVec.getLsbD_ofNat, setField_testBit _ _ _ _ _ (by omega)]
  have : 8 * (off + n) - 1 + 1 = 8 * (off + n) := by omega
  rw [this]; rfl

/-- The bytes just written. -/
theorem lineGet_linePut_self (l : Line) (off n v : Nat) (h : 0 < n) (hb : off + n ≤ 128) :
    lineGet (linePut l off n v) off n = v % 2 ^ (8 * n) := by
  apply Nat.eq_of_testBit_eq
  intro j
  rw [lineGet_testBit _ _ _ _ h, linePut_getLsbD _ _ _ _ _ h, Nat.testBit_mod_two_pow]
  by_cases hj : j < 8 * n
  · have h1 : 8 * off + j < 1024 := by omega
    have h2 : 8 * off ≤ 8 * off + j ∧ 8 * off + j < 8 * (off + n) := by omega
    simp [hj, h1, h2]
  · simp [hj]

/-- A byte outside those written. -/
theorem lineGet_linePut_ne (l : Line) (off n v k m : Nat) (h : 0 < n) (hm : 0 < m) (hk : k + m ≤ 128)
    (ho : k + m ≤ off ∨ off + n ≤ k) : lineGet (linePut l off n v) k m = lineGet l k m := by
  apply Nat.eq_of_testBit_eq
  intro j
  rw [lineGet_testBit _ _ _ _ hm, lineGet_testBit _ _ _ _ hm, linePut_getLsbD _ _ _ _ _ h]
  by_cases hj : j < 8 * m
  · have h1 : 8 * k + j < 1024 := by omega
    have h2 : ¬(8 * off ≤ 8 * k + j ∧ 8 * k + j < 8 * (off + n)) := by omega
    rw [if_neg h2]; simp [h1]
  · simp [hj]

/-- The bits of a byte mask (R181). -/
theorem byteMask_getLsbD (off n j : Nat) (h : off + n ≤ 128) :
    (byteMask off n).getLsbD j = decide (off ≤ j ∧ j < off + n) := by
  unfold byteMask
  rw [BitVec.getLsbD_ofNat, mul_comm, Nat.testBit_two_pow_mul, Nat.testBit_two_pow_sub_one]
  by_cases h1 : off ≤ j ∧ j < off + n
  · have : j < 128 := by omega
    have h3 : j - off < n := by omega
    simp [h1, this, h3]
  · by_cases h2 : off ≤ j
    · have : ¬j - off < n := by omega
      simp [this, h1]
    · simp [h2]

end Sys2Proof.Machine
end

