-- ==== Sys2Proof/Laws/Memory.lean ====
section
/-! SUPPORT. Memory: reads after writes, and the canonical form that every memory operation keeps. -/

namespace Sys2Proof.Machine

/-! ### Reads after writes -/

theorem Memory.read_of_wfAbove : ∀ (m : Memory) (b a : Nat), m.wfAbove b = true → a ≤ b → m.read a = 0
  | [], _, _, _, _ => rfl
  | (k, v) :: t, b, a, h, hab => by
    simp only [Memory.wfAbove, Bool.and_eq_true, decide_eq_true_eq] at h
    have h1 : ¬k = a := by omega
    simp only [Memory.read, h1, if_false]
    exact Memory.read_of_wfAbove t k a h.2 (by omega)

theorem Memory.wf_tail {k : Nat} {v : Byte} {t : Memory} (h : Memory.wf ((k, v) :: t) = true) :
    ¬v = 0#8 ∧ t.wfAbove k = true := by simpa [Memory.wf] using h

theorem Memory.wf_of_wfAbove : ∀ (m : Memory) (b : Nat), m.wfAbove b = true → m.wf = true
  | [], _, _ => rfl
  | (k, v) :: t, b, h => by
    simp only [Memory.wfAbove, Bool.and_eq_true, decide_eq_true_eq] at h
    simp only [Memory.wf, Bool.and_eq_true, decide_eq_true_eq]
    exact ⟨h.1.2, h.2⟩

/-- A byte read after a byte written. -/
theorem Memory.read_write : ∀ (m : Memory) (a b : Nat) (v : Byte), m.wf = true →
    (m.write a v).read b = if a = b then v else m.read b
  | [], a, b, v, _ => by by_cases hv : v = 0#8 <;> by_cases hab : a = b <;> simp [Memory.write, Memory.read, hv, hab]
  | (k, w) :: t, a, b, v, h => by
    have ⟨_, ht⟩ := Memory.wf_tail h
    by_cases h1 : a < k
    · by_cases hv : v = 0#8
      · by_cases hab : a = b
        · subst hab
          have hk : ¬k = a := by omega
          simp only [Memory.write, h1, BitVec.ofNat_eq_ofNat, hv, if_true, Memory.read, hk, if_false]
          exact Memory.read_of_wfAbove t k a ht (by omega)
        · simp [Memory.write, h1, hv, hab]
      · simp [Memory.write, h1, hv, Memory.read]
    · by_cases h2 : a = k
      · subst h2
        by_cases hv : v = 0#8
        · by_cases hab : a = b
          · subst hab
            simp only [Memory.write, Nat.lt_irrefl, BitVec.ofNat_eq_ofNat, hv, if_false, if_true]
            exact Memory.read_of_wfAbove t a a ht (Nat.le_refl a)
          · simp [Memory.write, hv, hab, Memory.read]
        · by_cases hab : a = b <;> simp [Memory.write, hv, hab, Memory.read]
      · simp only [Memory.write, h1, h2, if_false, Memory.read]
        rw [Memory.read_write t a b v (Memory.wf_of_wfAbove t k ht)]
        by_cases hk : k = b
        · subst hk; simp [h2]
        · simp [hk]

/-! ### The canonical form -/

theorem Memory.wfAbove_write : ∀ (m : Memory) (b a : Nat) (v : Byte), m.wfAbove b = true → b < a →
    (m.write a v).wfAbove b = true
  | [], b, a, v, _, h => by by_cases hv : v = 0#8 <;> simp [Memory.write, Memory.wfAbove, hv, h]
  | (k, w) :: t, b, a, v, hm, h => by
    simp only [Memory.wfAbove, Bool.and_eq_true, decide_eq_true_eq] at hm
    obtain ⟨⟨hk, hw⟩, ht⟩ := hm
    replace hw : ¬w = 0#8 := hw
    by_cases h1 : a < k
    · by_cases hv : v = 0#8 <;> simp [Memory.write, Memory.wfAbove, h1, hv, h, hk, hw, ht]
    · by_cases h2 : a = k
      · subst h2
        by_cases hv : v = 0#8
        · simp only [Memory.write, Nat.lt_irrefl, BitVec.ofNat_eq_ofNat, hv, if_false, if_true]
          cases t with
          | nil => rfl
          | cons x u =>
            simp only [Memory.wfAbove, Bool.and_eq_true, decide_eq_true_eq] at ht ⊢
            exact ⟨⟨by omega, ht.1.2⟩, ht.2⟩
        · simp [Memory.write, Memory.wfAbove, hv, hk, ht]
      · simp only [Memory.write, h1, h2, if_false, Memory.wfAbove, Bool.and_eq_true, decide_eq_true_eq]
        exact ⟨⟨hk, hw⟩, Memory.wfAbove_write t k a v ht (by omega)⟩

theorem Memory.wf_write : ∀ (m : Memory) (a : Nat) (v : Byte), m.wf = true → (m.write a v).wf = true
  | [], a, v, _ => by by_cases hv : v = 0#8 <;> simp [Memory.write, Memory.wf, Memory.wfAbove, hv]
  | (k, w) :: t, a, v, h => by
    have ⟨hw, ht⟩ := Memory.wf_tail h
    by_cases h1 : a < k
    · by_cases hv : v = 0#8 <;> simp [Memory.write, Memory.wf, Memory.wfAbove, h1, hv, hw, ht]
    · by_cases h2 : a = k
      · subst h2
        by_cases hv : v = 0#8
        · simpa [Memory.write, hv] using Memory.wf_of_wfAbove t a ht
        · simp [Memory.write, Memory.wf, hv, ht]
      · simp only [Memory.write, h1, h2, if_false, Memory.wf, Bool.and_eq_true, decide_eq_true_eq]
        exact ⟨hw, Memory.wfAbove_write t k a v ht (by omega)⟩

theorem Memory.wf_writeBytes : ∀ (bs : List Byte) (m : Memory) (a : Nat), m.wf = true → (m.writeBytes a bs).wf = true
  | [], _, _, h => h
  | b :: bs, m, a, h => Memory.wf_writeBytes bs (m.write a b) (a + 1) (Memory.wf_write m a b h)

theorem Memory.wf_writeN (m : Memory) (a n v : Nat) (h : m.wf = true) : (m.writeN a n v).wf = true :=
  Memory.wf_writeBytes _ m a h

theorem Memory.wf_writeMasked (m : Memory) (l : Nat) (data : Line) (mask : LineMask) (h : m.wf = true) :
    ∀ n, (m.writeMasked l data mask n).wf = true
  | 0 => h
  | n + 1 => by
    simp only [Memory.writeMasked]
    split
    · exact Memory.wf_write _ _ _ (Memory.wf_writeMasked m l data mask h n)
    · exact Memory.wf_writeMasked m l data mask h n

/-- Bytes outside a written range read as before; inside, as written. -/
theorem Memory.read_writeBytes : ∀ (bs : List Byte) (m : Memory) (a b : Nat), m.wf = true →
    (m.writeBytes a bs).read b = if a ≤ b ∧ b < a + bs.length then bs.getD (b - a) 0 else m.read b
  | [], m, a, b, _ => by
    have : ¬(a ≤ b ∧ b < a + 0) := by omega
    simp only [Memory.writeBytes, List.length_nil, this, if_false]
  | x :: bs, m, a, b, h => by
    simp only [Memory.writeBytes]
    rw [Memory.read_writeBytes bs (m.write a x) (a + 1) b (Memory.wf_write m a x h), Memory.read_write m a b x h]
    by_cases hab : a = b
    · subst hab
      have h1 : ¬(a + 1 ≤ a ∧ a < a + 1 + bs.length) := by omega
      have h2 : a ≤ a ∧ a < a + (x :: bs).length := by simp
      simp [h1]
    · by_cases h3 : a + 1 ≤ b ∧ b < a + 1 + bs.length
      · have h4 : a ≤ b ∧ b < a + (x :: bs).length := by simp; omega
        have h5 : b - a = (b - (a + 1)) + 1 := by omega
        rw [if_pos h3, if_pos h4, h5]
        simp
      · have h4 : ¬(a ≤ b ∧ b < a + (x :: bs).length) := by simp; omega
        rw [if_neg h3, if_neg hab, if_neg h4]

theorem Memory.read_writeMasked (m : Memory) (l : Nat) (data : Line) (mask : LineMask) (h : m.wf = true) (b : Nat) :
    ∀ n, (m.writeMasked l data mask n).read b
      = if 128 * l ≤ b ∧ b < 128 * l + n ∧ mask.getLsbD (b - 128 * l) then BitVec.ofNat 8 (lineGet data (b - 128 * l) 1)
        else m.read b
  | 0 => by
    have : ¬(128 * l ≤ b ∧ b < 128 * l + 0 ∧ mask.getLsbD (b - 128 * l) = true) := by omega
    simp only [Memory.writeMasked, this, if_false]
  | n + 1 => by
    have ih := Memory.read_writeMasked m l data mask h b n
    simp only [Memory.writeMasked]
    by_cases hm : mask.getLsbD n
    · rw [if_pos hm, Memory.read_write _ _ _ _ (Memory.wf_writeMasked m l data mask h n), ih]
      by_cases hb : 128 * l + n = b
      · have e : b - 128 * l = n := by omega
        rw [if_pos hb, if_pos ⟨by omega, by omega, by rw [e]; exact hm⟩, e]
      · rw [if_neg hb]
        have : (128 * l ≤ b ∧ b < 128 * l + n ∧ mask.getLsbD (b - 128 * l) = true)
            ↔ (128 * l ≤ b ∧ b < 128 * l + (n + 1) ∧ mask.getLsbD (b - 128 * l) = true) := by
          constructor
          · rintro ⟨h1, h2, h3⟩; exact ⟨h1, by omega, h3⟩
          · rintro ⟨h1, h2, h3⟩; exact ⟨h1, by omega, h3⟩
        simp only [this]
    · rw [if_neg hm, ih]
      have : (128 * l ≤ b ∧ b < 128 * l + n ∧ mask.getLsbD (b - 128 * l) = true)
          ↔ (128 * l ≤ b ∧ b < 128 * l + (n + 1) ∧ mask.getLsbD (b - 128 * l) = true) := by
        constructor
        · rintro ⟨h1, h2, h3⟩; exact ⟨h1, by omega, h3⟩
        · rintro ⟨h1, h2, h3⟩
          refine ⟨h1, ?_, h3⟩
          rcases Nat.lt_or_ge b (128 * l + n) with h4 | h4
          · exact h4
          · have e : b - 128 * l = n := by omega
            rw [e] at h3; exact absurd h3 hm
      simp only [this]

/-! ### The operations of the state -/

/-- What a store by the memory side does to memory, and that it keeps the canonical form. -/
theorem State.store_mem (s : State) (pa : Nat) (bs : List Byte) : (s.store pa bs).mem = s.mem.writeBytes pa bs := rfl

theorem State.store_wf (s : State) (pa : Nat) (bs : List Byte) (h : s.mem.wf = true) : (s.store pa bs).mem.wf = true :=
  Memory.wf_writeBytes bs s.mem pa h

theorem State.storeLine_wf (s : State) (l : Nat) (data : Line) (mask : LineMask) (h : s.mem.wf = true) :
    (s.storeLine l data mask).mem.wf = true := Memory.wf_writeMasked s.mem l data mask h 128

/-- After a store, the bytes of its range are those stored, and every other byte reads as before. -/
theorem State.store_read (s : State) (pa : Nat) (bs : List Byte) (h : s.mem.wf = true) (a : Nat) :
    (s.store pa bs).mem.read a = if pa ≤ a ∧ a < pa + bs.length then bs.getD (a - pa) 0 else s.mem.read a :=
  Memory.read_writeBytes bs s.mem pa a h

/-- After a masked line write, the bytes under the mask are the data's, and every other byte reads as before. -/
theorem State.storeLine_read (s : State) (l : Nat) (data : Line) (mask : LineMask) (h : s.mem.wf = true) (a : Nat) :
    (s.storeLine l data mask).mem.read a
      = if 128 * l ≤ a ∧ a < 128 * l + 128 ∧ mask.getLsbD (a - 128 * l) then BitVec.ofNat 8 (lineGet data (a - 128 * l) 1)
        else s.mem.read a := Memory.read_writeMasked s.mem l data mask h a 128

/-- Reset memory has the canonical form. -/
theorem State.reset_wf : State.reset.mem.wf = true := rfl

end Sys2Proof.Machine
end

