-- ==== Sys2Proof/Laws/Bytes.lean ====
section
/-! SUPPORT. Values of several bytes: little-endian bytes, reads of n bytes after stores, bit fields as quotients. -/

namespace Sys2Proof.Machine

/-- Bytes laid out (R2). -/
theorem leBytes_length (n v : Nat) : (leBytes n v).length = n := by
  induction n generalizing v with
  | zero => rfl
  | succ n ih => unfold leBytes; simp [ih]

/-- Byte j of a value (R2). -/
theorem leBytes_getD (n v j : Nat) (h : j < n) : (leBytes n v).getD j 0 = BitVec.ofNat 8 (v / 2 ^ (8 * j)) := by
  induction n generalizing v j with
  | zero => omega
  | succ n ih =>
    unfold leBytes
    cases j with
    | zero => simp
    | succ j =>
      simp only [List.getD_cons_succ]
      rw [ih _ _ (by omega), Nat.div_div_eq_div_mul]
      congr 2
      rw [show 8 * (j + 1) = 8 + 8 * j by ring, pow_add]; norm_num

/-- Bytes read back. -/
theorem leNat_leBytes (n v : Nat) : leNat (leBytes n v) = v % 256 ^ n := by
  induction n generalizing v with
  | zero => simp [leBytes, leNat, Nat.mod_one]
  | succ n ih =>
    rw [show (256:Nat)^(n+1) = 256 * 256^n by ring, Nat.mod_mul, ← ih]; simp [leBytes, leNat]

/-- Memories that agree on bytes agree on their value. -/
theorem Memory.readN_congr (m m' : Memory) : ∀ (n a : Nat), (∀ j, j < n → m.read (a + j) = m'.read (a + j)) → m.readN a n = m'.readN a n
  | 0, a, _ => rfl
  | n + 1, a, h => by
    unfold Memory.readN
    have h0 := h 0 (by omega)
    rw [Nat.add_zero] at h0
    rw [h0, Memory.readN_congr m m' n (a + 1) (fun j hj => by have := h (j + 1) (by omega); rwa [show a + (j + 1) = a + 1 + j by omega] at this)]

/-- n bytes hold less than 256^n. -/
theorem Memory.readN_lt (m : Memory) : ∀ (n a : Nat), m.readN a n < 256 ^ n
  | 0, a => by simp [Memory.readN]
  | n + 1, a => by
    unfold Memory.readN
    have := Memory.readN_lt m n (a + 1)
    have := (m.read a).isLt
    rw [Nat.pow_succ]; omega

/-- A read in two parts. -/
theorem Memory.readN_add (m : Memory) : ∀ (k n a : Nat), m.readN a (k + n) = m.readN a k + 256 ^ k * m.readN (a + k) n
  | 0, n, a => by simp [Memory.readN]
  | k + 1, n, a => by
    rw [show k + 1 + n = (k + n) + 1 by omega]
    have e : ∀ a n, m.readN a (n + 1) = (m.read a).toNat + 256 * m.readN (a + 1) n := fun _ _ => rfl
    rw [e, e, Memory.readN_add m k n (a + 1), Nat.pow_succ, show a + 1 + k = a + (k + 1) by omega]
    ring

theorem two_pow_eight_mul (n : Nat) : 2 ^ (8 * n) = 256 ^ n := by rw [show (256 : Nat) = 2 ^ 8 by norm_num, ← Nat.pow_mul]

/-- Bytes of a line are those of memory. -/
theorem Memory.lineGet_line (m : Memory) (l off n : Nat) (h0 : 0 < n) (h : off + n ≤ 128) : lineGet (m.line l) off n = m.readN (128 * l + off) n := by
  unfold lineGet Memory.line field
  rw [show 8 * (off + n) - 1 + 1 - 8 * off = 8 * n by omega, BitVec.toNat_ofNat]
  have hlt : m.readN (128 * l) 128 < 2 ^ 1024 := by have := Memory.readN_lt m 128 (128 * l); rw [← two_pow_eight_mul] at this; simpa using this
  rw [Nat.mod_eq_of_lt hlt]
  have e : m.readN (128 * l) 128 = m.readN (128 * l) off + 256 ^ off * (m.readN (128 * l + off) n + 256 ^ n * m.readN (128 * l + off + n) (128 - off - n)) := by
    rw [← Memory.readN_add, ← Memory.readN_add]; congr 1; omega
  rw [e, two_pow_eight_mul, two_pow_eight_mul]
  have h1 := Memory.readN_lt m off (128 * l)
  have h2 := Memory.readN_lt m n (128 * l + off)
  have hp : 0 < 256 ^ off := by positivity
  rw [Nat.add_mul_div_left _ _ hp, Nat.div_eq_of_lt h1, Nat.zero_add, Nat.add_mul_mod_self_left, Nat.mod_eq_of_lt h2]

/-- A store read back. -/
theorem State.store_readN_self (s : State) (pa n v : Nat) (h : s.mem.wf = true) : (s.store pa (leBytes n v)).mem.readN pa n = v % 256 ^ n := by
  have key : ∀ (n v pa : Nat) (m : Memory), (∀ j, j < n → m.read (pa + j) = BitVec.ofNat 8 (v / 2 ^ (8 * j))) → m.readN pa n = v % 256 ^ n := by
    intro n
    induction n with
    | zero => intro v pa m _; simp [Memory.readN, Nat.mod_one]
    | succ n ih =>
      intro v pa m hm
      have e : m.readN pa (n + 1) = (m.read pa).toNat + 256 * m.readN (pa + 1) n := rfl
      rw [e, ih (v / 256) (pa + 1) m]
      · have := hm 0 (by omega)
        rw [Nat.add_zero] at this
        rw [this, BitVec.toNat_ofNat]
        simp only [Nat.mul_zero, Nat.pow_zero, Nat.div_one]
        have e : v % 256 ^ (n + 1) = v % 256 + 256 * (v / 256 % 256 ^ n) := by
          rw [show 256 ^ (n + 1) = 256 * 256 ^ n by rw [Nat.pow_succ, Nat.mul_comm], Nat.mod_mul]
        rw [e]
      · intro j hj
        have := hm (j + 1) (by omega)
        rw [show pa + (j + 1) = pa + 1 + j by omega] at this
        rw [this]
        congr 1
        rw [show 8 * (j + 1) = 8 + 8 * j by omega, Nat.pow_add, ← Nat.div_div_eq_div_mul]
  apply key
  intro j hj
  rw [State.store_read _ _ _ h, leBytes_length, if_pos (by omega), Nat.add_sub_cancel_left, leBytes_getD _ _ _ hj]

/-- A store leaves other bytes. -/
theorem State.store_readN_ne (s : State) (pa : Nat) (bs : List Byte) (a n : Nat) (h : s.mem.wf = true) (hd : a + n ≤ pa ∨ pa + bs.length ≤ a) : (s.store pa bs).mem.readN a n = s.mem.readN a n := by
  apply Memory.readN_congr
  intro j hj
  rw [State.store_read _ _ _ h, if_neg (by omega)]

/-- A doubleword is eight bytes. -/
theorem Memory.dword_toNat (m : Memory) (a : Nat) : (m.dword a).toNat = m.readN a 8 := by
  unfold Memory.dword dw
  rw [BitVec.toNat_ofNat, Nat.mod_eq_of_lt]
  have := Memory.readN_lt m 8 a; simpa using this

/-- The first k of n bytes, and the rest. -/
theorem Memory.bytes_split (m : Memory) : ∀ (k a n : Nat), k ≤ n → (m.bytes a n).take k = m.bytes a k ∧ (m.bytes a n).drop k = m.bytes (a + k) (n - k)
  | 0, a, n, _ => ⟨by simp [Memory.bytes], by simp⟩
  | k + 1, a, 0, h => absurd h (by omega)
  | k + 1, a, n + 1, h => by
    have := Memory.bytes_split m k (a + 1) n (by omega)
    unfold Memory.bytes
    rw [List.take_succ_cons, List.drop_succ_cons, this.1, this.2]
    refine ⟨?_, ?_⟩
    · cases k <;> rfl
    · have e1 : a + 1 + k = a + (k + 1) := by omega
      have e2 : n + 1 - (k + 1) = n - k := by omega
      rw [e1, e2]
      cases n - k <;> rfl

/-- A field as a quotient. -/
theorem field_eq_div (v hi lo : Nat) : field v hi lo = v / 2 ^ lo % 2 ^ (hi + 1 - lo) := rfl

/-- A bit that is 1. -/
theorem bitN_eq_one (v n : Nat) : bitN v n = 1 ↔ v.testBit n = true := by
  unfold bitN
  rw [Nat.testBit_eq_decide_div_mod_eq]; simp

/-- A bit that is 0. -/
theorem bitN_eq_zero (v n : Nat) : bitN v n = 0 ↔ v.testBit n = false := by
  unfold bitN
  rw [Nat.testBit_eq_decide_div_mod_eq]; simp

end Sys2Proof.Machine
end

