-- ==== Sys2Proof/Laws/Frame.lean ====
section
/-! SUPPORT. What the shared operations of engines and events leave unchanged. -/

namespace Sys2Proof.Machine

/-- t is s but for memory and what a store to it touches: row tracking and the poison of lines. -/
def State.SameButStores (s t : State) : Prop := t = { s with mem := t.mem, rimes := t.rimes, slice := t.slice }

theorem State.SameButStores.refl (s : State) : s.SameButStores s := rfl

theorem State.SameButStores.trans {a b c : State} (h : a.SameButStores b) (k : b.SameButStores c) : a.SameButStores c := by
  unfold State.SameButStores at *
  rw [h] at k; exact k

theorem State.store_same (s : State) (pa : Nat) (bs : List Byte) : s.SameButStores (s.store pa bs) := rfl

theorem State.storePieces_same : ∀ (ps : List (Nat × Nat × Nat)) (bs : List Byte) (s : State), s.SameButStores (s.storePieces ps bs)
  | [], _, s => .refl s
  | (_, pa, n) :: t, bs, s => (s.store_same pa (bs.take n)).trans (State.storePieces_same t (bs.drop n) _)

theorem State.engineWrite_same {s t : State} {ctx va : Nat} {bs : List Byte} (h : s.engineWrite ctx va bs = .ok t) :
    s.SameButStores t := by
  unfold State.engineWrite at h
  split at h
  · cases h
  · cases h; exact State.storePieces_same _ _ _

/-- t is s but for stores, the vectors raised, and the events folded of contexts (R97, R374). -/
def State.SameButEvents (s t : State) : Prop :=
  t = { s with mem := t.mem, rimes := t.rimes, slice := t.slice, host := t.host, ctxs := t.ctxs }
    ∧ t.host = { s.host with msix := t.host.msix }

theorem State.SameButEvents.refl (s : State) : s.SameButEvents s := ⟨rfl, rfl⟩

theorem State.SameButEvents.trans {a b c : State} (h : a.SameButEvents b) (k : b.SameButEvents c) : a.SameButEvents c := by
  obtain ⟨h1, h2⟩ := h
  obtain ⟨k1, k2⟩ := k
  refine ⟨?_, ?_⟩
  · rw [h1] at k1; exact k1
  · rw [h2] at k2; exact k2

theorem State.SameButStores.events {s t : State} (h : s.SameButStores t) : s.SameButEvents t := by
  refine ⟨?_, ?_⟩
  · unfold State.SameButStores at h; rw [h]
  · have : t.host = s.host := by rw [h]
    rw [this]

theorem State.ringWrite_same (s : State) (ctx : Nat) (r : Ring) (bs : List Byte) : s.SameButEvents (s.ringWrite ctx r bs) := by
  unfold State.ringWrite
  split
  · exact .refl s
  · split
    · exact .refl s
    · split
      · exact .refl s
      · rename_i h1 _ _ h2
        refine ((State.engineWrite_same h1).trans (State.engineWrite_same h2)).events.trans ?_
        unfold State.raiseVector
        split
        · exact .refl _
        · exact ⟨rfl, rfl⟩

theorem State.ctxs_same (s : State) (x : Tbl Ctx) : s.SameButEvents { s with ctxs := x } := ⟨rfl, rfl⟩

theorem State.raiseEvent_same (s : State) (ctx : Nat) (e : CtxEvent) : s.SameButEvents (s.raiseEvent ctx e) := by
  unfold State.raiseEvent
  dsimp only
  split
  · split
    · split
      · exact s.ctxs_same _
      · exact (s.ctxs_same _).trans (State.ringWrite_same _ _ _ _)
    · exact (s.ctxs_same _).trans (State.ringWrite_same _ _ _ _)
  · exact s.ringWrite_same _ _ _

theorem State.SameButEvents.cores {s t : State} (h : s.SameButEvents t) : t.cores = s.cores := by rw [h.1]

end Sys2Proof.Machine
end

