-- ==== Sys2Proof/Laws/State.lean ====
section
/-! SUPPORT. One lemma per field of the state and per update: the field after the update. -/

namespace Sys2Proof.Machine

variable (s : State)

@[simp] theorem State.setCore_actor (c : Nat) (x : CoreState) : (s.setCore c x).actor = s.actor := rfl
@[simp] theorem State.setCore_agenda (c : Nat) (x : CoreState) : (s.setCore c x).agenda = s.agenda := rfl
@[simp] theorem State.setCore_tick (c : Nat) (x : CoreState) : (s.setCore c x).tick = s.tick := rfl
@[simp] theorem State.setCore_fresh (c : Nat) (x : CoreState) : (s.setCore c x).fresh = s.fresh := rfl
@[simp] theorem State.setCore_tns (c : Nat) (x : CoreState) : (s.setCore c x).tns = s.tns := rfl
@[simp] theorem State.setCore_mem (c : Nat) (x : CoreState) : (s.setCore c x).mem = s.mem := rfl
@[simp] theorem State.setCore_slice (c : Nat) (x : CoreState) : (s.setCore c x).slice = s.slice := rfl
@[simp] theorem State.setCore_cores (c : Nat) (x : CoreState) : (s.setCore c x).cores = s.cores.set c x := rfl
@[simp] theorem State.setCore_ctxs (c : Nat) (x : CoreState) : (s.setCore c x).ctxs = s.ctxs := rfl
@[simp] theorem State.setCore_strands (c : Nat) (x : CoreState) : (s.setCore c x).strands = s.strands := rfl
@[simp] theorem State.setCore_records (c : Nat) (x : CoreState) : (s.setCore c x).records = s.records := rfl
@[simp] theorem State.setCore_completions (c : Nat) (x : CoreState) : (s.setCore c x).completions = s.completions := rfl
@[simp] theorem State.setCore_trans (c : Nat) (x : CoreState) : (s.setCore c x).trans = s.trans := rfl
@[simp] theorem State.setCore_sched (c : Nat) (x : CoreState) : (s.setCore c x).sched = s.sched := rfl
@[simp] theorem State.setCore_cmds (c : Nat) (x : CoreState) : (s.setCore c x).cmds = s.cmds := rfl
@[simp] theorem State.setCore_nextUid (c : Nat) (x : CoreState) : (s.setCore c x).nextUid = s.nextUid := rfl
@[simp] theorem State.setCore_firn (c : Nat) (x : CoreState) : (s.setCore c x).firn = s.firn := rfl
@[simp] theorem State.setCore_gen (c : Nat) (x : CoreState) : (s.setCore c x).gen = s.gen := rfl
@[simp] theorem State.setCore_rimes (c : Nat) (x : CoreState) : (s.setCore c x).rimes = s.rimes := rfl
@[simp] theorem State.setCore_host (c : Nat) (x : CoreState) : (s.setCore c x).host = s.host := rfl

@[simp] theorem State.modCore_actor (c : Nat) (f : CoreState → CoreState) : (s.modCore c f).actor = s.actor := rfl
@[simp] theorem State.modCore_agenda (c : Nat) (f : CoreState → CoreState) : (s.modCore c f).agenda = s.agenda := rfl
@[simp] theorem State.modCore_tick (c : Nat) (f : CoreState → CoreState) : (s.modCore c f).tick = s.tick := rfl
@[simp] theorem State.modCore_fresh (c : Nat) (f : CoreState → CoreState) : (s.modCore c f).fresh = s.fresh := rfl
@[simp] theorem State.modCore_tns (c : Nat) (f : CoreState → CoreState) : (s.modCore c f).tns = s.tns := rfl
@[simp] theorem State.modCore_mem (c : Nat) (f : CoreState → CoreState) : (s.modCore c f).mem = s.mem := rfl
@[simp] theorem State.modCore_slice (c : Nat) (f : CoreState → CoreState) : (s.modCore c f).slice = s.slice := rfl
@[simp] theorem State.modCore_cores (c : Nat) (f : CoreState → CoreState) : (s.modCore c f).cores = s.cores.set c (f (s.core c)) := rfl
@[simp] theorem State.modCore_ctxs (c : Nat) (f : CoreState → CoreState) : (s.modCore c f).ctxs = s.ctxs := rfl
@[simp] theorem State.modCore_strands (c : Nat) (f : CoreState → CoreState) : (s.modCore c f).strands = s.strands := rfl
@[simp] theorem State.modCore_records (c : Nat) (f : CoreState → CoreState) : (s.modCore c f).records = s.records := rfl
@[simp] theorem State.modCore_completions (c : Nat) (f : CoreState → CoreState) : (s.modCore c f).completions = s.completions := rfl
@[simp] theorem State.modCore_trans (c : Nat) (f : CoreState → CoreState) : (s.modCore c f).trans = s.trans := rfl
@[simp] theorem State.modCore_sched (c : Nat) (f : CoreState → CoreState) : (s.modCore c f).sched = s.sched := rfl
@[simp] theorem State.modCore_cmds (c : Nat) (f : CoreState → CoreState) : (s.modCore c f).cmds = s.cmds := rfl
@[simp] theorem State.modCore_nextUid (c : Nat) (f : CoreState → CoreState) : (s.modCore c f).nextUid = s.nextUid := rfl
@[simp] theorem State.modCore_firn (c : Nat) (f : CoreState → CoreState) : (s.modCore c f).firn = s.firn := rfl
@[simp] theorem State.modCore_gen (c : Nat) (f : CoreState → CoreState) : (s.modCore c f).gen = s.gen := rfl
@[simp] theorem State.modCore_rimes (c : Nat) (f : CoreState → CoreState) : (s.modCore c f).rimes = s.rimes := rfl
@[simp] theorem State.modCore_host (c : Nat) (f : CoreState → CoreState) : (s.modCore c f).host = s.host := rfl

@[simp] theorem State.setCtx_actor (c : Nat) (x : Ctx) : (s.setCtx c x).actor = s.actor := rfl
@[simp] theorem State.setCtx_agenda (c : Nat) (x : Ctx) : (s.setCtx c x).agenda = s.agenda := rfl
@[simp] theorem State.setCtx_tick (c : Nat) (x : Ctx) : (s.setCtx c x).tick = s.tick := rfl
@[simp] theorem State.setCtx_fresh (c : Nat) (x : Ctx) : (s.setCtx c x).fresh = s.fresh := rfl
@[simp] theorem State.setCtx_tns (c : Nat) (x : Ctx) : (s.setCtx c x).tns = s.tns := rfl
@[simp] theorem State.setCtx_mem (c : Nat) (x : Ctx) : (s.setCtx c x).mem = s.mem := rfl
@[simp] theorem State.setCtx_slice (c : Nat) (x : Ctx) : (s.setCtx c x).slice = s.slice := rfl
@[simp] theorem State.setCtx_cores (c : Nat) (x : Ctx) : (s.setCtx c x).cores = s.cores := rfl
@[simp] theorem State.setCtx_ctxs (c : Nat) (x : Ctx) : (s.setCtx c x).ctxs = s.ctxs.set c x := rfl
@[simp] theorem State.setCtx_strands (c : Nat) (x : Ctx) : (s.setCtx c x).strands = s.strands := rfl
@[simp] theorem State.setCtx_records (c : Nat) (x : Ctx) : (s.setCtx c x).records = s.records := rfl
@[simp] theorem State.setCtx_completions (c : Nat) (x : Ctx) : (s.setCtx c x).completions = s.completions := rfl
@[simp] theorem State.setCtx_trans (c : Nat) (x : Ctx) : (s.setCtx c x).trans = s.trans := rfl
@[simp] theorem State.setCtx_sched (c : Nat) (x : Ctx) : (s.setCtx c x).sched = s.sched := rfl
@[simp] theorem State.setCtx_cmds (c : Nat) (x : Ctx) : (s.setCtx c x).cmds = s.cmds := rfl
@[simp] theorem State.setCtx_nextUid (c : Nat) (x : Ctx) : (s.setCtx c x).nextUid = s.nextUid := rfl
@[simp] theorem State.setCtx_firn (c : Nat) (x : Ctx) : (s.setCtx c x).firn = s.firn := rfl
@[simp] theorem State.setCtx_gen (c : Nat) (x : Ctx) : (s.setCtx c x).gen = s.gen := rfl
@[simp] theorem State.setCtx_rimes (c : Nat) (x : Ctx) : (s.setCtx c x).rimes = s.rimes := rfl
@[simp] theorem State.setCtx_host (c : Nat) (x : Ctx) : (s.setCtx c x).host = s.host := rfl

@[simp] theorem State.modCtx_actor (c : Nat) (f : Ctx → Ctx) : (s.modCtx c f).actor = s.actor := rfl
@[simp] theorem State.modCtx_agenda (c : Nat) (f : Ctx → Ctx) : (s.modCtx c f).agenda = s.agenda := rfl
@[simp] theorem State.modCtx_tick (c : Nat) (f : Ctx → Ctx) : (s.modCtx c f).tick = s.tick := rfl
@[simp] theorem State.modCtx_fresh (c : Nat) (f : Ctx → Ctx) : (s.modCtx c f).fresh = s.fresh := rfl
@[simp] theorem State.modCtx_tns (c : Nat) (f : Ctx → Ctx) : (s.modCtx c f).tns = s.tns := rfl
@[simp] theorem State.modCtx_mem (c : Nat) (f : Ctx → Ctx) : (s.modCtx c f).mem = s.mem := rfl
@[simp] theorem State.modCtx_slice (c : Nat) (f : Ctx → Ctx) : (s.modCtx c f).slice = s.slice := rfl
@[simp] theorem State.modCtx_cores (c : Nat) (f : Ctx → Ctx) : (s.modCtx c f).cores = s.cores := rfl
@[simp] theorem State.modCtx_ctxs (c : Nat) (f : Ctx → Ctx) : (s.modCtx c f).ctxs = s.ctxs.set c (f (s.ctx c)) := rfl
@[simp] theorem State.modCtx_strands (c : Nat) (f : Ctx → Ctx) : (s.modCtx c f).strands = s.strands := rfl
@[simp] theorem State.modCtx_records (c : Nat) (f : Ctx → Ctx) : (s.modCtx c f).records = s.records := rfl
@[simp] theorem State.modCtx_completions (c : Nat) (f : Ctx → Ctx) : (s.modCtx c f).completions = s.completions := rfl
@[simp] theorem State.modCtx_trans (c : Nat) (f : Ctx → Ctx) : (s.modCtx c f).trans = s.trans := rfl
@[simp] theorem State.modCtx_sched (c : Nat) (f : Ctx → Ctx) : (s.modCtx c f).sched = s.sched := rfl
@[simp] theorem State.modCtx_cmds (c : Nat) (f : Ctx → Ctx) : (s.modCtx c f).cmds = s.cmds := rfl
@[simp] theorem State.modCtx_nextUid (c : Nat) (f : Ctx → Ctx) : (s.modCtx c f).nextUid = s.nextUid := rfl
@[simp] theorem State.modCtx_firn (c : Nat) (f : Ctx → Ctx) : (s.modCtx c f).firn = s.firn := rfl
@[simp] theorem State.modCtx_gen (c : Nat) (f : Ctx → Ctx) : (s.modCtx c f).gen = s.gen := rfl
@[simp] theorem State.modCtx_rimes (c : Nat) (f : Ctx → Ctx) : (s.modCtx c f).rimes = s.rimes := rfl
@[simp] theorem State.modCtx_host (c : Nat) (f : Ctx → Ctx) : (s.modCtx c f).host = s.host := rfl

@[simp] theorem State.setStrand_actor (k : Nat) (x : Strand) : (s.setStrand k x).actor = s.actor := rfl
@[simp] theorem State.setStrand_agenda (k : Nat) (x : Strand) : (s.setStrand k x).agenda = s.agenda := rfl
@[simp] theorem State.setStrand_tick (k : Nat) (x : Strand) : (s.setStrand k x).tick = s.tick := rfl
@[simp] theorem State.setStrand_fresh (k : Nat) (x : Strand) : (s.setStrand k x).fresh = s.fresh := rfl
@[simp] theorem State.setStrand_tns (k : Nat) (x : Strand) : (s.setStrand k x).tns = s.tns := rfl
@[simp] theorem State.setStrand_mem (k : Nat) (x : Strand) : (s.setStrand k x).mem = s.mem := rfl
@[simp] theorem State.setStrand_slice (k : Nat) (x : Strand) : (s.setStrand k x).slice = s.slice := rfl
@[simp] theorem State.setStrand_cores (k : Nat) (x : Strand) : (s.setStrand k x).cores = s.cores := rfl
@[simp] theorem State.setStrand_ctxs (k : Nat) (x : Strand) : (s.setStrand k x).ctxs = s.ctxs := rfl
@[simp] theorem State.setStrand_strands (k : Nat) (x : Strand) : (s.setStrand k x).strands = s.strands.set k x := rfl
@[simp] theorem State.setStrand_records (k : Nat) (x : Strand) : (s.setStrand k x).records = s.records := rfl
@[simp] theorem State.setStrand_completions (k : Nat) (x : Strand) : (s.setStrand k x).completions = s.completions := rfl
@[simp] theorem State.setStrand_trans (k : Nat) (x : Strand) : (s.setStrand k x).trans = s.trans := rfl
@[simp] theorem State.setStrand_sched (k : Nat) (x : Strand) : (s.setStrand k x).sched = s.sched := rfl
@[simp] theorem State.setStrand_cmds (k : Nat) (x : Strand) : (s.setStrand k x).cmds = s.cmds := rfl
@[simp] theorem State.setStrand_nextUid (k : Nat) (x : Strand) : (s.setStrand k x).nextUid = s.nextUid := rfl
@[simp] theorem State.setStrand_firn (k : Nat) (x : Strand) : (s.setStrand k x).firn = s.firn := rfl
@[simp] theorem State.setStrand_gen (k : Nat) (x : Strand) : (s.setStrand k x).gen = s.gen := rfl
@[simp] theorem State.setStrand_rimes (k : Nat) (x : Strand) : (s.setStrand k x).rimes = s.rimes := rfl
@[simp] theorem State.setStrand_host (k : Nat) (x : Strand) : (s.setStrand k x).host = s.host := rfl

@[simp] theorem State.putMe_actor (x : Strand) : (s.putMe x).actor = s.actor := rfl
@[simp] theorem State.putMe_agenda (x : Strand) : (s.putMe x).agenda = s.agenda := rfl
@[simp] theorem State.putMe_tick (x : Strand) : (s.putMe x).tick = s.tick := rfl
@[simp] theorem State.putMe_fresh (x : Strand) : (s.putMe x).fresh = s.fresh := rfl
@[simp] theorem State.putMe_tns (x : Strand) : (s.putMe x).tns = s.tns := rfl
@[simp] theorem State.putMe_mem (x : Strand) : (s.putMe x).mem = s.mem := rfl
@[simp] theorem State.putMe_slice (x : Strand) : (s.putMe x).slice = s.slice := rfl
@[simp] theorem State.putMe_cores (x : Strand) : (s.putMe x).cores = s.cores := rfl
@[simp] theorem State.putMe_ctxs (x : Strand) : (s.putMe x).ctxs = s.ctxs := rfl
@[simp] theorem State.putMe_strands (x : Strand) : (s.putMe x).strands = s.strands.set s.meKey x := rfl
@[simp] theorem State.putMe_records (x : Strand) : (s.putMe x).records = s.records := rfl
@[simp] theorem State.putMe_completions (x : Strand) : (s.putMe x).completions = s.completions := rfl
@[simp] theorem State.putMe_trans (x : Strand) : (s.putMe x).trans = s.trans := rfl
@[simp] theorem State.putMe_sched (x : Strand) : (s.putMe x).sched = s.sched := rfl
@[simp] theorem State.putMe_cmds (x : Strand) : (s.putMe x).cmds = s.cmds := rfl
@[simp] theorem State.putMe_nextUid (x : Strand) : (s.putMe x).nextUid = s.nextUid := rfl
@[simp] theorem State.putMe_firn (x : Strand) : (s.putMe x).firn = s.firn := rfl
@[simp] theorem State.putMe_gen (x : Strand) : (s.putMe x).gen = s.gen := rfl
@[simp] theorem State.putMe_rimes (x : Strand) : (s.putMe x).rimes = s.rimes := rfl
@[simp] theorem State.putMe_host (x : Strand) : (s.putMe x).host = s.host := rfl

@[simp] theorem State.setRecord_actor (k : Nat) (x : Record) : (s.setRecord k x).actor = s.actor := rfl
@[simp] theorem State.setRecord_agenda (k : Nat) (x : Record) : (s.setRecord k x).agenda = s.agenda := rfl
@[simp] theorem State.setRecord_tick (k : Nat) (x : Record) : (s.setRecord k x).tick = s.tick := rfl
@[simp] theorem State.setRecord_fresh (k : Nat) (x : Record) : (s.setRecord k x).fresh = s.fresh := rfl
@[simp] theorem State.setRecord_tns (k : Nat) (x : Record) : (s.setRecord k x).tns = s.tns := rfl
@[simp] theorem State.setRecord_mem (k : Nat) (x : Record) : (s.setRecord k x).mem = s.mem := rfl
@[simp] theorem State.setRecord_slice (k : Nat) (x : Record) : (s.setRecord k x).slice = s.slice := rfl
@[simp] theorem State.setRecord_cores (k : Nat) (x : Record) : (s.setRecord k x).cores = s.cores := rfl
@[simp] theorem State.setRecord_ctxs (k : Nat) (x : Record) : (s.setRecord k x).ctxs = s.ctxs := rfl
@[simp] theorem State.setRecord_strands (k : Nat) (x : Record) : (s.setRecord k x).strands = s.strands := rfl
@[simp] theorem State.setRecord_records (k : Nat) (x : Record) : (s.setRecord k x).records = s.records.set k x := rfl
@[simp] theorem State.setRecord_completions (k : Nat) (x : Record) : (s.setRecord k x).completions = s.completions := rfl
@[simp] theorem State.setRecord_trans (k : Nat) (x : Record) : (s.setRecord k x).trans = s.trans := rfl
@[simp] theorem State.setRecord_sched (k : Nat) (x : Record) : (s.setRecord k x).sched = s.sched := rfl
@[simp] theorem State.setRecord_cmds (k : Nat) (x : Record) : (s.setRecord k x).cmds = s.cmds := rfl
@[simp] theorem State.setRecord_nextUid (k : Nat) (x : Record) : (s.setRecord k x).nextUid = s.nextUid := rfl
@[simp] theorem State.setRecord_firn (k : Nat) (x : Record) : (s.setRecord k x).firn = s.firn := rfl
@[simp] theorem State.setRecord_gen (k : Nat) (x : Record) : (s.setRecord k x).gen = s.gen := rfl
@[simp] theorem State.setRecord_rimes (k : Nat) (x : Record) : (s.setRecord k x).rimes = s.rimes := rfl
@[simp] theorem State.setRecord_host (k : Nat) (x : Record) : (s.setRecord k x).host = s.host := rfl

@[simp] theorem State.setSlice_actor (x : SliceState) : (s.setSlice x).actor = s.actor := rfl
@[simp] theorem State.setSlice_agenda (x : SliceState) : (s.setSlice x).agenda = s.agenda := rfl
@[simp] theorem State.setSlice_tick (x : SliceState) : (s.setSlice x).tick = s.tick := rfl
@[simp] theorem State.setSlice_fresh (x : SliceState) : (s.setSlice x).fresh = s.fresh := rfl
@[simp] theorem State.setSlice_tns (x : SliceState) : (s.setSlice x).tns = s.tns := rfl
@[simp] theorem State.setSlice_mem (x : SliceState) : (s.setSlice x).mem = s.mem := rfl
@[simp] theorem State.setSlice_slice (x : SliceState) : (s.setSlice x).slice = x := rfl
@[simp] theorem State.setSlice_cores (x : SliceState) : (s.setSlice x).cores = s.cores := rfl
@[simp] theorem State.setSlice_ctxs (x : SliceState) : (s.setSlice x).ctxs = s.ctxs := rfl
@[simp] theorem State.setSlice_strands (x : SliceState) : (s.setSlice x).strands = s.strands := rfl
@[simp] theorem State.setSlice_records (x : SliceState) : (s.setSlice x).records = s.records := rfl
@[simp] theorem State.setSlice_completions (x : SliceState) : (s.setSlice x).completions = s.completions := rfl
@[simp] theorem State.setSlice_trans (x : SliceState) : (s.setSlice x).trans = s.trans := rfl
@[simp] theorem State.setSlice_sched (x : SliceState) : (s.setSlice x).sched = s.sched := rfl
@[simp] theorem State.setSlice_cmds (x : SliceState) : (s.setSlice x).cmds = s.cmds := rfl
@[simp] theorem State.setSlice_nextUid (x : SliceState) : (s.setSlice x).nextUid = s.nextUid := rfl
@[simp] theorem State.setSlice_firn (x : SliceState) : (s.setSlice x).firn = s.firn := rfl
@[simp] theorem State.setSlice_gen (x : SliceState) : (s.setSlice x).gen = s.gen := rfl
@[simp] theorem State.setSlice_rimes (x : SliceState) : (s.setSlice x).rimes = s.rimes := rfl
@[simp] theorem State.setSlice_host (x : SliceState) : (s.setSlice x).host = s.host := rfl

@[simp] theorem State.setSched_actor (x : SchedState) : (s.setSched x).actor = s.actor := rfl
@[simp] theorem State.setSched_agenda (x : SchedState) : (s.setSched x).agenda = s.agenda := rfl
@[simp] theorem State.setSched_tick (x : SchedState) : (s.setSched x).tick = s.tick := rfl
@[simp] theorem State.setSched_fresh (x : SchedState) : (s.setSched x).fresh = s.fresh := rfl
@[simp] theorem State.setSched_tns (x : SchedState) : (s.setSched x).tns = s.tns := rfl
@[simp] theorem State.setSched_mem (x : SchedState) : (s.setSched x).mem = s.mem := rfl
@[simp] theorem State.setSched_slice (x : SchedState) : (s.setSched x).slice = s.slice := rfl
@[simp] theorem State.setSched_cores (x : SchedState) : (s.setSched x).cores = s.cores := rfl
@[simp] theorem State.setSched_ctxs (x : SchedState) : (s.setSched x).ctxs = s.ctxs := rfl
@[simp] theorem State.setSched_strands (x : SchedState) : (s.setSched x).strands = s.strands := rfl
@[simp] theorem State.setSched_records (x : SchedState) : (s.setSched x).records = s.records := rfl
@[simp] theorem State.setSched_completions (x : SchedState) : (s.setSched x).completions = s.completions := rfl
@[simp] theorem State.setSched_trans (x : SchedState) : (s.setSched x).trans = s.trans := rfl
@[simp] theorem State.setSched_sched (x : SchedState) : (s.setSched x).sched = x := rfl
@[simp] theorem State.setSched_cmds (x : SchedState) : (s.setSched x).cmds = s.cmds := rfl
@[simp] theorem State.setSched_nextUid (x : SchedState) : (s.setSched x).nextUid = s.nextUid := rfl
@[simp] theorem State.setSched_firn (x : SchedState) : (s.setSched x).firn = s.firn := rfl
@[simp] theorem State.setSched_gen (x : SchedState) : (s.setSched x).gen = s.gen := rfl
@[simp] theorem State.setSched_rimes (x : SchedState) : (s.setSched x).rimes = s.rimes := rfl
@[simp] theorem State.setSched_host (x : SchedState) : (s.setSched x).host = s.host := rfl

@[simp] theorem State.setHost_actor (x : HostState) : (s.setHost x).actor = s.actor := rfl
@[simp] theorem State.setHost_agenda (x : HostState) : (s.setHost x).agenda = s.agenda := rfl
@[simp] theorem State.setHost_tick (x : HostState) : (s.setHost x).tick = s.tick := rfl
@[simp] theorem State.setHost_fresh (x : HostState) : (s.setHost x).fresh = s.fresh := rfl
@[simp] theorem State.setHost_tns (x : HostState) : (s.setHost x).tns = s.tns := rfl
@[simp] theorem State.setHost_mem (x : HostState) : (s.setHost x).mem = s.mem := rfl
@[simp] theorem State.setHost_slice (x : HostState) : (s.setHost x).slice = s.slice := rfl
@[simp] theorem State.setHost_cores (x : HostState) : (s.setHost x).cores = s.cores := rfl
@[simp] theorem State.setHost_ctxs (x : HostState) : (s.setHost x).ctxs = s.ctxs := rfl
@[simp] theorem State.setHost_strands (x : HostState) : (s.setHost x).strands = s.strands := rfl
@[simp] theorem State.setHost_records (x : HostState) : (s.setHost x).records = s.records := rfl
@[simp] theorem State.setHost_completions (x : HostState) : (s.setHost x).completions = s.completions := rfl
@[simp] theorem State.setHost_trans (x : HostState) : (s.setHost x).trans = s.trans := rfl
@[simp] theorem State.setHost_sched (x : HostState) : (s.setHost x).sched = s.sched := rfl
@[simp] theorem State.setHost_cmds (x : HostState) : (s.setHost x).cmds = s.cmds := rfl
@[simp] theorem State.setHost_nextUid (x : HostState) : (s.setHost x).nextUid = s.nextUid := rfl
@[simp] theorem State.setHost_firn (x : HostState) : (s.setHost x).firn = s.firn := rfl
@[simp] theorem State.setHost_gen (x : HostState) : (s.setHost x).gen = s.gen := rfl
@[simp] theorem State.setHost_rimes (x : HostState) : (s.setHost x).rimes = s.rimes := rfl
@[simp] theorem State.setHost_host (x : HostState) : (s.setHost x).host = x := rfl

@[simp] theorem State.setFirn_actor (x : FirnState) : (s.setFirn x).actor = s.actor := rfl
@[simp] theorem State.setFirn_agenda (x : FirnState) : (s.setFirn x).agenda = s.agenda := rfl
@[simp] theorem State.setFirn_tick (x : FirnState) : (s.setFirn x).tick = s.tick := rfl
@[simp] theorem State.setFirn_fresh (x : FirnState) : (s.setFirn x).fresh = s.fresh := rfl
@[simp] theorem State.setFirn_tns (x : FirnState) : (s.setFirn x).tns = s.tns := rfl
@[simp] theorem State.setFirn_mem (x : FirnState) : (s.setFirn x).mem = s.mem := rfl
@[simp] theorem State.setFirn_slice (x : FirnState) : (s.setFirn x).slice = s.slice := rfl
@[simp] theorem State.setFirn_cores (x : FirnState) : (s.setFirn x).cores = s.cores := rfl
@[simp] theorem State.setFirn_ctxs (x : FirnState) : (s.setFirn x).ctxs = s.ctxs := rfl
@[simp] theorem State.setFirn_strands (x : FirnState) : (s.setFirn x).strands = s.strands := rfl
@[simp] theorem State.setFirn_records (x : FirnState) : (s.setFirn x).records = s.records := rfl
@[simp] theorem State.setFirn_completions (x : FirnState) : (s.setFirn x).completions = s.completions := rfl
@[simp] theorem State.setFirn_trans (x : FirnState) : (s.setFirn x).trans = s.trans := rfl
@[simp] theorem State.setFirn_sched (x : FirnState) : (s.setFirn x).sched = s.sched := rfl
@[simp] theorem State.setFirn_cmds (x : FirnState) : (s.setFirn x).cmds = s.cmds := rfl
@[simp] theorem State.setFirn_nextUid (x : FirnState) : (s.setFirn x).nextUid = s.nextUid := rfl
@[simp] theorem State.setFirn_firn (x : FirnState) : (s.setFirn x).firn = x := rfl
@[simp] theorem State.setFirn_gen (x : FirnState) : (s.setFirn x).gen = s.gen := rfl
@[simp] theorem State.setFirn_rimes (x : FirnState) : (s.setFirn x).rimes = s.rimes := rfl
@[simp] theorem State.setFirn_host (x : FirnState) : (s.setFirn x).host = s.host := rfl

@[simp] theorem State.setGen_actor (x : GenState) : (s.setGen x).actor = s.actor := rfl
@[simp] theorem State.setGen_agenda (x : GenState) : (s.setGen x).agenda = s.agenda := rfl
@[simp] theorem State.setGen_tick (x : GenState) : (s.setGen x).tick = s.tick := rfl
@[simp] theorem State.setGen_fresh (x : GenState) : (s.setGen x).fresh = s.fresh := rfl
@[simp] theorem State.setGen_tns (x : GenState) : (s.setGen x).tns = s.tns := rfl
@[simp] theorem State.setGen_mem (x : GenState) : (s.setGen x).mem = s.mem := rfl
@[simp] theorem State.setGen_slice (x : GenState) : (s.setGen x).slice = s.slice := rfl
@[simp] theorem State.setGen_cores (x : GenState) : (s.setGen x).cores = s.cores := rfl
@[simp] theorem State.setGen_ctxs (x : GenState) : (s.setGen x).ctxs = s.ctxs := rfl
@[simp] theorem State.setGen_strands (x : GenState) : (s.setGen x).strands = s.strands := rfl
@[simp] theorem State.setGen_records (x : GenState) : (s.setGen x).records = s.records := rfl
@[simp] theorem State.setGen_completions (x : GenState) : (s.setGen x).completions = s.completions := rfl
@[simp] theorem State.setGen_trans (x : GenState) : (s.setGen x).trans = s.trans := rfl
@[simp] theorem State.setGen_sched (x : GenState) : (s.setGen x).sched = s.sched := rfl
@[simp] theorem State.setGen_cmds (x : GenState) : (s.setGen x).cmds = s.cmds := rfl
@[simp] theorem State.setGen_nextUid (x : GenState) : (s.setGen x).nextUid = s.nextUid := rfl
@[simp] theorem State.setGen_firn (x : GenState) : (s.setGen x).firn = s.firn := rfl
@[simp] theorem State.setGen_gen (x : GenState) : (s.setGen x).gen = x := rfl
@[simp] theorem State.setGen_rimes (x : GenState) : (s.setGen x).rimes = s.rimes := rfl
@[simp] theorem State.setGen_host (x : GenState) : (s.setGen x).host = s.host := rfl

@[simp] theorem State.setTrans_actor (x : TransState) : (s.setTrans x).actor = s.actor := rfl
@[simp] theorem State.setTrans_agenda (x : TransState) : (s.setTrans x).agenda = s.agenda := rfl
@[simp] theorem State.setTrans_tick (x : TransState) : (s.setTrans x).tick = s.tick := rfl
@[simp] theorem State.setTrans_fresh (x : TransState) : (s.setTrans x).fresh = s.fresh := rfl
@[simp] theorem State.setTrans_tns (x : TransState) : (s.setTrans x).tns = s.tns := rfl
@[simp] theorem State.setTrans_mem (x : TransState) : (s.setTrans x).mem = s.mem := rfl
@[simp] theorem State.setTrans_slice (x : TransState) : (s.setTrans x).slice = s.slice := rfl
@[simp] theorem State.setTrans_cores (x : TransState) : (s.setTrans x).cores = s.cores := rfl
@[simp] theorem State.setTrans_ctxs (x : TransState) : (s.setTrans x).ctxs = s.ctxs := rfl
@[simp] theorem State.setTrans_strands (x : TransState) : (s.setTrans x).strands = s.strands := rfl
@[simp] theorem State.setTrans_records (x : TransState) : (s.setTrans x).records = s.records := rfl
@[simp] theorem State.setTrans_completions (x : TransState) : (s.setTrans x).completions = s.completions := rfl
@[simp] theorem State.setTrans_trans (x : TransState) : (s.setTrans x).trans = x := rfl
@[simp] theorem State.setTrans_sched (x : TransState) : (s.setTrans x).sched = s.sched := rfl
@[simp] theorem State.setTrans_cmds (x : TransState) : (s.setTrans x).cmds = s.cmds := rfl
@[simp] theorem State.setTrans_nextUid (x : TransState) : (s.setTrans x).nextUid = s.nextUid := rfl
@[simp] theorem State.setTrans_firn (x : TransState) : (s.setTrans x).firn = s.firn := rfl
@[simp] theorem State.setTrans_gen (x : TransState) : (s.setTrans x).gen = s.gen := rfl
@[simp] theorem State.setTrans_rimes (x : TransState) : (s.setTrans x).rimes = s.rimes := rfl
@[simp] theorem State.setTrans_host (x : TransState) : (s.setTrans x).host = s.host := rfl

@[simp] theorem State.setRime_actor (l : Nat) (x : Rime) : (s.setRime l x).actor = s.actor := rfl
@[simp] theorem State.setRime_agenda (l : Nat) (x : Rime) : (s.setRime l x).agenda = s.agenda := rfl
@[simp] theorem State.setRime_tick (l : Nat) (x : Rime) : (s.setRime l x).tick = s.tick := rfl
@[simp] theorem State.setRime_fresh (l : Nat) (x : Rime) : (s.setRime l x).fresh = s.fresh := rfl
@[simp] theorem State.setRime_tns (l : Nat) (x : Rime) : (s.setRime l x).tns = s.tns := rfl
@[simp] theorem State.setRime_mem (l : Nat) (x : Rime) : (s.setRime l x).mem = s.mem := rfl
@[simp] theorem State.setRime_slice (l : Nat) (x : Rime) : (s.setRime l x).slice = s.slice := rfl
@[simp] theorem State.setRime_cores (l : Nat) (x : Rime) : (s.setRime l x).cores = s.cores := rfl
@[simp] theorem State.setRime_ctxs (l : Nat) (x : Rime) : (s.setRime l x).ctxs = s.ctxs := rfl
@[simp] theorem State.setRime_strands (l : Nat) (x : Rime) : (s.setRime l x).strands = s.strands := rfl
@[simp] theorem State.setRime_records (l : Nat) (x : Rime) : (s.setRime l x).records = s.records := rfl
@[simp] theorem State.setRime_completions (l : Nat) (x : Rime) : (s.setRime l x).completions = s.completions := rfl
@[simp] theorem State.setRime_trans (l : Nat) (x : Rime) : (s.setRime l x).trans = s.trans := rfl
@[simp] theorem State.setRime_sched (l : Nat) (x : Rime) : (s.setRime l x).sched = s.sched := rfl
@[simp] theorem State.setRime_cmds (l : Nat) (x : Rime) : (s.setRime l x).cmds = s.cmds := rfl
@[simp] theorem State.setRime_nextUid (l : Nat) (x : Rime) : (s.setRime l x).nextUid = s.nextUid := rfl
@[simp] theorem State.setRime_firn (l : Nat) (x : Rime) : (s.setRime l x).firn = s.firn := rfl
@[simp] theorem State.setRime_gen (l : Nat) (x : Rime) : (s.setRime l x).gen = s.gen := rfl
@[simp] theorem State.setRime_rimes (l : Nat) (x : Rime) : (s.setRime l x).rimes = s.rimes.set l x := rfl
@[simp] theorem State.setRime_host (l : Nat) (x : Rime) : (s.setRime l x).host = s.host := rfl

@[simp] theorem State.modRime_actor (l : Nat) (f : Rime → Rime) : (s.modRime l f).actor = s.actor := rfl
@[simp] theorem State.modRime_agenda (l : Nat) (f : Rime → Rime) : (s.modRime l f).agenda = s.agenda := rfl
@[simp] theorem State.modRime_tick (l : Nat) (f : Rime → Rime) : (s.modRime l f).tick = s.tick := rfl
@[simp] theorem State.modRime_fresh (l : Nat) (f : Rime → Rime) : (s.modRime l f).fresh = s.fresh := rfl
@[simp] theorem State.modRime_tns (l : Nat) (f : Rime → Rime) : (s.modRime l f).tns = s.tns := rfl
@[simp] theorem State.modRime_mem (l : Nat) (f : Rime → Rime) : (s.modRime l f).mem = s.mem := rfl
@[simp] theorem State.modRime_slice (l : Nat) (f : Rime → Rime) : (s.modRime l f).slice = s.slice := rfl
@[simp] theorem State.modRime_cores (l : Nat) (f : Rime → Rime) : (s.modRime l f).cores = s.cores := rfl
@[simp] theorem State.modRime_ctxs (l : Nat) (f : Rime → Rime) : (s.modRime l f).ctxs = s.ctxs := rfl
@[simp] theorem State.modRime_strands (l : Nat) (f : Rime → Rime) : (s.modRime l f).strands = s.strands := rfl
@[simp] theorem State.modRime_records (l : Nat) (f : Rime → Rime) : (s.modRime l f).records = s.records := rfl
@[simp] theorem State.modRime_completions (l : Nat) (f : Rime → Rime) : (s.modRime l f).completions = s.completions := rfl
@[simp] theorem State.modRime_trans (l : Nat) (f : Rime → Rime) : (s.modRime l f).trans = s.trans := rfl
@[simp] theorem State.modRime_sched (l : Nat) (f : Rime → Rime) : (s.modRime l f).sched = s.sched := rfl
@[simp] theorem State.modRime_cmds (l : Nat) (f : Rime → Rime) : (s.modRime l f).cmds = s.cmds := rfl
@[simp] theorem State.modRime_nextUid (l : Nat) (f : Rime → Rime) : (s.modRime l f).nextUid = s.nextUid := rfl
@[simp] theorem State.modRime_firn (l : Nat) (f : Rime → Rime) : (s.modRime l f).firn = s.firn := rfl
@[simp] theorem State.modRime_gen (l : Nat) (f : Rime → Rime) : (s.modRime l f).gen = s.gen := rfl
@[simp] theorem State.modRime_rimes (l : Nat) (f : Rime → Rime) : (s.modRime l f).rimes = s.rimes.set l (f (s.rime l)) := rfl
@[simp] theorem State.modRime_host (l : Nat) (f : Rime → Rime) : (s.modRime l f).host = s.host := rfl

@[simp] theorem State.setTask_actor (t : Nat) (x : Task) : (s.setTask t x).actor = s.actor := rfl
@[simp] theorem State.setTask_agenda (t : Nat) (x : Task) : (s.setTask t x).agenda = s.agenda := rfl
@[simp] theorem State.setTask_tick (t : Nat) (x : Task) : (s.setTask t x).tick = s.tick := rfl
@[simp] theorem State.setTask_fresh (t : Nat) (x : Task) : (s.setTask t x).fresh = s.fresh := rfl
@[simp] theorem State.setTask_tns (t : Nat) (x : Task) : (s.setTask t x).tns = s.tns := rfl
@[simp] theorem State.setTask_mem (t : Nat) (x : Task) : (s.setTask t x).mem = s.mem := rfl
@[simp] theorem State.setTask_slice (t : Nat) (x : Task) : (s.setTask t x).slice = s.slice := rfl
@[simp] theorem State.setTask_cores (t : Nat) (x : Task) : (s.setTask t x).cores = s.cores := rfl
@[simp] theorem State.setTask_ctxs (t : Nat) (x : Task) : (s.setTask t x).ctxs = s.ctxs := rfl
@[simp] theorem State.setTask_strands (t : Nat) (x : Task) : (s.setTask t x).strands = s.strands := rfl
@[simp] theorem State.setTask_records (t : Nat) (x : Task) : (s.setTask t x).records = s.records := rfl
@[simp] theorem State.setTask_completions (t : Nat) (x : Task) : (s.setTask t x).completions = s.completions := rfl
@[simp] theorem State.setTask_trans (t : Nat) (x : Task) : (s.setTask t x).trans = s.trans := rfl
@[simp] theorem State.setTask_sched (t : Nat) (x : Task) : (s.setTask t x).sched = { s.sched with tasks := s.sched.tasks.set t x } := rfl
@[simp] theorem State.setTask_cmds (t : Nat) (x : Task) : (s.setTask t x).cmds = s.cmds := rfl
@[simp] theorem State.setTask_nextUid (t : Nat) (x : Task) : (s.setTask t x).nextUid = s.nextUid := rfl
@[simp] theorem State.setTask_firn (t : Nat) (x : Task) : (s.setTask t x).firn = s.firn := rfl
@[simp] theorem State.setTask_gen (t : Nat) (x : Task) : (s.setTask t x).gen = s.gen := rfl
@[simp] theorem State.setTask_rimes (t : Nat) (x : Task) : (s.setTask t x).rimes = s.rimes := rfl
@[simp] theorem State.setTask_host (t : Nat) (x : Task) : (s.setTask t x).host = s.host := rfl

@[simp] theorem State.setKickSlot_actor (n : Nat) (x : KickSlot) : (s.setKickSlot n x).actor = s.actor := rfl
@[simp] theorem State.setKickSlot_agenda (n : Nat) (x : KickSlot) : (s.setKickSlot n x).agenda = s.agenda := rfl
@[simp] theorem State.setKickSlot_tick (n : Nat) (x : KickSlot) : (s.setKickSlot n x).tick = s.tick := rfl
@[simp] theorem State.setKickSlot_fresh (n : Nat) (x : KickSlot) : (s.setKickSlot n x).fresh = s.fresh := rfl
@[simp] theorem State.setKickSlot_tns (n : Nat) (x : KickSlot) : (s.setKickSlot n x).tns = s.tns := rfl
@[simp] theorem State.setKickSlot_mem (n : Nat) (x : KickSlot) : (s.setKickSlot n x).mem = s.mem := rfl
@[simp] theorem State.setKickSlot_slice (n : Nat) (x : KickSlot) : (s.setKickSlot n x).slice = s.slice := rfl
@[simp] theorem State.setKickSlot_cores (n : Nat) (x : KickSlot) : (s.setKickSlot n x).cores = s.cores := rfl
@[simp] theorem State.setKickSlot_ctxs (n : Nat) (x : KickSlot) : (s.setKickSlot n x).ctxs = s.ctxs := rfl
@[simp] theorem State.setKickSlot_strands (n : Nat) (x : KickSlot) : (s.setKickSlot n x).strands = s.strands := rfl
@[simp] theorem State.setKickSlot_records (n : Nat) (x : KickSlot) : (s.setKickSlot n x).records = s.records := rfl
@[simp] theorem State.setKickSlot_completions (n : Nat) (x : KickSlot) : (s.setKickSlot n x).completions = s.completions := rfl
@[simp] theorem State.setKickSlot_trans (n : Nat) (x : KickSlot) : (s.setKickSlot n x).trans = s.trans := rfl
@[simp] theorem State.setKickSlot_sched (n : Nat) (x : KickSlot) : (s.setKickSlot n x).sched = { s.sched with slots := s.sched.slots.set n x } := rfl
@[simp] theorem State.setKickSlot_cmds (n : Nat) (x : KickSlot) : (s.setKickSlot n x).cmds = s.cmds := rfl
@[simp] theorem State.setKickSlot_nextUid (n : Nat) (x : KickSlot) : (s.setKickSlot n x).nextUid = s.nextUid := rfl
@[simp] theorem State.setKickSlot_firn (n : Nat) (x : KickSlot) : (s.setKickSlot n x).firn = s.firn := rfl
@[simp] theorem State.setKickSlot_gen (n : Nat) (x : KickSlot) : (s.setKickSlot n x).gen = s.gen := rfl
@[simp] theorem State.setKickSlot_rimes (n : Nat) (x : KickSlot) : (s.setKickSlot n x).rimes = s.rimes := rfl
@[simp] theorem State.setKickSlot_host (n : Nat) (x : KickSlot) : (s.setKickSlot n x).host = s.host := rfl

@[simp] theorem State.setMem_actor (m : Memory) : (s.setMem m).actor = s.actor := rfl
@[simp] theorem State.setMem_agenda (m : Memory) : (s.setMem m).agenda = s.agenda := rfl
@[simp] theorem State.setMem_tick (m : Memory) : (s.setMem m).tick = s.tick := rfl
@[simp] theorem State.setMem_fresh (m : Memory) : (s.setMem m).fresh = s.fresh := rfl
@[simp] theorem State.setMem_tns (m : Memory) : (s.setMem m).tns = s.tns := rfl
@[simp] theorem State.setMem_mem (m : Memory) : (s.setMem m).mem = m := rfl
@[simp] theorem State.setMem_slice (m : Memory) : (s.setMem m).slice = s.slice := rfl
@[simp] theorem State.setMem_cores (m : Memory) : (s.setMem m).cores = s.cores := rfl
@[simp] theorem State.setMem_ctxs (m : Memory) : (s.setMem m).ctxs = s.ctxs := rfl
@[simp] theorem State.setMem_strands (m : Memory) : (s.setMem m).strands = s.strands := rfl
@[simp] theorem State.setMem_records (m : Memory) : (s.setMem m).records = s.records := rfl
@[simp] theorem State.setMem_completions (m : Memory) : (s.setMem m).completions = s.completions := rfl
@[simp] theorem State.setMem_trans (m : Memory) : (s.setMem m).trans = s.trans := rfl
@[simp] theorem State.setMem_sched (m : Memory) : (s.setMem m).sched = s.sched := rfl
@[simp] theorem State.setMem_cmds (m : Memory) : (s.setMem m).cmds = s.cmds := rfl
@[simp] theorem State.setMem_nextUid (m : Memory) : (s.setMem m).nextUid = s.nextUid := rfl
@[simp] theorem State.setMem_firn (m : Memory) : (s.setMem m).firn = s.firn := rfl
@[simp] theorem State.setMem_gen (m : Memory) : (s.setMem m).gen = s.gen := rfl
@[simp] theorem State.setMem_rimes (m : Memory) : (s.setMem m).rimes = s.rimes := rfl
@[simp] theorem State.setMem_host (m : Memory) : (s.setMem m).host = s.host := rfl

end Sys2Proof.Machine
end

