-- ==== Sys2Proof/Laws/Table.lean ====
section
/-! SUPPORT. Tables: a lookup after an update, and the canonical form that every update keeps. -/

namespace Sys2Proof.Machine

variable {α : Type}

@[simp] theorem Tbl.get?_nil (n : Nat) : Tbl.get? ([] : Tbl α) n = none := rfl

theorem Tbl.get?_set (t : Tbl α) (n m : Nat) (v : α) :
    (t.set n v).get? m = if n = m then some v else t.get? m := by
  induction t with
  | nil => simp [Tbl.set, Tbl.get?]
  | cons x t ih =>
    obtain ⟨k, w⟩ := x
    by_cases h1 : n < k
    · simp [Tbl.set, Tbl.get?, h1]
    · by_cases h2 : n = k
      · subst h2
        by_cases h3 : n = m <;> simp [Tbl.set, Tbl.get?, h3]
      · simp only [Tbl.set, h1, h2, if_false, Tbl.get?, ih]
        by_cases h3 : k = m
        · subst h3; simp [h2]
        · simp [h3]

@[simp] theorem Tbl.get?_set_self (t : Tbl α) (n : Nat) (v : α) : (t.set n v).get? n = some v := by simp [Tbl.get?_set]

theorem Tbl.get?_set_ne (t : Tbl α) {n m : Nat} (v : α) (h : n ≠ m) : (t.set n v).get? m = t.get? m := by
  simp [Tbl.get?_set, h]

@[simp] theorem Tbl.getD_set_self (t : Tbl α) (n : Nat) (v d : α) : (t.set n v).getD n d = v := by simp [Tbl.getD]

theorem Tbl.getD_set_ne (t : Tbl α) {n m : Nat} (v d : α) (h : n ≠ m) : (t.set n v).getD m d = t.getD m d := by
  simp [Tbl.getD, Tbl.get?_set_ne t v h]

/-- Setting a key twice is setting it once. -/
@[simp] theorem Tbl.set_set (t : Tbl α) (n : Nat) (v w : α) : (t.set n v).set n w = t.set n w := by
  induction t with
  | nil => simp [Tbl.set]
  | cons x t ih =>
    obtain ⟨k, u⟩ := x
    by_cases h1 : n < k
    · simp [Tbl.set, h1]
    · by_cases h2 : n = k
      · simp [Tbl.set, h2]
      · simp [Tbl.set, h1, h2, ih]

/-- Setting a key to its value is no change. -/
theorem Tbl.set_get? (t : Tbl α) (n : Nat) (v : α) (hs : t.Pairwise fun x y => x.1 < y.1) (h : t.get? n = some v) :
    t.set n v = t := by
  induction t with
  | nil => simp at h
  | cons x t ih =>
    obtain ⟨k, u⟩ := x
    rw [List.pairwise_cons] at hs
    by_cases h2 : k = n
    · subst h2
      simp [Tbl.get?] at h
      simp [Tbl.set, h]
    · have h' : Tbl.get? t n = some v := by simpa [Tbl.get?, h2] using h
      have hm : ∀ (u : Tbl α), u.get? n = some v → ∃ x ∈ u, x.1 = n := by
        intro u
        induction u with
        | nil => simp
        | cons y u ihu =>
          intro hy
          by_cases h3 : y.1 = n
          · exact ⟨y, by simp, h3⟩
          · obtain ⟨z, hz, e⟩ := ihu (by simpa [Tbl.get?, h3] using hy)
            exact ⟨z, by simp [hz], e⟩
      obtain ⟨z, hz, e⟩ := hm t h'
      have hlt : k < n := by have := hs.1 z hz; simp_all
      have h1 : ¬n < k := by omega
      have h4 : ¬n = k := by omega
      simp [Tbl.set, h1, h4, ih hs.2 h']

/-- Keys rise strictly after a set where they did before. -/
theorem Tbl.set_sorted (t : Tbl α) (n : Nat) (v : α) (hs : t.Pairwise fun x y => x.1 < y.1) :
    (t.set n v).Pairwise fun x y => x.1 < y.1 := by
  have key : ∀ (u : Tbl α) (a : Nat), a < n → (∀ x ∈ u, a < x.1) → ∀ x ∈ u.set n v, a < x.1 := by
    intro u
    induction u with
    | nil => intro a ha _ x hx; simp [Tbl.set] at hx; simp [hx, ha]
    | cons y u ih =>
      intro a ha hu x hx
      obtain ⟨k, w⟩ := y
      by_cases h1 : n < k
      · simp [Tbl.set, h1] at hx
        rcases hx with hx | hx | hx
        · simp [hx, ha]
        · have := hu (k, w) (by simp); simp [hx, this]
        · exact hu x (by simp [hx])
      · by_cases h2 : n = k
        · simp [Tbl.set, h2] at hx
          rcases hx with hx | hx
          · subst h2; simp [hx, ha]
          · exact hu x (by simp [hx])
        · simp [Tbl.set, h1, h2] at hx
          rcases hx with hx | hx
          · have := hu (k, w) (by simp); simp [hx, this]
          · exact ih a ha (fun z hz => hu z (by simp [hz])) x hx
  induction t with
  | nil => simp [Tbl.set]
  | cons y t ih =>
    obtain ⟨k, w⟩ := y
    rw [List.pairwise_cons] at hs
    by_cases h1 : n < k
    · simp only [Tbl.set, h1, if_true, List.pairwise_cons]
      refine ⟨?_, ?_, hs.2⟩
      · intro x hx
        rcases List.mem_cons.1 hx with hx | hx
        · simp [hx, h1]
        · have := hs.1 x hx; simp at this ⊢; omega
      · intro x hx; exact hs.1 x hx
    · by_cases h2 : n = k
      · subst h2
        simp only [Tbl.set, Nat.lt_irrefl, if_false, if_true, List.pairwise_cons]
        exact ⟨fun x hx => hs.1 x hx, hs.2⟩
      · simp only [Tbl.set, h1, h2, if_false, List.pairwise_cons]
        exact ⟨key t k (by omega) hs.1, ih hs.2⟩

/-- A key taken away. -/
theorem Tbl.get?_erase (t : Tbl α) (n m : Nat) : (t.erase n).get? m = if n = m then none else t.get? m := by
  induction t with
  | nil => simp [Tbl.erase, Tbl.get?]
  | cons x t ih =>
    obtain ⟨k, w⟩ := x
    by_cases h : k = n
    · subst h
      simp only [Tbl.erase, if_true, ih, Tbl.get?]
      split <;> simp_all
    · simp only [Tbl.erase, h, if_false, Tbl.get?, ih]
      by_cases h1 : k = m
      · have : n ≠ m := fun e => h (by rw [h1, e])
        simp [h1, this]
      · simp [h1]

/-- Every value changed. -/
theorem Tbl.get?_map {β : Type} (t : Tbl α) (f : α → β) (n : Nat) : Tbl.get? (t.map fun x => (x.1, f x.2)) n = (t.get? n).map f := by
  induction t with
  | nil => rfl
  | cons x t ih =>
    obtain ⟨k, v⟩ := x
    show Tbl.get? ((k, f v) :: _) n = _
    unfold Tbl.get?
    split
    · rfl
    · exact ih

/-- What is looked up is listed. -/
theorem Tbl.mem_of_get? : ∀ (t : Tbl α) (k : Nat) (v : α), t.get? k = some v → (k, v) ∈ t
  | [], _, _, h => by cases h
  | (a, b) :: t, k, v, h => by
    unfold Tbl.get? at h
    split at h
    · rename_i e; cases h; subst e; simp
    · exact List.mem_cons_of_mem _ (Tbl.mem_of_get? t k v h)

end Sys2Proof.Machine
end

