-- ==== Sys2Proof/Laws/Strand.lean ====
section
/-! SUPPORT. Strands: registers after a write, what completing an instruction and taking a transfer change, and the look-ups of
strands, cores and contexts after an update. -/

namespace Sys2Proof.Machine

/-! ### Registers -/

@[simp] theorem Strand.g_zero (st : Strand) : st.g 0 = 0 := rfl

/-- A register read after a register written. -/
theorem Strand.g_setG (st : Strand) (d n : BitVec 5) (v : Dword) :
    (st.setG d v).g n = if n = 0 then 0 else if n = d then v else st.g n := by
  unfold Strand.g Strand.setG
  by_cases hn : n = 0
  · rw [if_pos hn, if_pos hn]
  · rw [if_neg hn, if_neg hn]
    by_cases hd : d = 0
    · have h : n ≠ d := by rw [hd]; exact hn
      rw [if_pos hd, if_neg h, if_neg hn]
    · rw [if_neg hd]
      by_cases h : n = d
      · subst h
        rw [if_pos rfl]
        exact Vector.getElem_set_self n.isLt
      · have h' : d.toNat ≠ n.toNat := fun e => h (BitVec.eq_of_toNat_eq e.symm)
        rw [if_neg h, if_neg hn]
        exact Vector.getElem_set_ne d.isLt n.isLt h'

theorem Strand.g_setG_self (st : Strand) (d : BitVec 5) (v : Dword) : (st.setG d v).g d = if d = 0 then 0 else v := by
  rw [Strand.g_setG]; simp

theorem Strand.g_setG_ne (st : Strand) (d n : BitVec 5) (v : Dword) (h : n ≠ d) : (st.setG d v).g n = st.g n := by
  rw [Strand.g_setG, if_neg h]
  by_cases hn : n = 0
  · rw [if_pos hn, hn]; rfl
  · rw [if_neg hn]

/-- g is a function of the registers alone. -/
theorem Strand.g_congr {st st' : Strand} (h : st'.regs = st.regs) (n : BitVec 5) : st'.g n = st.g n := by
  unfold Strand.g; rw [h]

theorem Strand.setG_eq (st : Strand) (d : BitVec 5) (v : Dword) :
    st.setG d v = { st with regs := (st.setG d v).regs, dmask := (st.setG d v).dmask } := by
  unfold Strand.setG; split <;> rfl

theorem Strand.setG_dmask (st : Strand) (d : BitVec 5) (v : Dword) :
    (st.setG d v).dmask = if d = 0 then st.dmask else st.dmask ||| (1 : Word) <<< d.toNat := by
  unfold Strand.setG; split <;> rfl

/-! ### Completion and transfers -/

/-- What completing changes: PC, loop state, a scout's budget, a walk's refusal. -/
theorem Strand.retire_eq (st : Strand) :
    st.retire = { st with pc := st.retire.pc, loop := st.retire.loop, budget := st.spend.budget, walkFault := none } := by
  unfold Strand.retire Strand.spend Strand.loopStep
  cases st.scout <;> simp only [if_true] <;> repeat' (first | rfl | split)

/-- What a taken transfer changes. -/
theorem Strand.jump_eq (st : Strand) (t : Dword) :
    st.jump t = { st with pc := t, loop := (st.jump t).loop, budget := st.spend.budget, walkFault := none } := by
  unfold Strand.jump Strand.spend
  cases st.scout <;> simp only [if_true] <;> repeat' (first | rfl | split)

theorem Strand.retire_g (st : Strand) (n : BitVec 5) : st.retire.g n = st.g n := by rw [Strand.retire_eq]; rfl

theorem Strand.jump_g (st : Strand) (t : Dword) (n : BitVec 5) : (st.jump t).g n = st.g n := by rw [Strand.jump_eq]; rfl

/-! ### Look-ups -/

@[simp] theorem State.strand_setStrand (s : State) (k : Nat) (st : Strand) : (s.setStrand k st).strand k = st := by
  simp [State.strand]

theorem State.strand_setStrand_ne (s : State) {k j : Nat} (st : Strand) (h : k ≠ j) :
    (s.setStrand k st).strand j = s.strand j := by
  simp only [State.strand, State.setStrand_strands]; exact Tbl.getD_set_ne _ _ _ h

@[simp] theorem State.setStrand_setStrand (s : State) (k : Nat) (a b : Strand) :
    (s.setStrand k a).setStrand k b = s.setStrand k b := by
  simp [State.setStrand]

@[simp] theorem State.core_setCore (s : State) (c : Nat) (x : CoreState) : (s.setCore c x).core c = x := by
  simp [State.core]

theorem State.core_setCore_ne (s : State) {c d : Nat} (x : CoreState) (h : c ≠ d) : (s.setCore c x).core d = s.core d := by
  simp only [State.core, State.setCore_cores]; exact Tbl.getD_set_ne _ _ _ h

@[simp] theorem State.core_modCore (s : State) (c : Nat) (f : CoreState → CoreState) : (s.modCore c f).core c = f (s.core c) :=
  State.core_setCore _ _ _

theorem State.core_modCore_ne (s : State) {c d : Nat} (f : CoreState → CoreState) (h : c ≠ d) :
    (s.modCore c f).core d = s.core d := State.core_setCore_ne _ _ h

@[simp] theorem State.ctx_setCtx (s : State) (c : Nat) (x : Ctx) : (s.setCtx c x).ctx c = x := by simp [State.ctx]

@[simp] theorem State.core_setStrand (s : State) (k : Nat) (st : Strand) (c : Nat) : (s.setStrand k st).core c = s.core c := rfl

@[simp] theorem State.ctx_setStrand (s : State) (k : Nat) (st : Strand) (c : Nat) : (s.setStrand k st).ctx c = s.ctx c := rfl

@[simp] theorem State.strand_setCore (s : State) (c : Nat) (x : CoreState) (k : Nat) : (s.setCore c x).strand k = s.strand k := rfl

@[simp] theorem State.strand_modCore (s : State) (c : Nat) (f : CoreState → CoreState) (k : Nat) :
    (s.modCore c f).strand k = s.strand k := rfl

@[simp] theorem State.meKey_setStrand (s : State) (k : Nat) (st : Strand) : (s.setStrand k st).meKey = s.meKey := rfl

@[simp] theorem State.meKey_modCore (s : State) (c : Nat) (f : CoreState → CoreState) : (s.modCore c f).meKey = s.meKey := rfl

@[simp] theorem State.meKey_setCore (s : State) (c : Nat) (x : CoreState) : (s.setCore c x).meKey = s.meKey := rfl

@[simp] theorem State.meKey_putMe (s : State) (st : Strand) : (s.putMe st).meKey = s.meKey := rfl

@[simp] theorem State.me_putMe (s : State) (st : Strand) : (s.putMe st).me = st := by
  simp [State.me, State.putMe]

@[simp] theorem State.me_modCore (s : State) (c : Nat) (f : CoreState → CoreState) : (s.modCore c f).me = s.me := rfl

@[simp] theorem State.me_setCore (s : State) (c : Nat) (x : CoreState) : (s.setCore c x).me = s.me := rfl

theorem State.onlyStrand_putMe (s : State) (st : Strand) : onlyStrand s.meKey s (s.putMe st) := by
  unfold onlyStrand State.putMe; simp

end Sys2Proof.Machine
end

