-- ==== Sys2Proof/Laws/Ops.lean ====
section
/-! SUPPORT. The shared operations of strand instructions: what each does, said once. -/

namespace Sys2Proof.Machine

/-- The loop step ends a repetition or an ordinary instruction (R326). -/
theorem Strand.loopStep_pc (q : Strand) :
    (q.loopStep q.pc (q.pc + 4)).pc
        = (if q.loop.lcnt ≠ 0 ∧ q.pc = q.loop.lend - 4 then (if q.loop.lcnt = 1 then q.loop.lend else q.loop.lbeg) else q.pc + 4)
      ∧ (q.loopStep q.pc (q.pc + 4)).loop
        = (if q.loop.lcnt ≠ 0 ∧ q.pc = q.loop.lend - 4 then { q.loop with lcnt := q.loop.lcnt - 1 } else q.loop) := by
  unfold Strand.loopStep
  split <;> exact ⟨rfl, rfl⟩

/-- The repetition and loop steps of a completion (R326). -/
theorem Strand.retire_advances (st : Strand) : st.advances st.retire := by
  have key : ∀ q : Strand, q.loop = st.loop → q.pc = st.pc →
      st.advances (if q.loop.rcnt ≠ 0 then
        (if q.loop.rcnt = 1 then
          Strand.loopStep { q with loop := { q.loop with rcnt := q.loop.rcnt - 1 } } q.pc (q.pc + 4)
        else { q with loop := { q.loop with rcnt := q.loop.rcnt - 1 } })
      else q.loopStep q.pc (q.pc + 4)) := by
    intro q e1 e2
    have hl := Strand.loopStep_pc q
    have hl' := Strand.loopStep_pc { q with loop := { q.loop with rcnt := q.loop.rcnt - 1 } }
    unfold Strand.advances
    by_cases h1 : 1 < st.loop.rcnt.toNat
    · have h2 : q.loop.rcnt ≠ 0 := fun h => by rw [e1] at h; simp [h] at h1
      have h3 : ¬q.loop.rcnt = 1 := fun h => by rw [e1] at h; simp [h] at h1
      rw [if_pos h1, if_pos h2, if_neg h3]
      exact ⟨e2, by rw [← e1]⟩
    · rw [if_neg h1]
      by_cases h2 : q.loop.rcnt = 0
      · have h3 : ¬q.loop.rcnt ≠ 0 := fun h => h h2
        rw [if_neg h3, hl.1, hl.2, ← e1, ← e2]
        have e3 : ({ q.loop with rcnt := 0 } : LoopState) = q.loop := by
          show LoopState.mk _ _ _ 0 = LoopState.mk _ _ _ q.loop.rcnt
          rw [h2]
        split
        · refine ⟨rfl, ?_⟩
          show LoopState.mk _ _ _ q.loop.rcnt = LoopState.mk _ _ _ 0
          rw [h2]
        · exact ⟨rfl, e3.symm⟩
      · have h3 : q.loop.rcnt = 1 := by
          apply BitVec.eq_of_toNat_eq
          have h5 : q.loop.rcnt.toNat ≠ 0 := fun h => h2 (BitVec.eq_of_toNat_eq h)
          rw [← e1] at h1
          show _ = 1
          omega
        have h4 : q.loop.rcnt ≠ 0 := h2
        rw [if_pos h4, if_pos h3]
        have e4 : q.loop.rcnt - 1 = 0 := by rw [h3]; rfl
        rw [e4] at hl' ⊢
        rw [← e1, ← e2]
        split
        · next h5 =>
          refine ⟨hl'.1.trans (if_pos h5), hl'.2.trans (if_pos h5)⟩
        · next h5 =>
          refine ⟨hl'.1.trans (if_neg h5), hl'.2.trans (if_neg h5)⟩
  exact key _ (by unfold Strand.spend; split <;> rfl) (by unfold Strand.spend; split <;> rfl)

theorem Strand.spend_spends (st : Strand) : st.spends { st with walkFault := none }.spend := by
  unfold Strand.spends Strand.spend; cases st.scout <;> rfl

theorem Strand.retire_spends (st : Strand) : st.spends st.retire := by
  rw [Strand.retire_eq]; unfold Strand.spends Strand.spend; cases st.scout <;> rfl

theorem Strand.retire_computes (st : Strand) : st.computes st.retire := by
  unfold Strand.computes; rw [Strand.retire_eq]

theorem Strand.jump_spends (st : Strand) (t : Dword) : st.spends (st.jump t) := by
  rw [Strand.jump_eq]; unfold Strand.spends Strand.spend; cases st.scout <;> rfl

/-- Completion after a register write: PC, loop and budget go as those of the strand before it. -/
theorem Strand.retire_setG (st : Strand) (d : BitVec 5) (v : Dword) :
    (st.setG d v).retire = { st.retire with regs := (st.setG d v).regs, dmask := (st.setG d v).dmask } := by
  rw [Strand.setG_eq]
  unfold Strand.retire Strand.spend Strand.loopStep
  cases st.scout <;> simp only [if_true] <;> repeat' (first | rfl | split)

/-- An instruction that completes with a result writes g(d) and nothing else. -/
theorem State.result_completes (s : State) (d : BitVec 5) (v : Dword) : Completes s (s.result d v) d v := by
  have hme : (s.result d v).me = (s.me.setG d v).retire := State.me_putMe _ _
  have hr := Strand.retire_setG s.me d v
  refine ⟨?_, ?_, ?_, ?_, ?_, ?_, State.onlyStrand_putMe _ _⟩
  · rw [hme, Strand.retire_g, Strand.g_setG_self]
  · intro n hn; rw [hme, Strand.retire_g, Strand.g_setG_ne _ _ _ _ hn]
  · unfold Strand.dirties; rw [hme, hr]; exact Strand.setG_dmask _ _ _
  · rw [hme, hr]; exact Strand.retire_advances s.me
  · rw [hme, hr]; exact Strand.retire_spends s.me
  · rw [hme, hr, Strand.retire_eq]; rfl

/-- An instruction that completes with no result. -/
theorem State.done_passes (s : State) : Passes s s.done := by
  have hme : s.done.me = s.me.retire := State.me_putMe _ _
  refine ⟨?_, ?_, ?_, ?_, ?_, State.onlyStrand_putMe _ _⟩
  · rw [hme, Strand.retire_eq]
  · rw [hme, Strand.retire_eq]
  · rw [hme]; exact Strand.retire_advances s.me
  · rw [hme]; exact Strand.retire_spends s.me
  · rw [hme]; exact Strand.retire_computes s.me

/-- A taken transfer. -/
theorem State.jump_transfers (s : State) (target : Dword) : Transfers s (s.putMe (s.me.jump target)) target := by
  refine ⟨?_, ?_, ?_, ?_, State.onlyStrand_putMe _ _⟩
  · rw [State.me_putMe, Strand.jump_eq]
  · rw [State.me_putMe]
    have e1 : ({ s.me with walkFault := none } : Strand).spend.loop = s.me.loop := by unfold Strand.spend; split <;> rfl
    unfold Strand.jump
    simp only [e1]
    split <;> rfl
  · rw [State.me_putMe]; exact Strand.jump_spends _ _
  · rw [State.me_putMe, Strand.jump_eq]; rfl

/-- A fault of a strand with a handler enters it. -/
theorem State.fault_enters (s : State) (code : Nat) (v : Dword) (h : s.me.handles) :
    Enters s (s.fault code v) (BitVec.ofNat 8 code) v := by
  have hd : s.me.delivers = true := by
    obtain ⟨h1, h2, h3⟩ := h
    unfold Strand.delivers field
    rw [h1, h2]
    have : s.me.tvec.toNat / 2 ^ 2 % 2 ^ 54 ≠ 0 := by omega
    simpa using this
  have he : s.fault code v = s.putMe (s.me.enter code v) := by
    unfold State.fault State.takeTrap State.putMe; rw [hd]; rfl
  rw [he]
  have hepc : (s.me.enter code v).epc = BitVec.ofNat 64 (s.me.pc.toNat % 2 ^ 56 / 4 * 4) := by
    have : field s.me.pc.toNat 55 2 * 4 = s.me.pc.toNat % 2 ^ 56 / 4 * 4 := by unfold field; omega
    rw [← this]; rfl
  refine ⟨?_, ?_, ?_, ?_, ?_, ?_, ?_, ?_, State.onlyStrand_putMe _ _⟩ <;> rw [State.me_putMe]
  · rfl
  · rfl
  · rfl
  · rfl
  · exact hepc
  · rfl
  · rfl
  · rfl

/-- What a deposit that is not ready at once does: the strand recorded, its record written, the rest as before. -/
theorem State.deposit_spec (s : State) (k : Nat) (st : Strand) (d : Deposit) (h : d.y = false) :
    ∃ r, s.deposit k st d = (s.setStrand k { st with place := .recorded }).setRecord k r ∧ r.dest = d.dest ∧ r.tag = d.tag
      ∧ r.space = d.space ∧ r.ready = false ∧ r.wait = d.wait ∧ r.act = d.act ∧ r.pc = st.pc ∧ r.retry = d.retry
      ∧ r.dmask = st.dmask := by
  refine ⟨({ s.recordOf st d with ownLoop := if st.sys then st.frame else (s.strand k).loop } : Record).sealed, ?_, ?_⟩
  · unfold State.deposit; rw [h]; rfl
  · exact ⟨rfl, rfl, rfl, h, rfl, rfl, rfl, rfl, rfl⟩

/-- A suspension: what it asks is asked of the machine with the strand recorded. -/
theorem State.suspend_spec (s : State) (d : BitVec 5) (tag : BitVec 16) (wait : WaitFor) (act : OnResume)
    (ask : State → BitVec 16 → State) (h : CanSuspend s tag) :
    ∃ s1, s.suspend s.me d wait act ask = ask s1 tag ∧ Suspended s s1 d tag wait act
      ∧ s1.cores = s.cores.set s.me.core { s.core s.me.core with suspCtr := tag + 1 }
      ∧ s1 = { s with cores := s1.cores, strands := s1.strands, records := s1.records } := by
  obtain ⟨h1, h2⟩ := h
  obtain ⟨p, hp⟩ := Option.isSome_iff_exists.mp h1
  let dep : Deposit :=
    { kind := if s.me.scout then .scout else .resume, space := 2, tag := tag, dest := d, wait := wait, act := act,
      ownPc := s.me.pc, place := p }
  obtain ⟨r, hr, hf⟩ := State.deposit_spec (s.modCore s.me.core fun c => { c with suspCtr := tag + 1 }) s.meKey s.me.retire dep rfl
  refine ⟨(s.modCore s.me.core fun c => { c with suspCtr := tag + 1 }).deposit s.meKey s.me.retire dep, ?_, ?_, ?_, ?_⟩
  · unfold State.suspend; rw [hp, h2]
  · rw [hr]
    refine ⟨State.strand_setStrand _ _ _, ⟨r, ?_, hf.1, hf.2.1, hf.2.2.1, hf.2.2.2.1, hf.2.2.2.2.1, hf.2.2.2.2.2.1,
      hf.2.2.2.2.2.2.1, hf.2.2.2.2.2.2.2.1, ?_⟩, fun k hk => ⟨?_, ?_⟩, rfl⟩
    · exact Tbl.get?_set_self _ _ _
    · rw [hf.2.2.2.2.2.2.2.2, Strand.retire_eq]
    · exact State.strand_setStrand_ne _ _ (Ne.symm hk)
    · exact Tbl.get?_set_ne _ _ (Ne.symm hk)
  · rw [hr]; rfl
  · rw [hr]; rfl

/-- A retry: the record resumes at the instruction itself. -/
theorem State.retry_spec (s : State) (tag : BitVec 16) (wait : WaitFor) (ask : State → BitVec 16 → State)
    (h : CanSuspend s tag) :
    ∃ s1, s.retry wait ask = ask s1 tag ∧ Retried s s1 tag wait
      ∧ s1.cores = s.cores.set s.me.core { s.core s.me.core with suspCtr := tag + 1 }
      ∧ s1 = { s with cores := s1.cores, strands := s1.strands, records := s1.records } := by
  obtain ⟨h1, h2⟩ := h
  obtain ⟨p, hp⟩ := Option.isSome_iff_exists.mp h1
  let dep : Deposit :=
    { kind := if s.me.scout then .scout else .resume, space := 2, tag := tag, wait := wait, ownPc := s.me.pc, retry := true,
      place := p }
  obtain ⟨r, hr, hf⟩ := State.deposit_spec (s.modCore s.me.core fun c => { c with suspCtr := tag + 1 }) s.meKey s.me dep rfl
  refine ⟨(s.modCore s.me.core fun c => { c with suspCtr := tag + 1 }).deposit s.meKey s.me dep, ?_, ?_, ?_, ?_⟩
  · unfold State.retry; simp only [hp, h2]; rfl
  · rw [hr]
    refine ⟨State.strand_setStrand _ _ _, ⟨r, ?_, hf.2.1, hf.2.2.1, hf.2.2.2.1, hf.2.2.2.2.1, hf.2.2.2.2.2.2.1,
      hf.2.2.2.2.2.2.2.1⟩, fun k hk => ⟨?_, ?_⟩, rfl⟩
    · exact Tbl.get?_set_self _ _ _
    · exact State.strand_setStrand_ne _ _ (Ne.symm hk)
    · exact Tbl.get?_set_ne _ _ (Ne.symm hk)
  · rw [hr]; rfl
  · rw [hr]; rfl

end Sys2Proof.Machine
end

