-- ==== Sys2Proof/Laws/PerInstr.lean ====
section
/-! SUPPORT. One lemma per instruction: what its encoding is made of. An instruction is a word of at most one layer (R5); the
fields of a well-formed strand instruction decode to it (R24 to R37), and the op code of an element word or of a stream command,
with its fields, gives it back (R40, R44). -/

namespace Sys2Proof.Laws.Coded

/-- The layer of an instruction, and what its fields or its op code stand for. -/
def Statement (i : Instr) : Prop :=
  (∀ f, encodeFields i = some f → elemOp i = none ∧ cmdOp i = none ∧ (WellFormed i = true → decodeFields f = .ok i))
    ∧ (∀ op e, elemOp i = some (op, e) → encodeFields i = none ∧ cmdOp i = none ∧ mkElem op.toNat e = some i
        ∧ (WellFormed i = true → e.k = false → e.konst = 0))
    ∧ (∀ op c, cmdOp i = some (op, c) → encodeFields i = none ∧ elemOp i = none ∧ (WellFormed i = true → mkCmd op.toNat c = some i))

/-! ### The shapes of the proofs -/

theorem strandCase {i : Instr} {f : Fields} (h : encodeFields i = some f) (h1 : elemOp i = none) (h2 : cmdOp i = none)
    (h3 : WellFormed i = true → decodeFields f = .ok i) : Statement i := by
  refine ⟨fun g hg => ⟨h1, h2, ?_⟩, fun _ _ he => ?_, fun _ _ hc => ?_⟩
  · rw [h] at hg; cases hg; exact h3
  · rw [h1] at he; cases he
  · rw [h2] at hc; cases hc

/-- An element word without a constant word holds 0 for it (R39). -/
theorem elemOk_konst (e : EWord) (s : ElemSpec) (h : elemOk e s = true) (hk : e.k = false) : e.konst = 0 := by
  unfold elemOk at h
  simp only [Bool.and_eq_true, Bool.or_eq_true, beq_iff_eq] at h
  rcases h.1.1.1.2 with h | h
  · rw [hk] at h; cases h
  · exact h

theorem elemCase {i : Instr} {op : BitVec 8} {e : EWord} (h : elemOp i = some (op, e)) (h1 : encodeFields i = none)
    (h2 : cmdOp i = none) (h3 : mkElem op.toNat e = some i) (h4 : ∃ s, WellFormed i = elemOk e s) : Statement i := by
  obtain ⟨s, h4⟩ := h4
  refine ⟨fun _ hf => ?_, fun _ _ he => ⟨h1, h2, ?_, ?_⟩, fun _ _ hc => ?_⟩
  · rw [h1] at hf; cases hf
  · rw [h] at he; cases he; exact h3
  · rw [h] at he; cases he; rw [h4]; exact elemOk_konst _ s
  · rw [h2] at hc; cases hc

theorem cmdCase {i : Instr} {op : BitVec 8} {c : Cmd} (h : cmdOp i = some (op, c)) (h1 : encodeFields i = none)
    (h2 : elemOp i = none) (h3 : WellFormed i = true → mkCmd op.toNat c = some i) : Statement i := by
  refine ⟨fun _ hf => ?_, fun _ _ he => ?_, fun _ _ hc => ⟨h1, h2, ?_⟩⟩
  · rw [h1] at hf; cases hf
  · rw [h2] at he; cases he
  · rw [h] at hc; cases hc; exact h3

theorem eventCase {i : Instr} (h : encodeFields i = none) (h1 : elemOp i = none) (h2 : cmdOp i = none) : Statement i := by
  refine ⟨fun _ hf => ?_, fun _ _ he => ?_, fun _ _ hc => ?_⟩
  · rw [h] at hf; cases hf
  · rw [h1] at he; cases he
  · rw [h2] at hc; cases hc

/-- A 16-bit immediate is its two fields (R24). -/
theorem imm_fields (major : BitVec 6) (d a : BitVec 5) (v : BitVec 16) :
    Fields.imm ⟨major, d, a, v.extractLsb' 11 5, v.extractLsb' 0 11⟩ = v := by
  apply BitVec.eq_of_getLsbD_eq
  intro j hj
  unfold Fields.imm
  rw [BitVec.getLsbD_append, BitVec.getLsbD_extractLsb', BitVec.getLsbD_extractLsb']
  split
  · simp_all
  · rw [show 11 + (j - 11) = j by omega]; simp [show j - 11 < 5 by omega]

/-- A 21-bit offset is its three fields (R24). -/
theorem off_fields (major : BitVec 6) (d : BitVec 5) (v : BitVec 21) :
    Fields.off21 ⟨major, d, v.extractLsb' 16 5, v.extractLsb' 11 5, v.extractLsb' 0 11⟩ = v := by
  apply BitVec.eq_of_getLsbD_eq
  intro j hj
  unfold Fields.off21
  rw [BitVec.getLsbD_append, BitVec.getLsbD_append, BitVec.getLsbD_extractLsb', BitVec.getLsbD_extractLsb', BitVec.getLsbD_extractLsb']
  split
  · simp_all
  · rw [show 11 + (j - 11) = j by omega]
    split
    · simp_all
    · rw [show 16 + (j - 11 - 5) = j by omega]; simp [show j - 11 - 5 < 5 by omega]

theorem extract_low {m n : Nat} (x : BitVec m) (y : BitVec n) (lo len : Nat) (h : lo + len ≤ n) :
    (x ++ y).extractLsb' lo len = y.extractLsb' lo len := by
  apply BitVec.eq_of_getLsbD_eq
  intro j hj
  rw [BitVec.getLsbD_extractLsb', BitVec.getLsbD_extractLsb', BitVec.getLsbD_append]
  simp [show lo + j < n by omega]

theorem extract_high {m n : Nat} (x : BitVec m) (y : BitVec n) (lo len : Nat) (h : n ≤ lo) :
    (x ++ y).extractLsb' lo len = x.extractLsb' (lo - n) len := by
  apply BitVec.eq_of_getLsbD_eq
  intro j hj
  rw [BitVec.getLsbD_extractLsb', BitVec.getLsbD_extractLsb', BitVec.getLsbD_append]
  simp [show ¬lo + j < n by omega, show lo + j - n = lo - n + j by omega]

theorem extract_all {n : Nat} (x : BitVec n) : x.extractLsb' 0 n = x := by
  apply BitVec.eq_of_getLsbD_eq
  intro j hj
  simp [hj]

/-- A word of format I or B whose form takes the immediate whole. -/
theorem immCase {i : Instr} (major : BitVec 6) (d a : BitVec 5) (v : BitVec 16) (k : BitVec 16 → Except DecodeError Instr)
    (h1 : ∀ f : Fields, f.major = major → f.d = d → f.a = a → decodeFields f = k f.imm) (h2 : k v = .ok i) :
    decodeFields ⟨major, d, a, v.extractLsb' 11 5, v.extractLsb' 0 11⟩ = .ok i := by
  rw [h1 _ rfl rfl rfl, imm_fields, h2]

theorem atom_fields (scope : BitVec 2) (size : BitVec 1) (op : BitVec 4) :
    (0#4 ++ scope ++ size ++ op).extractLsb' 7 4 = 0 ∧ (0#4 ++ scope ++ size ++ op).extractLsb' 5 2 = scope
      ∧ (0#4 ++ scope ++ size ++ op).extractLsb' 4 1 = size ∧ (0#4 ++ scope ++ size ++ op).extractLsb' 0 4 = op := by
  revert scope size op; decide

theorem fp_fields (rm : BitVec 3) (fmt : BitVec 1) (op : BitVec 5) :
    (0#2 ++ rm ++ fmt ++ op).extractLsb' 9 2 = 0 ∧ (0#2 ++ rm ++ fmt ++ op).extractLsb' 6 3 = rm
      ∧ (0#2 ++ rm ++ fmt ++ op).extractLsb' 5 1 = fmt ∧ (0#2 ++ rm ++ fmt ++ op).extractLsb' 0 5 = op := by
  refine ⟨?_, ?_, ?_, ?_⟩
  · rw [extract_high _ _ _ _ (by decide), extract_high _ _ _ _ (by decide), extract_high _ _ _ _ (by decide)]; rfl
  · rw [extract_high _ _ _ _ (by decide), extract_high _ _ _ _ (by decide), extract_low _ _ _ _ (by decide)]; exact extract_all _
  · rw [extract_high _ _ _ _ (by decide), extract_low _ _ _ _ (by decide)]; exact extract_all _
  · rw [extract_low _ _ _ _ (by decide)]; exact extract_all _

theorem sys_fields (sub : BitVec 4) (n : BitVec 12) : (sub ++ n).extractLsb' 12 4 = sub ∧ (sub ++ n).extractLsb' 0 12 = n :=
  ⟨(extract_high _ _ _ _ (by decide)).trans (extract_all _), (extract_low _ _ _ _ (by decide)).trans (extract_all _)⟩

theorem port_fields (p : BitVec 4) : (0#1 ++ p).extractLsb' 4 1 = 0 ∧ (0#1 ++ p).extractLsb' 0 4 = p := by
  revert p; decide

theorem fence_fields (kind scope : BitVec 2) : (0#7 ++ kind ++ scope).extractLsb' 4 7 = 0
    ∧ (0#7 ++ kind ++ scope).extractLsb' 2 2 = kind ∧ (0#7 ++ kind ++ scope).extractLsb' 0 2 = scope := by
  revert kind scope; decide

theorem shift_fields (kind : BitVec 2) (n : BitVec 6) : (0#8 ++ kind ++ n).extractLsb' 8 8 = 0
    ∧ (0#8 ++ kind ++ n).extractLsb' 6 2 = kind ∧ (0#8 ++ kind ++ n).extractLsb' 0 6 = n := by
  revert kind n; decide

/-- The ATOM group. -/
theorem atomCase {i : Instr} (d a b : BitVec 5) (scope : BitVec 2) (size : BitVec 1) (op : BitVec 4)
    (h : ∀ f : Fields, f.d = d → f.a = a → f.b = b → f.fn.extractLsb' 7 4 = 0 → f.fn.extractLsb' 5 2 = scope → f.fn.extractLsb' 4 1 = size →
      f.fn.extractLsb' 0 4 = op → decodeAtom f = .ok i) :
    decodeFields ⟨0x20, d, a, b, 0#4 ++ scope ++ size ++ op⟩ = .ok i :=
  let x := atom_fields scope size op
  h _ rfl rfl rfl x.1 x.2.1 x.2.2.1 x.2.2.2

/-- The FP group. -/
theorem fpCase {i : Instr} (d a b : BitVec 5) (rm : BitVec 3) (fmt : BitVec 1) (op : BitVec 5)
    (h : ∀ f : Fields, f.d = d → f.a = a → f.b = b → f.fn.extractLsb' 9 2 = 0 → f.fn.extractLsb' 6 3 = rm → f.fn.extractLsb' 5 1 = fmt →
      f.fn.extractLsb' 0 5 = op → decodeFp f = .ok i) :
    decodeFields ⟨0x2D, d, a, b, 0#2 ++ rm ++ fmt ++ op⟩ = .ok i :=
  let x := fp_fields rm fmt op
  h _ rfl rfl rfl x.1 x.2.1 x.2.2.1 x.2.2.2

/-- The SYS group. -/
theorem sysCase {i : Instr} (d a : BitVec 5) (sub : BitVec 4) (n : BitVec 12)
    (h : ∀ f : Fields, f.d = d → f.a = a → f.imm.extractLsb' 12 4 = sub → f.imm.extractLsb' 0 12 = n → decodeSys f = .ok i) :
    decodeFields ⟨0x3E, d, a, (sub ++ n).extractLsb' 11 5, (sub ++ n).extractLsb' 0 11⟩ = .ok i :=
  let x := sys_fields sub n
  let e := imm_fields 0x3E d a (sub ++ n)
  h _ rfl rfl ((congrArg (·.extractLsb' 12 4) e).trans x.1) ((congrArg (·.extractLsb' 0 12) e).trans x.2)

/-- A word of format I whose form reads parts of the immediate. -/
theorem partsCase {i : Instr} (major : BitVec 6) (d a : BitVec 5) (v : BitVec 16)
    (h : ∀ f : Fields, f.major = major → f.d = d → f.a = a → f.imm = v → decodeFields f = .ok i) :
    decodeFields ⟨major, d, a, v.extractLsb' 11 5, v.extractLsb' 0 11⟩ = .ok i := h _ rfl rfl rfl (imm_fields major d a v)

/-- The PORT group. -/
theorem portCase {i : Instr} (d a : BitVec 5) (p : BitVec 4) (fn : BitVec 11)
    (h : ∀ f : Fields, f.d = d → f.a = a → f.b.extractLsb' 4 1 = 0 → f.b.extractLsb' 0 4 = p → f.fn = fn → decodePort f = .ok i) :
    decodeFields ⟨0x29, d, a, 0#1 ++ p, fn⟩ = .ok i :=
  let x := port_fields p
  h _ rfl rfl x.1 x.2 rfl

/-- The ordering group. -/
theorem fenceCase {i : Instr} (kind scope : BitVec 2)
    (h : ∀ f : Fields, f.d = 0 → f.a = 0 → f.b = 0 → f.fn.extractLsb' 4 7 = 0 → f.fn.extractLsb' 2 2 = kind → f.fn.extractLsb' 0 2 = scope →
      decodeFence f = .ok i) :
    decodeFields ⟨0x21, 0, 0, 0, 0#7 ++ kind ++ scope⟩ = .ok i :=
  let x := fence_fields kind scope
  h _ rfl rfl rfl x.1 x.2.1 x.2.2

/-! ### The lemmas -/

theorem add (d : BitVec 5) (a : BitVec 5) (b : BitVec 5) : Statement (.add d a b) := strandCase rfl rfl rfl fun _ => rfl
theorem sub (d : BitVec 5) (a : BitVec 5) (b : BitVec 5) : Statement (.sub d a b) := strandCase rfl rfl rfl fun _ => rfl
theorem and (d : BitVec 5) (a : BitVec 5) (b : BitVec 5) : Statement (.and d a b) := strandCase rfl rfl rfl fun _ => rfl
theorem or (d : BitVec 5) (a : BitVec 5) (b : BitVec 5) : Statement (.or d a b) := strandCase rfl rfl rfl fun _ => rfl
theorem xor (d : BitVec 5) (a : BitVec 5) (b : BitVec 5) : Statement (.xor d a b) := strandCase rfl rfl rfl fun _ => rfl
theorem shl (d : BitVec 5) (a : BitVec 5) (b : BitVec 5) : Statement (.shl d a b) := strandCase rfl rfl rfl fun _ => rfl
theorem shr (d : BitVec 5) (a : BitVec 5) (b : BitVec 5) : Statement (.shr d a b) := strandCase rfl rfl rfl fun _ => rfl
theorem sra (d : BitVec 5) (a : BitVec 5) (b : BitVec 5) : Statement (.sra d a b) := strandCase rfl rfl rfl fun _ => rfl
theorem mul (d : BitVec 5) (a : BitVec 5) (b : BitVec 5) : Statement (.mul d a b) := strandCase rfl rfl rfl fun _ => rfl
theorem mulh (d : BitVec 5) (a : BitVec 5) (b : BitVec 5) : Statement (.mulh d a b) := strandCase rfl rfl rfl fun _ => rfl
theorem mulhu (d : BitVec 5) (a : BitVec 5) (b : BitVec 5) : Statement (.mulhu d a b) := strandCase rfl rfl rfl fun _ => rfl
theorem div (d : BitVec 5) (a : BitVec 5) (b : BitVec 5) : Statement (.div d a b) := strandCase rfl rfl rfl fun _ => rfl
theorem divu (d : BitVec 5) (a : BitVec 5) (b : BitVec 5) : Statement (.divu d a b) := strandCase rfl rfl rfl fun _ => rfl
theorem rem (d : BitVec 5) (a : BitVec 5) (b : BitVec 5) : Statement (.rem d a b) := strandCase rfl rfl rfl fun _ => rfl
theorem remu (d : BitVec 5) (a : BitVec 5) (b : BitVec 5) : Statement (.remu d a b) := strandCase rfl rfl rfl fun _ => rfl
theorem min (d : BitVec 5) (a : BitVec 5) (b : BitVec 5) : Statement (.min d a b) := strandCase rfl rfl rfl fun _ => rfl
theorem max (d : BitVec 5) (a : BitVec 5) (b : BitVec 5) : Statement (.max d a b) := strandCase rfl rfl rfl fun _ => rfl
theorem minu (d : BitVec 5) (a : BitVec 5) (b : BitVec 5) : Statement (.minu d a b) := strandCase rfl rfl rfl fun _ => rfl
theorem maxu (d : BitVec 5) (a : BitVec 5) (b : BitVec 5) : Statement (.maxu d a b) := strandCase rfl rfl rfl fun _ => rfl
theorem slt (d : BitVec 5) (a : BitVec 5) (b : BitVec 5) : Statement (.slt d a b) := strandCase rfl rfl rfl fun _ => rfl
theorem sltu (d : BitVec 5) (a : BitVec 5) (b : BitVec 5) : Statement (.sltu d a b) := strandCase rfl rfl rfl fun _ => rfl
theorem clz (d : BitVec 5) (a : BitVec 5) : Statement (.clz d a) := strandCase rfl rfl rfl fun _ => rfl
theorem popc (d : BitVec 5) (a : BitVec 5) : Statement (.popc d a) := strandCase rfl rfl rfl fun _ => rfl
theorem addW (d : BitVec 5) (a : BitVec 5) (b : BitVec 5) : Statement (.addW d a b) := strandCase rfl rfl rfl fun _ => rfl
theorem subW (d : BitVec 5) (a : BitVec 5) (b : BitVec 5) : Statement (.subW d a b) := strandCase rfl rfl rfl fun _ => rfl
theorem andW (d : BitVec 5) (a : BitVec 5) (b : BitVec 5) : Statement (.andW d a b) := strandCase rfl rfl rfl fun _ => rfl
theorem orW (d : BitVec 5) (a : BitVec 5) (b : BitVec 5) : Statement (.orW d a b) := strandCase rfl rfl rfl fun _ => rfl
theorem xorW (d : BitVec 5) (a : BitVec 5) (b : BitVec 5) : Statement (.xorW d a b) := strandCase rfl rfl rfl fun _ => rfl
theorem shlW (d : BitVec 5) (a : BitVec 5) (b : BitVec 5) : Statement (.shlW d a b) := strandCase rfl rfl rfl fun _ => rfl
theorem shrW (d : BitVec 5) (a : BitVec 5) (b : BitVec 5) : Statement (.shrW d a b) := strandCase rfl rfl rfl fun _ => rfl
theorem sraW (d : BitVec 5) (a : BitVec 5) (b : BitVec 5) : Statement (.sraW d a b) := strandCase rfl rfl rfl fun _ => rfl
theorem mulW (d : BitVec 5) (a : BitVec 5) (b : BitVec 5) : Statement (.mulW d a b) := strandCase rfl rfl rfl fun _ => rfl
theorem addi (d : BitVec 5) (a : BitVec 5) (imm : BitVec 16) : Statement (.addi d a imm) := strandCase rfl rfl rfl fun _ =>
  immCase _ d a imm (fun v => .ok (.addi d a v)) (fun f h1 h2 h3 => by cases f; subst h1 h2 h3; rfl) rfl
theorem andi (d : BitVec 5) (a : BitVec 5) (imm : BitVec 16) : Statement (.andi d a imm) := strandCase rfl rfl rfl fun _ =>
  immCase _ d a imm (fun v => .ok (.andi d a v)) (fun f h1 h2 h3 => by cases f; subst h1 h2 h3; rfl) rfl
theorem ori (d : BitVec 5) (a : BitVec 5) (imm : BitVec 16) : Statement (.ori d a imm) := strandCase rfl rfl rfl fun _ =>
  immCase _ d a imm (fun v => .ok (.ori d a v)) (fun f h1 h2 h3 => by cases f; subst h1 h2 h3; rfl) rfl
theorem xori (d : BitVec 5) (a : BitVec 5) (imm : BitVec 16) : Statement (.xori d a imm) := strandCase rfl rfl rfl fun _ =>
  immCase _ d a imm (fun v => .ok (.xori d a v)) (fun f h1 h2 h3 => by cases f; subst h1 h2 h3; rfl) rfl
theorem shli (d : BitVec 5) (a : BitVec 5) (amount : BitVec 6) : Statement (.shli d a amount) := strandCase rfl rfl rfl fun _ =>
  partsCase 0x05 d a _ fun f h h1 h2 h3 => by
    have x := shift_fields 0#2 amount
    rw [← h3] at x
    unfold decodeFields; rw [h]; show decodeShi f = _; unfold decodeShi; dsimp only; rw [h1, h2, x.1, x.2.1, x.2.2]; rfl
theorem shri (d : BitVec 5) (a : BitVec 5) (amount : BitVec 6) : Statement (.shri d a amount) := strandCase rfl rfl rfl fun _ =>
  partsCase 0x05 d a _ fun f h h1 h2 h3 => by
    have x := shift_fields 1#2 amount
    rw [← h3] at x
    unfold decodeFields; rw [h]; show decodeShi f = _; unfold decodeShi; dsimp only; rw [h1, h2, x.1, x.2.1, x.2.2]; rfl
theorem srai (d : BitVec 5) (a : BitVec 5) (amount : BitVec 6) : Statement (.srai d a amount) := strandCase rfl rfl rfl fun _ =>
  partsCase 0x05 d a _ fun f h h1 h2 h3 => by
    have x := shift_fields 2#2 amount
    rw [← h3] at x
    unfold decodeFields; rw [h]; show decodeShi f = _; unfold decodeShi; dsimp only; rw [h1, h2, x.1, x.2.1, x.2.2]; rfl
theorem slti (d : BitVec 5) (a : BitVec 5) (imm : BitVec 16) : Statement (.slti d a imm) := strandCase rfl rfl rfl fun _ =>
  immCase _ d a imm (fun v => .ok (.slti d a v)) (fun f h1 h2 h3 => by cases f; subst h1 h2 h3; rfl) rfl
theorem sltiu (d : BitVec 5) (a : BitVec 5) (imm : BitVec 16) : Statement (.sltiu d a imm) := strandCase rfl rfl rfl fun _ =>
  immCase _ d a imm (fun v => .ok (.sltiu d a v)) (fun f h1 h2 h3 => by cases f; subst h1 h2 h3; rfl) rfl
theorem lih (d : BitVec 5) (a : BitVec 5) (imm : BitVec 16) : Statement (.lih d a imm) := strandCase rfl rfl rfl fun _ =>
  immCase _ d a imm (fun v => .ok (.lih d a v)) (fun f h1 h2 h3 => by cases f; subst h1 h2 h3; rfl) rfl
theorem addpc (d : BitVec 5) (imm : BitVec 16) : Statement (.addpc d imm) := strandCase rfl rfl rfl fun _ =>
  immCase _ d 0 imm (fun v => .ok (.addpc d v)) (fun f h1 h2 h3 => by cases f; subst h1 h2 h3; rfl) rfl
theorem jal (d : BitVec 5) (off : BitVec 21) : Statement (.jal d off) := strandCase rfl rfl rfl fun _ =>
  congrArg (fun v => Except.ok (Instr.jal d v)) (off_fields 0x0A d off)
theorem jalr (d : BitVec 5) (a : BitVec 5) (imm : BitVec 16) : Statement (.jalr d a imm) := strandCase rfl rfl rfl fun _ =>
  immCase _ d a imm (fun v => .ok (.jalr d a v)) (fun f h1 h2 h3 => by cases f; subst h1 h2 h3; rfl) rfl
theorem beq (a : BitVec 5) (b : BitVec 5) (off : BitVec 16) : Statement (.beq a b off) := strandCase rfl rfl rfl fun _ =>
  immCase _ a b off (fun v => .ok (.beq a b v)) (fun f h1 h2 h3 => by cases f; subst h1 h2 h3; rfl) rfl
theorem bne (a : BitVec 5) (b : BitVec 5) (off : BitVec 16) : Statement (.bne a b off) := strandCase rfl rfl rfl fun _ =>
  immCase _ a b off (fun v => .ok (.bne a b v)) (fun f h1 h2 h3 => by cases f; subst h1 h2 h3; rfl) rfl
theorem blt (a : BitVec 5) (b : BitVec 5) (off : BitVec 16) : Statement (.blt a b off) := strandCase rfl rfl rfl fun _ =>
  immCase _ a b off (fun v => .ok (.blt a b v)) (fun f h1 h2 h3 => by cases f; subst h1 h2 h3; rfl) rfl
theorem bge (a : BitVec 5) (b : BitVec 5) (off : BitVec 16) : Statement (.bge a b off) := strandCase rfl rfl rfl fun _ =>
  immCase _ a b off (fun v => .ok (.bge a b v)) (fun f h1 h2 h3 => by cases f; subst h1 h2 h3; rfl) rfl
theorem bltu (a : BitVec 5) (b : BitVec 5) (off : BitVec 16) : Statement (.bltu a b off) := strandCase rfl rfl rfl fun _ =>
  immCase _ a b off (fun v => .ok (.bltu a b v)) (fun f h1 h2 h3 => by cases f; subst h1 h2 h3; rfl) rfl
theorem bgeu (a : BitVec 5) (b : BitVec 5) (off : BitVec 16) : Statement (.bgeu a b off) := strandCase rfl rfl rfl fun _ =>
  immCase _ a b off (fun v => .ok (.bgeu a b v)) (fun f h1 h2 h3 => by cases f; subst h1 h2 h3; rfl) rfl
theorem loop (a : BitVec 5) (len : BitVec 12) : Statement (.loop a len) := strandCase rfl rfl rfl fun w =>
  partsCase 0x12 0 a _ fun f h h1 h2 h3 => by
    have x := sys_fields 0#4 len
    rw [← h3] at x
    unfold decodeFields; rw [h]; show decodeLoop f = _; unfold decodeLoop; dsimp only; rw [h1, h2, x.1, x.2]; exact if_pos w
theorem rep (a : BitVec 5) : Statement (.rep a) := strandCase rfl rfl rfl fun w =>
  partsCase 0x13 0 a 0 fun f h h1 h2 h3 => by
    unfold decodeFields; rw [h]; show decodeRep f = _; unfold decodeRep; rw [h1, h2, h3]
    have w : (a != 0) = true := w
    have w : (a == 0) = false := by simpa [bne] using w
    rw [w]; rfl
theorem repImm (count : BitVec 12) : Statement (.repImm count) := strandCase rfl rfl rfl fun _ =>
  partsCase 0x13 0 0 _ fun f h h1 h2 h3 => by
    have x := sys_fields 0#4 count
    rw [← h3] at x
    unfold decodeFields; rw [h]; show decodeRep f = _; unfold decodeRep; rw [h1, h2, x.1, x.2]; rfl
theorem ldb (d : BitVec 5) (a : BitVec 5) (imm : BitVec 16) : Statement (.ldb d a imm) := strandCase rfl rfl rfl fun _ =>
  immCase _ d a imm (fun v => .ok (.ldb d a v)) (fun f h1 h2 h3 => by cases f; subst h1 h2 h3; rfl) rfl
theorem ldbu (d : BitVec 5) (a : BitVec 5) (imm : BitVec 16) : Statement (.ldbu d a imm) := strandCase rfl rfl rfl fun _ =>
  immCase _ d a imm (fun v => .ok (.ldbu d a v)) (fun f h1 h2 h3 => by cases f; subst h1 h2 h3; rfl) rfl
theorem ldh (d : BitVec 5) (a : BitVec 5) (imm : BitVec 16) : Statement (.ldh d a imm) := strandCase rfl rfl rfl fun _ =>
  immCase _ d a imm (fun v => .ok (.ldh d a v)) (fun f h1 h2 h3 => by cases f; subst h1 h2 h3; rfl) rfl
theorem ldhu (d : BitVec 5) (a : BitVec 5) (imm : BitVec 16) : Statement (.ldhu d a imm) := strandCase rfl rfl rfl fun _ =>
  immCase _ d a imm (fun v => .ok (.ldhu d a v)) (fun f h1 h2 h3 => by cases f; subst h1 h2 h3; rfl) rfl
theorem ldw (d : BitVec 5) (a : BitVec 5) (imm : BitVec 16) : Statement (.ldw d a imm) := strandCase rfl rfl rfl fun _ =>
  immCase _ d a imm (fun v => .ok (.ldw d a v)) (fun f h1 h2 h3 => by cases f; subst h1 h2 h3; rfl) rfl
theorem ldwu (d : BitVec 5) (a : BitVec 5) (imm : BitVec 16) : Statement (.ldwu d a imm) := strandCase rfl rfl rfl fun _ =>
  immCase _ d a imm (fun v => .ok (.ldwu d a v)) (fun f h1 h2 h3 => by cases f; subst h1 h2 h3; rfl) rfl
theorem ldd (d : BitVec 5) (a : BitVec 5) (imm : BitVec 16) : Statement (.ldd d a imm) := strandCase rfl rfl rfl fun _ =>
  immCase _ d a imm (fun v => .ok (.ldd d a v)) (fun f h1 h2 h3 => by cases f; subst h1 h2 h3; rfl) rfl
theorem stb (d : BitVec 5) (a : BitVec 5) (imm : BitVec 16) : Statement (.stb d a imm) := strandCase rfl rfl rfl fun _ =>
  immCase _ d a imm (fun v => .ok (.stb d a v)) (fun f h1 h2 h3 => by cases f; subst h1 h2 h3; rfl) rfl
theorem sth (d : BitVec 5) (a : BitVec 5) (imm : BitVec 16) : Statement (.sth d a imm) := strandCase rfl rfl rfl fun _ =>
  immCase _ d a imm (fun v => .ok (.sth d a v)) (fun f h1 h2 h3 => by cases f; subst h1 h2 h3; rfl) rfl
theorem stw (d : BitVec 5) (a : BitVec 5) (imm : BitVec 16) : Statement (.stw d a imm) := strandCase rfl rfl rfl fun _ =>
  immCase _ d a imm (fun v => .ok (.stw d a v)) (fun f h1 h2 h3 => by cases f; subst h1 h2 h3; rfl) rfl
theorem std (d : BitVec 5) (a : BitVec 5) (imm : BitVec 16) : Statement (.std d a imm) := strandCase rfl rfl rfl fun _ =>
  immCase _ d a imm (fun v => .ok (.std d a v)) (fun f h1 h2 h3 => by cases f; subst h1 h2 h3; rfl) rfl
theorem pf (a : BitVec 5) : Statement (.pf a) := strandCase rfl rfl rfl fun _ => rfl
theorem flsh (a : BitVec 5) : Statement (.flsh a) := strandCase rfl rfl rfl fun _ => rfl
theorem invl (a : BitVec 5) : Statement (.invl a) := strandCase rfl rfl rfl fun _ => rfl
theorem pin (d : BitVec 5) (a : BitVec 5) : Statement (.pin d a) := strandCase rfl rfl rfl fun _ => rfl
theorem unpin (d : BitVec 5) (a : BitVec 5) : Statement (.unpin d a) := strandCase rfl rfl rfl fun _ => rfl
theorem lock (d : BitVec 5) (a : BitVec 5) : Statement (.lock d a) := strandCase rfl rfl rfl fun _ => rfl
theorem unlock (d : BitVec 5) (a : BitVec 5) : Statement (.unlock d a) := strandCase rfl rfl rfl fun _ => rfl
theorem atomAdd (d : BitVec 5) (a : BitVec 5) (b : BitVec 5) (scope : BitVec 2) (size : BitVec 1) : Statement (.atomAdd d a b scope size) := strandCase rfl rfl rfl fun _ =>
  atomCase d a b scope size 0x0 fun f h1 h2 h3 h4 h5 h6 h7 => by
    unfold decodeAtom; dsimp only; rw [h1, h2, h3, h4, h5, h6, h7]; rfl
theorem atomAnd (d : BitVec 5) (a : BitVec 5) (b : BitVec 5) (scope : BitVec 2) (size : BitVec 1) : Statement (.atomAnd d a b scope size) := strandCase rfl rfl rfl fun _ =>
  atomCase d a b scope size 0x1 fun f h1 h2 h3 h4 h5 h6 h7 => by
    unfold decodeAtom; dsimp only; rw [h1, h2, h3, h4, h5, h6, h7]; rfl
theorem atomOr (d : BitVec 5) (a : BitVec 5) (b : BitVec 5) (scope : BitVec 2) (size : BitVec 1) : Statement (.atomOr d a b scope size) := strandCase rfl rfl rfl fun _ =>
  atomCase d a b scope size 0x2 fun f h1 h2 h3 h4 h5 h6 h7 => by
    unfold decodeAtom; dsimp only; rw [h1, h2, h3, h4, h5, h6, h7]; rfl
theorem atomXor (d : BitVec 5) (a : BitVec 5) (b : BitVec 5) (scope : BitVec 2) (size : BitVec 1) : Statement (.atomXor d a b scope size) := strandCase rfl rfl rfl fun _ =>
  atomCase d a b scope size 0x3 fun f h1 h2 h3 h4 h5 h6 h7 => by
    unfold decodeAtom; dsimp only; rw [h1, h2, h3, h4, h5, h6, h7]; rfl
theorem atomMin (d : BitVec 5) (a : BitVec 5) (b : BitVec 5) (scope : BitVec 2) (size : BitVec 1) : Statement (.atomMin d a b scope size) := strandCase rfl rfl rfl fun _ =>
  atomCase d a b scope size 0x4 fun f h1 h2 h3 h4 h5 h6 h7 => by
    unfold decodeAtom; dsimp only; rw [h1, h2, h3, h4, h5, h6, h7]; rfl
theorem atomMax (d : BitVec 5) (a : BitVec 5) (b : BitVec 5) (scope : BitVec 2) (size : BitVec 1) : Statement (.atomMax d a b scope size) := strandCase rfl rfl rfl fun _ =>
  atomCase d a b scope size 0x5 fun f h1 h2 h3 h4 h5 h6 h7 => by
    unfold decodeAtom; dsimp only; rw [h1, h2, h3, h4, h5, h6, h7]; rfl
theorem atomMinu (d : BitVec 5) (a : BitVec 5) (b : BitVec 5) (scope : BitVec 2) (size : BitVec 1) : Statement (.atomMinu d a b scope size) := strandCase rfl rfl rfl fun _ =>
  atomCase d a b scope size 0x6 fun f h1 h2 h3 h4 h5 h6 h7 => by
    unfold decodeAtom; dsimp only; rw [h1, h2, h3, h4, h5, h6, h7]; rfl
theorem atomMaxu (d : BitVec 5) (a : BitVec 5) (b : BitVec 5) (scope : BitVec 2) (size : BitVec 1) : Statement (.atomMaxu d a b scope size) := strandCase rfl rfl rfl fun _ =>
  atomCase d a b scope size 0x7 fun f h1 h2 h3 h4 h5 h6 h7 => by
    unfold decodeAtom; dsimp only; rw [h1, h2, h3, h4, h5, h6, h7]; rfl
theorem atomSwp (d : BitVec 5) (a : BitVec 5) (b : BitVec 5) (scope : BitVec 2) (size : BitVec 1) : Statement (.atomSwp d a b scope size) := strandCase rfl rfl rfl fun _ =>
  atomCase d a b scope size 0x8 fun f h1 h2 h3 h4 h5 h6 h7 => by
    unfold decodeAtom; dsimp only; rw [h1, h2, h3, h4, h5, h6, h7]; rfl
theorem atomCas (d : BitVec 5) (a : BitVec 5) (b : BitVec 5) (scope : BitVec 2) (size : BitVec 1) : Statement (.atomCas d a b scope size) := strandCase rfl rfl rfl fun _ =>
  atomCase d a b scope size 0x9 fun f h1 h2 h3 h4 h5 h6 h7 => by
    unfold decodeAtom; dsimp only; rw [h1, h2, h3, h4, h5, h6, h7]; rfl
theorem fenceLd (scope : BitVec 2) : Statement (.fenceLd scope) := strandCase rfl rfl rfl fun _ =>
  fenceCase 0 scope fun f h1 h2 h3 h4 h5 h6 => by
    unfold decodeFence; dsimp only; rw [h1, h2, h3, h4, h5, h6]; rfl
theorem fenceSt (scope : BitVec 2) : Statement (.fenceSt scope) := strandCase rfl rfl rfl fun _ =>
  fenceCase 1 scope fun f h1 h2 h3 h4 h5 h6 => by
    unfold decodeFence; dsimp only; rw [h1, h2, h3, h4, h5, h6]; rfl
theorem fenceAll (scope : BitVec 2) : Statement (.fenceAll scope) := strandCase rfl rfl rfl fun _ =>
  fenceCase 2 scope fun f h1 h2 h3 h4 h5 h6 => by
    unfold decodeFence; dsimp only; rw [h1, h2, h3, h4, h5, h6]; rfl
theorem fenceEng (scope : BitVec 2) : Statement (.fenceEng scope) := strandCase rfl rfl rfl fun _ =>
  fenceCase 3 scope fun f h1 h2 h3 h4 h5 h6 => by
    unfold decodeFence; dsimp only; rw [h1, h2, h3, h4, h5, h6]; rfl
theorem ldvEq (d : BitVec 5) (a : BitVec 5) (b : BitVec 5) : Statement (.ldvEq d a b) := strandCase rfl rfl rfl fun _ =>
  show decodeLdv _ = _ from (if_neg (show ¬((0#11).extractLsb' 1 10 != 0) = true by decide)).trans (if_pos (show ((0#11).extractLsb' 0 1 == 0) = true by decide))
theorem ldvGe (d : BitVec 5) (a : BitVec 5) (b : BitVec 5) : Statement (.ldvGe d a b) := strandCase rfl rfl rfl fun _ =>
  show decodeLdv _ = _ from (if_neg (show ¬((1#11).extractLsb' 1 10 != 0) = true by decide)).trans (if_neg (show ¬((1#11).extractLsb' 0 1 == 0) = true by decide))
theorem stv (d : BitVec 5) (a : BitVec 5) (imm : BitVec 16) : Statement (.stv d a imm) := strandCase rfl rfl rfl fun _ =>
  immCase _ d a imm (fun v => .ok (.stv d a v)) (fun f h1 h2 h3 => by cases f; subst h1 h2 h3; rfl) rfl
theorem rclm (a : BitVec 5) (b : BitVec 5) : Statement (.rclm a b) := strandCase rfl rfl rfl fun _ => rfl
theorem fork (d : BitVec 5) (a : BitVec 5) (b : BitVec 5) : Statement (.fork d a b) := strandCase rfl rfl rfl fun _ => rfl
theorem join : Statement (.join) := strandCase rfl rfl rfl fun _ => rfl
theorem endStrand : Statement (.endStrand) := strandCase rfl rfl rfl fun _ => rfl
theorem yield : Statement (.yield) := strandCase rfl rfl rfl fun _ => rfl
theorem scmd (d : BitVec 5) (a : BitVec 5) (b : BitVec 5) : Statement (.scmd d a b) := strandCase rfl rfl rfl fun _ => rfl
theorem scml (d : BitVec 5) (a : BitVec 5) (b : BitVec 5) : Statement (.scml d a b) := strandCase rfl rfl rfl fun _ => rfl
theorem resp (d : BitVec 5) (a : BitVec 5) : Statement (.resp d a) := strandCase rfl rfl rfl fun _ => rfl
theorem pwr (a : BitVec 5) (port : BitVec 4) : Statement (.pwr a port) := strandCase rfl rfl rfl fun _ =>
  portCase 0 a port 1 fun f h1 h2 h3 h4 h5 => by
    unfold decodePort; dsimp only; rw [h1, h2, h3, h4, h5]; rfl
theorem pwrS (a : BitVec 5) (port : BitVec 4) : Statement (.pwrS a port) := strandCase rfl rfl rfl fun _ =>
  portCase 1 a port 1 fun f h1 h2 h3 h4 h5 => by
    unfold decodePort; dsimp only; rw [h1, h2, h3, h4, h5]; rfl
theorem pwrSl (a : BitVec 5) (port : BitVec 4) : Statement (.pwrSl a port) := strandCase rfl rfl rfl fun _ =>
  portCase 3 a port 1 fun f h1 h2 h3 h4 h5 => by
    unfold decodePort; dsimp only; rw [h1, h2, h3, h4, h5]; rfl
theorem prd (d : BitVec 5) (port : BitVec 4) : Statement (.prd d port) := strandCase rfl rfl rfl fun _ =>
  portCase d 0 port 2 fun f h1 h2 h3 h4 h5 => by
    unfold decodePort; dsimp only; rw [h1, h2, h3, h4, h5]; rfl
theorem aclr (port : BitVec 4) : Statement (.aclr port) := strandCase rfl rfl rfl fun _ =>
  portCase 0 0 port 3 fun f h1 h2 h3 h4 h5 => by
    unfold decodePort; dsimp only; rw [h1, h2, h3, h4, h5]; rfl
theorem ereg (d : BitVec 5) (a : BitVec 5) : Statement (.ereg d a) := strandCase rfl rfl rfl fun _ => rfl
theorem enew (d : BitVec 5) (a : BitVec 5) : Statement (.enew d a) := strandCase rfl rfl rfl fun _ => rfl
theorem eapp (d : BitVec 5) (a : BitVec 5) (b : BitVec 5) : Statement (.eapp d a b) := strandCase rfl rfl rfl fun _ => rfl
theorem ecur (d : BitVec 5) (a : BitVec 5) (b : BitVec 5) : Statement (.ecur d a b) := strandCase rfl rfl rfl fun _ => rfl
theorem eseek (d : BitVec 5) (a : BitVec 5) (b : BitVec 5) : Statement (.eseek d a b) := strandCase rfl rfl rfl fun _ => rfl
theorem ecfg (d : BitVec 5) (a : BitVec 5) (b : BitVec 5) : Statement (.ecfg d a b) := strandCase rfl rfl rfl fun _ => rfl
theorem eplay (d : BitVec 5) (a : BitVec 5) (b : BitVec 5) : Statement (.eplay d a b) := strandCase rfl rfl rfl fun _ => rfl
theorem ebranch (d : BitVec 5) (a : BitVec 5) : Statement (.ebranch d a) := strandCase rfl rfl rfl fun _ => rfl
theorem ecopy (d : BitVec 5) (a : BitVec 5) : Statement (.ecopy d a) := strandCase rfl rfl rfl fun _ => rfl
theorem esplice (d : BitVec 5) (a : BitVec 5) (b : BitVec 5) : Statement (.esplice d a b) := strandCase rfl rfl rfl fun _ => rfl
theorem ecalve (d : BitVec 5) (a : BitVec 5) (b : BitVec 5) : Statement (.ecalve d a b) := strandCase rfl rfl rfl fun _ => rfl
theorem epos (d : BitVec 5) (a : BitVec 5) (b : BitVec 5) : Statement (.epos d a b) := strandCase rfl rfl rfl fun _ => rfl
theorem efree (d : BitVec 5) (a : BitVec 5) (b : BitVec 5) : Statement (.efree d a b) := strandCase rfl rfl rfl fun _ => rfl
theorem ginit (d : BitVec 5) (a : BitVec 5) : Statement (.ginit d a) := strandCase rfl rfl rfl fun _ => rfl
theorem gstep (d : BitVec 5) (a : BitVec 5) (b : BitVec 5) : Statement (.gstep d a b) := strandCase rfl rfl rfl fun _ => rfl
theorem gmask (d : BitVec 5) (a : BitVec 5) (b : BitVec 5) : Statement (.gmask d a b) := strandCase rfl rfl rfl fun _ => rfl
theorem gfork (d : BitVec 5) (a : BitVec 5) : Statement (.gfork d a) := strandCase rfl rfl rfl fun _ => rfl
theorem gsnap (d : BitVec 5) (a : BitVec 5) : Statement (.gsnap d a) := strandCase rfl rfl rfl fun _ => rfl
theorem groll (d : BitVec 5) (a : BitVec 5) (b : BitVec 5) : Statement (.groll d a b) := strandCase rfl rfl rfl fun _ => rfl
theorem gfree (d : BitVec 5) (a : BitVec 5) (b : BitVec 5) : Statement (.gfree d a b) := strandCase rfl rfl rfl fun _ => rfl
theorem iter (d : BitVec 5) (a : BitVec 5) : Statement (.iter d a) := strandCase rfl rfl rfl fun _ => rfl
theorem hrel (d : BitVec 5) (a : BitVec 5) (b : BitVec 5) : Statement (.hrel d a b) := strandCase rfl rfl rfl fun _ => rfl
theorem hdrop (d : BitVec 5) (a : BitVec 5) (b : BitVec 5) : Statement (.hdrop d a b) := strandCase rfl rfl rfl fun _ => rfl
theorem hpeek (d : BitVec 5) (a : BitVec 5) (b : BitVec 5) : Statement (.hpeek d a b) := strandCase rfl rfl rfl fun _ => rfl
theorem fadd (d : BitVec 5) (a : BitVec 5) (b : BitVec 5) (rm : BitVec 3) (fmt : BitVec 1) : Statement (.fadd d a b rm fmt) := strandCase rfl rfl rfl fun w =>
  fpCase d a b rm fmt 0x01 fun f h1 h2 h3 h4 h5 h6 h7 => by
    unfold decodeFp; dsimp only; rw [h1, h2, h3, h4, h5, h6, h7]; exact if_pos w
theorem fsub (d : BitVec 5) (a : BitVec 5) (b : BitVec 5) (rm : BitVec 3) (fmt : BitVec 1) : Statement (.fsub d a b rm fmt) := strandCase rfl rfl rfl fun w =>
  fpCase d a b rm fmt 0x02 fun f h1 h2 h3 h4 h5 h6 h7 => by
    unfold decodeFp; dsimp only; rw [h1, h2, h3, h4, h5, h6, h7]; exact if_pos w
theorem fmul (d : BitVec 5) (a : BitVec 5) (b : BitVec 5) (rm : BitVec 3) (fmt : BitVec 1) : Statement (.fmul d a b rm fmt) := strandCase rfl rfl rfl fun w =>
  fpCase d a b rm fmt 0x03 fun f h1 h2 h3 h4 h5 h6 h7 => by
    unfold decodeFp; dsimp only; rw [h1, h2, h3, h4, h5, h6, h7]; exact if_pos w
theorem fdiv (d : BitVec 5) (a : BitVec 5) (b : BitVec 5) (rm : BitVec 3) (fmt : BitVec 1) : Statement (.fdiv d a b rm fmt) := strandCase rfl rfl rfl fun w =>
  fpCase d a b rm fmt 0x04 fun f h1 h2 h3 h4 h5 h6 h7 => by
    unfold decodeFp; dsimp only; rw [h1, h2, h3, h4, h5, h6, h7]; exact if_pos w
theorem fsqrt (d : BitVec 5) (a : BitVec 5) (rm : BitVec 3) (fmt : BitVec 1) : Statement (.fsqrt d a rm fmt) := strandCase rfl rfl rfl fun w =>
  fpCase d a 0 rm fmt 0x05 fun f h1 h2 h3 h4 h5 h6 h7 => by
    unfold decodeFp; dsimp only; rw [h1, h2, h3, h4, h5, h6, h7]; exact if_pos w
theorem fmin (d : BitVec 5) (a : BitVec 5) (b : BitVec 5) (fmt : BitVec 1) : Statement (.fmin d a b fmt) := strandCase rfl rfl rfl fun w =>
  fpCase d a b 0 fmt 0x06 fun f h1 h2 h3 h4 h5 h6 h7 => by
    unfold decodeFp; dsimp only; rw [h1, h2, h3, h4, h5, h6, h7]; rfl
theorem fmax (d : BitVec 5) (a : BitVec 5) (b : BitVec 5) (fmt : BitVec 1) : Statement (.fmax d a b fmt) := strandCase rfl rfl rfl fun w =>
  fpCase d a b 0 fmt 0x07 fun f h1 h2 h3 h4 h5 h6 h7 => by
    unfold decodeFp; dsimp only; rw [h1, h2, h3, h4, h5, h6, h7]; rfl
theorem ffma (d : BitVec 5) (a : BitVec 5) (b : BitVec 5) (rm : BitVec 3) (fmt : BitVec 1) : Statement (.ffma d a b rm fmt) := strandCase rfl rfl rfl fun w =>
  fpCase d a b rm fmt 0x08 fun f h1 h2 h3 h4 h5 h6 h7 => by
    unfold decodeFp; dsimp only; rw [h1, h2, h3, h4, h5, h6, h7]; exact if_pos w
theorem feq (d : BitVec 5) (a : BitVec 5) (b : BitVec 5) (fmt : BitVec 1) : Statement (.feq d a b fmt) := strandCase rfl rfl rfl fun w =>
  fpCase d a b 0 fmt 0x09 fun f h1 h2 h3 h4 h5 h6 h7 => by
    unfold decodeFp; dsimp only; rw [h1, h2, h3, h4, h5, h6, h7]; rfl
theorem flt (d : BitVec 5) (a : BitVec 5) (b : BitVec 5) (fmt : BitVec 1) : Statement (.flt d a b fmt) := strandCase rfl rfl rfl fun w =>
  fpCase d a b 0 fmt 0x0a fun f h1 h2 h3 h4 h5 h6 h7 => by
    unfold decodeFp; dsimp only; rw [h1, h2, h3, h4, h5, h6, h7]; rfl
theorem fle (d : BitVec 5) (a : BitVec 5) (b : BitVec 5) (fmt : BitVec 1) : Statement (.fle d a b fmt) := strandCase rfl rfl rfl fun w =>
  fpCase d a b 0 fmt 0x0b fun f h1 h2 h3 h4 h5 h6 h7 => by
    unfold decodeFp; dsimp only; rw [h1, h2, h3, h4, h5, h6, h7]; rfl
theorem fclass (d : BitVec 5) (a : BitVec 5) (fmt : BitVec 1) : Statement (.fclass d a fmt) := strandCase rfl rfl rfl fun w =>
  fpCase d a 0 0 fmt 0x0d fun f h1 h2 h3 h4 h5 h6 h7 => by
    unfold decodeFp; dsimp only; rw [h1, h2, h3, h4, h5, h6, h7]; rfl
theorem fcvtFloat (d : BitVec 5) (a : BitVec 5) (rm : BitVec 3) (fmt : BitVec 1) : Statement (.fcvtFloat d a rm fmt) := strandCase rfl rfl rfl fun w =>
  fpCase d a 0 rm fmt 0x0c fun f h1 h2 h3 h4 h5 h6 h7 => by
    unfold decodeFp decodeFcvt; dsimp only; rw [h1, h2, h3, h4, h5, h6, h7]; exact if_pos w
theorem fcvtFromL (d : BitVec 5) (a : BitVec 5) (rm : BitVec 3) (fmt : BitVec 1) : Statement (.fcvtFromL d a rm fmt) := strandCase rfl rfl rfl fun w =>
  fpCase d a 1 rm fmt 0x0c fun f h1 h2 h3 h4 h5 h6 h7 => by
    unfold decodeFp decodeFcvt; dsimp only; rw [h1, h2, h3, h4, h5, h6, h7]; exact if_pos w
theorem fcvtFromLu (d : BitVec 5) (a : BitVec 5) (rm : BitVec 3) (fmt : BitVec 1) : Statement (.fcvtFromLu d a rm fmt) := strandCase rfl rfl rfl fun w =>
  fpCase d a 2 rm fmt 0x0c fun f h1 h2 h3 h4 h5 h6 h7 => by
    unfold decodeFp decodeFcvt; dsimp only; rw [h1, h2, h3, h4, h5, h6, h7]; exact if_pos w
theorem fcvtToL (d : BitVec 5) (a : BitVec 5) (rm : BitVec 3) (fmt : BitVec 1) : Statement (.fcvtToL d a rm fmt) := strandCase rfl rfl rfl fun w =>
  fpCase d a 3 rm fmt 0x0c fun f h1 h2 h3 h4 h5 h6 h7 => by
    unfold decodeFp decodeFcvt; dsimp only; rw [h1, h2, h3, h4, h5, h6, h7]; exact if_pos w
theorem fcvtToLu (d : BitVec 5) (a : BitVec 5) (rm : BitVec 3) (fmt : BitVec 1) : Statement (.fcvtToLu d a rm fmt) := strandCase rfl rfl rfl fun w =>
  fpCase d a 4 rm fmt 0x0c fun f h1 h2 h3 h4 h5 h6 h7 => by
    unfold decodeFp decodeFcvt; dsimp only; rw [h1, h2, h3, h4, h5, h6, h7]; exact if_pos w
theorem fcvtToW (d : BitVec 5) (a : BitVec 5) (rm : BitVec 3) (fmt : BitVec 1) : Statement (.fcvtToW d a rm fmt) := strandCase rfl rfl rfl fun w =>
  fpCase d a 5 rm fmt 0x0c fun f h1 h2 h3 h4 h5 h6 h7 => by
    unfold decodeFp decodeFcvt; dsimp only; rw [h1, h2, h3, h4, h5, h6, h7]; exact if_pos w
theorem fcvtToWu (d : BitVec 5) (a : BitVec 5) (rm : BitVec 3) (fmt : BitVec 1) : Statement (.fcvtToWu d a rm fmt) := strandCase rfl rfl rfl fun w =>
  fpCase d a 6 rm fmt 0x0c fun f h1 h2 h3 h4 h5 h6 h7 => by
    unfold decodeFp decodeFcvt; dsimp only; rw [h1, h2, h3, h4, h5, h6, h7]; exact if_pos w
theorem csrr (d : BitVec 5) (csr : BitVec 12) : Statement (.csrr d csr) := strandCase rfl rfl rfl fun w =>
  sysCase d 0 0x1 csr fun f h1 h2 h3 h4 => by
    unfold decodeSys; dsimp only; rw [h1, h2, h3, h4]; exact if_pos w
theorem csrw (d : BitVec 5) (a : BitVec 5) (csr : BitVec 12) : Statement (.csrw d a csr) := strandCase rfl rfl rfl fun w =>
  sysCase d a 0x2 csr fun f h1 h2 h3 h4 => by
    unfold decodeSys; dsimp only; rw [h1, h2, h3, h4]; exact if_pos w
theorem csrs (d : BitVec 5) (a : BitVec 5) (csr : BitVec 12) : Statement (.csrs d a csr) := strandCase rfl rfl rfl fun w =>
  sysCase d a 0x3 csr fun f h1 h2 h3 h4 => by
    unfold decodeSys; dsimp only; rw [h1, h2, h3, h4]; exact if_pos w
theorem csrc (d : BitVec 5) (a : BitVec 5) (csr : BitVec 12) : Statement (.csrc d a csr) := strandCase rfl rfl rfl fun w =>
  sysCase d a 0x4 csr fun f h1 h2 h3 h4 => by
    unfold decodeSys; dsimp only; rw [h1, h2, h3, h4]; exact if_pos w
theorem trap (code : BitVec 12) : Statement (.trap code) := strandCase rfl rfl rfl fun _ =>
  sysCase 0 0 0x5 code fun f h1 h2 h3 h4 => by
    unfold decodeSys; dsimp only; rw [h1, h2, h3, h4]; rfl
theorem eret : Statement (.eret) := strandCase rfl rfl rfl fun _ => rfl
theorem brk : Statement (.brk) := strandCase rfl rfl rfl fun _ => rfl
theorem nop : Statement (.nop) := strandCase rfl rfl rfl fun _ => rfl
theorem vadd (e : EWord) : Statement (.vadd e) := elemCase rfl rfl rfl rfl ⟨_, rfl⟩
theorem vsub (e : EWord) : Statement (.vsub e) := elemCase rfl rfl rfl rfl ⟨_, rfl⟩
theorem vmul (e : EWord) : Statement (.vmul e) := elemCase rfl rfl rfl rfl ⟨_, rfl⟩
theorem vmulh (e : EWord) : Statement (.vmulh e) := elemCase rfl rfl rfl rfl ⟨_, rfl⟩
theorem vmad (e : EWord) : Statement (.vmad e) := elemCase rfl rfl rfl rfl ⟨_, rfl⟩
theorem vmin (e : EWord) : Statement (.vmin e) := elemCase rfl rfl rfl rfl ⟨_, rfl⟩
theorem vmax (e : EWord) : Statement (.vmax e) := elemCase rfl rfl rfl rfl ⟨_, rfl⟩
theorem vabs (e : EWord) : Statement (.vabs e) := elemCase rfl rfl rfl rfl ⟨_, rfl⟩
theorem vneg (e : EWord) : Statement (.vneg e) := elemCase rfl rfl rfl rfl ⟨_, rfl⟩
theorem vand (e : EWord) : Statement (.vand e) := elemCase rfl rfl rfl rfl ⟨_, rfl⟩
theorem vor (e : EWord) : Statement (.vor e) := elemCase rfl rfl rfl rfl ⟨_, rfl⟩
theorem vxor (e : EWord) : Statement (.vxor e) := elemCase rfl rfl rfl rfl ⟨_, rfl⟩
theorem vnot (e : EWord) : Statement (.vnot e) := elemCase rfl rfl rfl rfl ⟨_, rfl⟩
theorem vshl (e : EWord) : Statement (.vshl e) := elemCase rfl rfl rfl rfl ⟨_, rfl⟩
theorem vshr (e : EWord) : Statement (.vshr e) := elemCase rfl rfl rfl rfl ⟨_, rfl⟩
theorem vsra (e : EWord) : Statement (.vsra e) := elemCase rfl rfl rfl rfl ⟨_, rfl⟩
theorem vclip (e : EWord) : Statement (.vclip e) := elemCase rfl rfl rfl rfl ⟨_, rfl⟩
theorem vadds (e : EWord) : Statement (.vadds e) := elemCase rfl rfl rfl rfl ⟨_, rfl⟩
theorem vsubs (e : EWord) : Statement (.vsubs e) := elemCase rfl rfl rfl rfl ⟨_, rfl⟩
theorem vcmp (e : EWord) : Statement (.vcmp e) := elemCase rfl rfl rfl rfl ⟨_, rfl⟩
theorem vsel (e : EWord) : Statement (.vsel e) := elemCase rfl rfl rfl rfl ⟨_, rfl⟩
theorem vval (e : EWord) : Statement (.vval e) := elemCase rfl rfl rfl rfl (by
  by_cases h : (e.aux == 0) = true
  · exact ⟨_, by unfold WellFormed elemSpec; dsimp only; rw [if_pos h]⟩
  · exact ⟨_, by unfold WellFormed elemSpec; dsimp only; rw [if_neg h]⟩)
theorem vscan (e : EWord) : Statement (.vscan e) := elemCase rfl rfl rfl rfl ⟨_, rfl⟩
theorem fvadd (e : EWord) : Statement (.fvadd e) := elemCase rfl rfl rfl rfl ⟨_, rfl⟩
theorem fvsub (e : EWord) : Statement (.fvsub e) := elemCase rfl rfl rfl rfl ⟨_, rfl⟩
theorem fvmul (e : EWord) : Statement (.fvmul e) := elemCase rfl rfl rfl rfl ⟨_, rfl⟩
theorem fvfma (e : EWord) : Statement (.fvfma e) := elemCase rfl rfl rfl rfl ⟨_, rfl⟩
theorem fvmin (e : EWord) : Statement (.fvmin e) := elemCase rfl rfl rfl rfl ⟨_, rfl⟩
theorem fvmax (e : EWord) : Statement (.fvmax e) := elemCase rfl rfl rfl rfl ⟨_, rfl⟩
theorem fvexp2 (e : EWord) : Statement (.fvexp2 e) := elemCase rfl rfl rfl rfl ⟨_, rfl⟩
theorem fvlog2 (e : EWord) : Statement (.fvlog2 e) := elemCase rfl rfl rfl rfl ⟨_, rfl⟩
theorem fvrcp (e : EWord) : Statement (.fvrcp e) := elemCase rfl rfl rfl rfl ⟨_, rfl⟩
theorem fvrsq (e : EWord) : Statement (.fvrsq e) := elemCase rfl rfl rfl rfl ⟨_, rfl⟩
theorem fvtanh (e : EWord) : Statement (.fvtanh e) := elemCase rfl rfl rfl rfl ⟨_, rfl⟩
theorem fvsigm (e : EWord) : Statement (.fvsigm e) := elemCase rfl rfl rfl rfl ⟨_, rfl⟩
theorem fvcmp (e : EWord) : Statement (.fvcmp e) := elemCase rfl rfl rfl rfl ⟨_, rfl⟩
theorem fvdot (e : EWord) : Statement (.fvdot e) := elemCase rfl rfl rfl rfl ⟨_, rfl⟩
theorem fvlrec (e : EWord) : Statement (.fvlrec e) := elemCase rfl rfl rfl rfl ⟨_, rfl⟩
theorem vbcast (e : EWord) : Statement (.vbcast e) := elemCase rfl rfl rfl rfl ⟨_, rfl⟩
theorem vperm (e : EWord) : Statement (.vperm e) := elemCase rfl rfl rfl rfl ⟨_, rfl⟩
theorem vpack (e : EWord) : Statement (.vpack e) := elemCase rfl rfl rfl rfl ⟨_, rfl⟩
theorem vunpk (e : EWord) : Statement (.vunpk e) := elemCase rfl rfl rfl rfl ⟨_, rfl⟩
theorem vslice (e : EWord) : Statement (.vslice e) := elemCase rfl rfl rfl rfl ⟨_, rfl⟩
theorem cturn (e : EWord) : Statement (.cturn e) := elemCase rfl rfl rfl rfl ⟨_, rfl⟩
theorem vred (e : EWord) : Statement (.vred e) := elemCase rfl rfl rfl rfl ⟨_, rfl⟩
theorem vconst (e : EWord) : Statement (.vconst e) := elemCase rfl rfl rfl rfl ⟨_, rfl⟩
theorem cvt (e : EWord) : Statement (.cvt e) := elemCase rfl rfl rfl rfl ⟨_, rfl⟩
theorem scale (e : EWord) : Statement (.scale e) := elemCase rfl rfl rfl rfl ⟨_, rfl⟩
theorem steer (e : EWord) : Statement (.steer e) := elemCase rfl rfl rfl rfl ⟨_, rfl⟩
theorem merge (e : EWord) : Statement (.merge e) := elemCase rfl rfl rfl rfl ⟨_, rfl⟩
theorem amerge (e : EWord) : Statement (.amerge e) := elemCase rfl rfl rfl rfl ⟨_, rfl⟩
theorem carry (e : EWord) : Statement (.carry e) := elemCase rfl rfl rfl rfl ⟨_, rfl⟩
theorem invar (e : EWord) : Statement (.invar e) := elemCase rfl rfl rfl rfl ⟨_, rfl⟩
theorem permit (e : EWord) : Statement (.permit e) := elemCase rfl rfl rfl rfl ⟨_, rfl⟩
theorem sink (e : EWord) : Statement (.sink e) := elemCase rfl rfl rfl rfl ⟨_, rfl⟩
theorem mrow (e : EWord) : Statement (.mrow e) := elemCase rfl rfl rfl rfl ⟨_, rfl⟩
theorem mldb (e : EWord) : Statement (.mldb e) := elemCase rfl rfl rfl rfl ⟨_, rfl⟩
theorem mdrn (e : EWord) : Statement (.mdrn e) := elemCase rfl rfl rfl rfl ⟨_, rfl⟩
theorem mclr (e : EWord) : Statement (.mclr e) := elemCase rfl rfl rfl rfl ⟨_, rfl⟩
theorem smxi (e : EWord) : Statement (.smxi e) := elemCase rfl rfl rfl rfl ⟨_, rfl⟩
theorem smxu (e : EWord) : Statement (.smxu e) := elemCase rfl rfl rfl rfl ⟨_, rfl⟩
theorem smxf (e : EWord) : Statement (.smxf e) := elemCase rfl rfl rfl rfl ⟨_, rfl⟩
theorem pred (e : EWord) : Statement (.pred e) := elemCase rfl rfl rfl rfl ⟨_, rfl⟩
theorem red (e : EWord) : Statement (.red e) := elemCase rfl rfl rfl rfl ⟨_, rfl⟩
theorem stld (e : EWord) : Statement (.stld e) := elemCase rfl rfl rfl rfl ⟨_, rfl⟩
theorem stst (e : EWord) : Statement (.stst e) := elemCase rfl rfl rfl rfl ⟨_, rfl⟩
theorem agld (e : EWord) : Statement (.agld e) := elemCase rfl rfl rfl rfl ⟨_, rfl⟩
theorem agst (e : EWord) : Statement (.agst e) := elemCase rfl rfl rfl rfl ⟨_, rfl⟩
theorem agga (e : EWord) : Statement (.agga e) := elemCase rfl rfl rfl rfl (by
  by_cases h : e.aux.toNat < 16
  · exact ⟨_, by unfold WellFormed elemSpec; dsimp only; rw [if_pos h]⟩
  · exact ⟨_, by unfold WellFormed elemSpec; dsimp only; rw [if_neg h]⟩)
theorem aguf (e : EWord) : Statement (.aguf e) := elemCase rfl rfl rfl rfl ⟨_, rfl⟩
theorem agep (e : EWord) : Statement (.agep e) := elemCase rfl rfl rfl rfl ⟨_, rfl⟩
theorem lds (c : Cmd) : Statement (.lds c) := cmdCase rfl rfl rfl fun _ => rfl
theorem sts (c : Cmd) : Statement (.sts c) := cmdCase rfl rfl rfl fun _ => rfl
theorem gth (c : Cmd) : Statement (.gth c) := cmdCase rfl rfl rfl fun _ => rfl
theorem sct (c : Cmd) : Statement (.sct c) := cmdCase rfl rfl rfl fun _ => rfl
theorem unf (c : Cmd) : Statement (.unf c) := cmdCase rfl rfl rfl fun _ => rfl
theorem cpy (c : Cmd) : Statement (.cpy c) := cmdCase rfl rfl rfl fun _ => rfl
theorem cpyl (c : Cmd) : Statement (.cpyl c) := cmdCase rfl rfl rfl fun _ => rfl
theorem fil (c : Cmd) : Statement (.fil c) := cmdCase rfl rfl rfl fun _ => rfl
theorem colAllReduce (c : Cmd) : Statement (.colAllReduce c) := cmdCase rfl rfl rfl fun w => by
  have w : (destGroup c && (!c.s && !c.cks) && (c.flags == 0 || c.flags == 4)) = true := w
  simp only [Bool.and_eq_true, Bool.or_eq_true, beq_iff_eq] at w
  show mkCmd 9 c = _
  unfold mkCmd
  rcases w.2 with e | e <;> rw [e] <;> rfl
theorem colAllGather (c : Cmd) : Statement (.colAllGather c) := cmdCase rfl rfl rfl fun w => by
  have w : (destGroup c && (!c.s && !c.cks) && (c.flags == 1 || c.flags == 5)) = true := w
  simp only [Bool.and_eq_true, Bool.or_eq_true, beq_iff_eq] at w
  show mkCmd 9 c = _
  unfold mkCmd
  rcases w.2 with e | e <;> rw [e] <;> rfl
theorem colReduceScatter (c : Cmd) : Statement (.colReduceScatter c) := cmdCase rfl rfl rfl fun w => by
  have w : (destGroup c && (!c.s && !c.cks) && (c.flags == 2 || c.flags == 6)) = true := w
  simp only [Bool.and_eq_true, Bool.or_eq_true, beq_iff_eq] at w
  show mkCmd 9 c = _
  unfold mkCmd
  rcases w.2 with e | e <;> rw [e] <;> rfl
theorem cfg (c : Cmd) : Statement (.cfg c) := cmdCase rfl rfl rfl fun _ => rfl
theorem barc (c : Cmd) : Statement (.barc c) := cmdCase rfl rfl rfl fun _ => rfl
theorem hand (c : Cmd) : Statement (.hand c) := cmdCase rfl rfl rfl fun _ => rfl
theorem drn (c : Cmd) : Statement (.drn c) := cmdCase rfl rfl rfl fun _ => rfl
theorem ptch (c : Cmd) : Statement (.ptch c) := cmdCase rfl rfl rfl fun _ => rfl
theorem tsk (c : Cmd) : Statement (.tsk c) := cmdCase rfl rfl rfl fun _ => rfl
theorem swsSwapOut (c : Cmd) : Statement (.swsSwapOut c) := cmdCase rfl rfl rfl fun w => by
  have w : (destNone c && (!c.s && !c.cks) && c.flags == 1) = true := w
  simp only [Bool.and_eq_true, beq_iff_eq] at w
  show mkCmd 0x16 c = _
  unfold mkCmd; rw [w.2]; rfl
theorem swsSwapIn (c : Cmd) : Statement (.swsSwapIn c) := cmdCase rfl rfl rfl fun w => by
  have w : (destNone c && (!c.s && !c.cks) && c.flags == 0) = true := w
  simp only [Bool.and_eq_true, beq_iff_eq] at w
  show mkCmd 0x16 c = _
  unfold mkCmd; rw [w.2]; rfl
theorem kick (slot : Nat) (word : BitVec 64) : Statement (.kick slot word) := eventCase rfl rfl rfl
theorem replayStart (slot : Nat) : Statement (.replayStart slot) := eventCase rfl rfl rfl
theorem nodeFinish (task : Nat) : Statement (.nodeFinish task) := eventCase rfl rfl rfl
theorem nodeDispatch (q : QueueId) : Statement (.nodeDispatch q) := eventCase rfl rfl rfl
theorem readyQueueAgeing (q : QueueId) (level : Nat) : Statement (.readyQueueAgeing q level) := eventCase rfl rfl rfl
theorem configAdmit (core : Nat) : Statement (.configAdmit core) := eventCase rfl rfl rfl
theorem passComplete (core : Nat) (region : Nat) : Statement (.passComplete core region) := eventCase rfl rfl rfl
theorem samplingRound (core : Nat) (region : Nat) : Statement (.samplingRound core region) := eventCase rfl rfl rfl
theorem stallTimerExpiry (core : Nat) (region : Nat) (link : Nat) : Statement (.stallTimerExpiry core region link) := eventCase rfl rfl rfl
theorem completionAccept (core : Nat) (sid : Nat) : Statement (.completionAccept core sid) := eventCase rfl rfl rfl
theorem relaunch (core : Nat) : Statement (.relaunch core) := eventCase rfl rfl rfl
theorem rotation (core : Nat) : Statement (.rotation core) := eventCase rfl rfl rfl
theorem strandPark (core : Nat) (sid : Nat) : Statement (.strandPark core sid) := eventCase rfl rfl rfl
theorem scoutYield (core : Nat) (sid : Nat) : Statement (.scoutYield core sid) := eventCase rfl rfl rfl
theorem scoutBudgetExpiry (core : Nat) (sid : Nat) : Statement (.scoutBudgetExpiry core sid) := eventCase rfl rfl rfl
theorem l1Fill (core : Nat) (line : Nat) : Statement (.l1Fill core line) := eventCase rfl rfl rfl
theorem cbDrainAccept (core : Nat) (entry : Nat) : Statement (.cbDrainAccept core entry) := eventCase rfl rfl rfl
theorem sliceFill (line : Nat) : Statement (.sliceFill line) := eventCase rfl rfl rfl
theorem sliceClean (line : Nat) : Statement (.sliceClean line) := eventCase rfl rfl rfl
theorem atomicAtSlice (id : Nat) : Statement (.atomicAtSlice id) := eventCase rfl rfl rfl
theorem stvAtSlice (id : Nat) : Statement (.stvAtSlice id) := eventCase rfl rfl rfl
theorem ldvAtSlice (id : Nat) : Statement (.ldvAtSlice id) := eventCase rfl rfl rfl
theorem rclmAtSlice (id : Nat) : Statement (.rclmAtSlice id) := eventCase rfl rfl rfl
theorem handlerDispatch (slice : Nat) : Statement (.handlerDispatch slice) := eventCase rfl rfl rfl
theorem handlerBudgetExpiry (slice : Nat) : Statement (.handlerBudgetExpiry slice) := eventCase rfl rfl rfl
theorem doneDefault (slice : Nat) : Statement (.doneDefault slice) := eventCase rfl rfl rfl
theorem doneInstall (slice : Nat) : Statement (.doneInstall slice) := eventCase rfl rfl rfl
theorem prefetch (slice : Nat) (va : BitVec 64) : Statement (.prefetch slice va) := eventCase rfl rfl rfl
theorem prefetchIssue (slice : Nat) : Statement (.prefetchIssue slice) := eventCase rfl rfl rfl
theorem lnRead (slice : Nat) : Statement (.lnRead slice) := eventCase rfl rfl rfl
theorem lnWrite (slice : Nat) : Statement (.lnWrite slice) := eventCase rfl rfl rfl
theorem forward (slice : Nat) (cmd : BitVec 64) : Statement (.forward slice cmd) := eventCase rfl rfl rfl
theorem appendAtEngine (id : Nat) : Statement (.appendAtEngine id) := eventCase rfl rfl rfl
theorem calveAtEngine (id : Nat) : Statement (.calveAtEngine id) := eventCase rfl rfl rfl
theorem spliceAtEngine (id : Nat) : Statement (.spliceAtEngine id) := eventCase rfl rfl rfl
theorem branchAtEngine (id : Nat) : Statement (.branchAtEngine id) := eventCase rfl rfl rfl
theorem playStep (cursor : Nat) : Statement (.playStep cursor) := eventCase rfl rfl rfl
theorem logitRow (core : Nat) : Statement (.logitRow core) := eventCase rfl rfl rfl
theorem sampleRow (core : Nat) (slot : Nat) : Statement (.sampleRow core slot) := eventCase rfl rfl rfl
theorem kernelRowReturn (core : Nat) (slot : Nat) : Statement (.kernelRowReturn core slot) := eventCase rfl rfl rfl
theorem kernelBudgetExpiry (core : Nat) (slot : Nat) : Statement (.kernelBudgetExpiry core slot) := eventCase rfl rfl rfl
theorem acceptance (core : Nat) (entry : Nat) : Statement (.acceptance core entry) := eventCase rfl rfl rfl
theorem rowsEnd (core : Nat) : Statement (.rowsEnd core) := eventCase rfl rfl rfl
theorem commit (core : Nat) : Statement (.commit core) := eventCase rfl rfl rfl
theorem holdEntryRelease (domain : Nat) (seq : Nat) : Statement (.holdEntryRelease domain seq) := eventCase rfl rfl rfl
theorem scrubEntry (ctx : Nat) (index : Nat) : Statement (.scrubEntry ctx index) := eventCase rfl rfl rfl
theorem preempt (core : Nat) (ctx : Nat) (notice : Bool) (window : Nat) : Statement (.preempt core ctx notice window) := eventCase rfl rfl rfl
theorem resume (core : Nat) (ctx : Nat) : Statement (.resume core ctx) := eventCase rfl rfl rfl
theorem preemptDeadline (core : Nat) : Statement (.preemptDeadline core) := eventCase rfl rfl rfl
theorem freezeThresholdExpiry (core : Nat) : Statement (.freezeThresholdExpiry core) := eventCase rfl rfl rfl
theorem contextSwitch (core : Nat) : Statement (.contextSwitch core) := eventCase rfl rfl rfl
theorem regionRestore (core : Nat) (region : Nat) : Statement (.regionRestore core region) := eventCase rfl rfl rfl
theorem contextDestroy (ctx : Nat) : Statement (.contextDestroy ctx) := eventCase rfl rfl rfl
theorem agFaultRetry (core : Nat) (region : Nat) (cell : Nat) : Statement (.agFaultRetry core region cell) := eventCase rfl rfl rfl
theorem strandStateError (core : Nat) (sid : Nat) : Statement (.strandStateError core sid) := eventCase rfl rfl rfl
theorem sliceUncorrectableError (line : Nat) : Statement (.sliceUncorrectableError line) := eventCase rfl rfl rfl
theorem walkStart (die : Nat) : Statement (.walkStart die) := eventCase rfl rfl rfl
theorem walkDone (walk : Nat) : Statement (.walkDone walk) := eventCase rfl rfl rfl
theorem tlbShootdown (range : BitVec 2) (va : BitVec 64) (ctx : Nat) : Statement (.tlbShootdown range va ctx) := eventCase rfl rfl rfl
theorem shootdownComplete : Statement (.shootdownComplete) := eventCase rfl rfl rfl
theorem mpartWrite (value : BitVec 64) : Statement (.mpartWrite value) := eventCase rfl rfl rfl
theorem registerWrite (reg : HostReg) (value : BitVec 64) : Statement (.registerWrite reg value) := eventCase rfl rfl rfl
theorem hostMemoryWrite (offset : Nat) (bytes : List (BitVec 8)) : Statement (.hostMemoryWrite offset bytes) := eventCase rfl rfl rfl
theorem hostMemoryRead (offset : Nat) (size : Nat) : Statement (.hostMemoryRead offset size) := eventCase rfl rfl rfl
theorem flitReceive (port : Nat) (flit : Flit) : Statement (.flitReceive port flit) := eventCase rfl rfl rfl
theorem powerUp : Statement (.powerUp) := eventCase rfl rfl rfl
theorem firmwareLoad (length : BitVec 64) : Statement (.firmwareLoad length) := eventCase rfl rfl rfl
theorem firmwareVerifyDone : Statement (.firmwareVerifyDone) := eventCase rfl rfl rfl
theorem attestationRequest (nonce : BitVec 256) : Statement (.attestationRequest nonce) := eventCase rfl rfl rfl
theorem attestationReport : Statement (.attestationReport) := eventCase rfl rfl rfl
theorem powerThrottle (cause : ThermalCause) : Statement (.powerThrottle cause) := eventCase rfl rfl rfl
theorem thermalTrip (cause : ThermalCause) : Statement (.thermalTrip cause) := eventCase rfl rfl rfl
theorem illegalInstruction (word : BitVec 32) : Statement (.illegalInstruction word) := eventCase rfl rfl rfl
theorem rimeHandlerInstruction (slice : Nat) : Statement (.rimeHandlerInstruction slice) := eventCase rfl rfl rfl
theorem coalescingBufferDrain (core : Nat) (entry : Nat) : Statement (.coalescingBufferDrain core entry) := eventCase rfl rfl rfl
theorem streamReply (core : Nat) (agent : StreamAgent) : Statement (.streamReply core agent) := eventCase rfl rfl rfl
theorem kickSlotBind (slot : Nat) (rec : KickRecord) : Statement (.kickSlotBind slot rec) := eventCase rfl rfl rfl
theorem linkPortEnable (port : Nat) : Statement (.linkPortEnable port) := eventCase rfl rfl rfl

end Sys2Proof.Laws.Coded
end

