-- ==== Sys2Proof/Laws/Unit.lean ====
section
/-! SUPPORT. Lemmas about firings: a firing leaves where links begin and end as it was, and a unit whose cell has no direct
link steps as its word's firing. -/

namespace Sys2Proof.Machine

/-- No direct link reaches a cell (R226). -/
def Region.apart (r : Region) (cell : Nat) : Prop := ∀ l ∈ r.links, l.slots = 0 → ∀ c, l.cons = some c → c.cell ≠ cell

/-- Every link of r' has the slots and the consumer of a link of r. -/
def Region.sameEnds (r r' : Region) : Prop := ∀ l' ∈ r'.links, ∃ l ∈ r.links, l'.slots = l.slots ∧ l'.cons = l.cons

theorem Region.sameEnds.refl (r : Region) : r.sameEnds r := fun l h => ⟨l, h, rfl, rfl⟩

theorem Region.sameEnds.trans {a b c : Region} (h : a.sameEnds b) (k : b.sameEnds c) : a.sameEnds c := by
  intro l hl
  obtain ⟨m, hm, e1, e2⟩ := k l hl
  obtain ⟨n, hn, e3, e4⟩ := h m hm
  exact ⟨n, hn, e1.trans e3, e2.trans e4⟩

theorem Region.sameEnds.apart {r r' : Region} {cell : Nat} (h : r.sameEnds r') (k : r.apart cell) : r'.apart cell := by
  intro l hl h0 c hc
  obtain ⟨m, hm, e1, e2⟩ := h l hl
  exact k m hm (e1 ▸ h0) c (e2 ▸ hc)

theorem Region.sameEnds_links {r r' : Region} (h : r'.links = r.links) : r.sameEnds r' := fun l hl => ⟨l, h ▸ hl, rfl, rfl⟩

theorem Region.squash_sameEnds (r : Region) : r.sameEnds r.squash := by
  intro l hl
  obtain ⟨m, hm, e⟩ := List.mem_map.1 hl
  refine ⟨m, hm, ?_, ?_⟩ <;> · rw [← e]; split <;> rfl

theorem Region.setLink_sameEnds (r : Region) (i : Nat) (l : Link) (h1 : l.slots = (r.link i).slots) (h2 : l.cons = (r.link i).cons) :
    r.sameEnds (r.setLink i l) := by
  intro x hx
  have hx' : x ∈ r.links.set i l := hx
  by_cases hi : i < r.links.length
  · rcases List.mem_or_eq_of_mem_set hx' with h | h
    · exact ⟨x, h, rfl, rfl⟩
    · refine ⟨r.links[i], List.getElem_mem hi, ?_, ?_⟩
      · rw [h, h1]; simp [Region.link, List.getD, hi]
      · rw [h, h2]; simp [Region.link, List.getD, hi]
  · rw [List.set_eq_of_length_le (by omega)] at hx'; exact ⟨x, hx', rfl, rfl⟩

@[simp] theorem Link.pop_slots (l : Link) : l.pop.slots = l.slots := by unfold Link.pop; split <;> rfl
@[simp] theorem Link.pop_cons (l : Link) : l.pop.cons = l.cons := by unfold Link.pop; split <;> rfl

theorem Region.take_sameEnds (r : Region) (f : BitVec 8) : r.sameEnds (r.take f) := by
  unfold Region.take
  split
  · exact .refl r
  · exact (r.setLink_sameEnds _ _ (Link.pop_slots _) (Link.pop_cons _)).trans (Region.squash_sameEnds _)

theorem Region.putAll_sameEnds (t : Token) : ∀ (js : List Nat) (r : Region), r.sameEnds (r.putAll t js)
  | [], r => .refl r
  | j :: js, r => (r.setLink_sameEnds j ((r.link j).put t) rfl rfl).trans (Region.putAll_sameEnds t js _)

theorem Region.placeAt_sameEnds (r : Region) (f : BitVec 8) (o : Option Token) : r.sameEnds (r.placeAt f o) := by
  unfold Region.placeAt
  cases o with
  | none => exact .refl r
  | some t =>
    dsimp only
    split
    · exact .refl r
    · unfold Region.place
      refine .trans ?_ (Region.squash_sameEnds _)
      exact (Region.sameEnds_links (r := r) (r' := { r with stalls := r.stalls.filter (·.1 ≠ f.toNat), quiet := 0 }) rfl).trans
        (Region.putAll_sameEnds t _ _)

/-- A firing leaves where every link begins and ends. -/
theorem Region.applyFire_sameEnds (r : Region) (u : UnitAt) (e : EWord) (f : Fire) : r.sameEnds (r.applyFire u e f) := by
  unfold Region.applyFire
  dsimp only
  refine .trans ?_ (Region.placeAt_sameEnds _ _ _)
  refine .trans ?_ (Region.placeAt_sameEnds _ _ _)
  refine .trans ?_ (Region.sameEnds_links (r := if f.takeC then (if f.takeB && !e.k then (if f.takeA then r.take e.a else r).take e.b else if f.takeA then r.take e.a else r).take e.c else if f.takeB && !e.k then (if f.takeA then r.take e.a else r).take e.b else if f.takeA then r.take e.a else r) rfl)
  have h (c : Bool) (x : Region) (g : BitVec 8) : x.sameEnds (if c then x.take g else x) := by
    cases c
    · exact .refl x
    · exact Region.take_sameEnds x g
  exact ((h f.takeA r e.a).trans (h (f.takeB && !e.k) _ e.b)).trans (h f.takeC _ e.c)

theorem Region.apart.passingTo {r : Region} {cell : Nat} (h : r.apart cell) : r.passingTo cell = none := by
  unfold Region.passingTo
  rw [List.findSome?_eq_none_iff]
  intro l hl
  cases hc : l.cons with
  | none => rfl
  | some c =>
    dsimp only
    rw [if_neg]
    intro hh
    simp only [Bool.and_eq_true, decide_eq_true_eq] at hh
    exact h l hl hh.1.1 c hc hh.2

theorem Region.apart.directInto {r : Region} {u : UnitAt} (h : r.apart u.cell) : r.directInto u = false := by
  unfold Region.directInto
  rw [List.any_eq_false]
  intro l hl hh
  simp only [Bool.and_eq_true, decide_eq_true_eq] at hh
  exact h l hl hh.1 _ hh.2 rfl

@[simp] theorem State.region_setRegion (s : State) (core n : Nat) (r : Region) : (s.setRegion core n r).region core n = some r := by
  unfold State.region State.setRegion State.modCore State.setCore State.core
  simp

/-- The step of a unit whose cell no direct link reaches is its word's own step (R226). -/
theorem State.runUnit_apart (s : State) (step : UnitStep) (u : UnitAt) (r : Region) (h1 : s.actor = .unit u.core u.region u.cell u.router)
    (h2 : s.region u.core u.region = some r) (h3 : r.apart u.cell)
    (h4 : ∀ s1, step s u = some s1 → ∀ r1, s1.region u.core u.region = some r1 → r1.apart u.cell) :
    s.runUnit step = .next ((step s u).getD s) := by
  unfold State.runUnit
  rw [h1]
  dsimp only
  unfold State.jointStep
  cases hs : step s u with
  | none =>
    dsimp only
    rw [h2]
    dsimp only
    rw [h3.directInto]
    rfl
  | some s1 =>
    dsimp only
    unfold State.settle
    cases hr : s1.region u.core u.region with
    | none => rfl
    | some r1 => dsimp only; rw [(h4 s1 hs r1 hr).passingTo]

/-- One firing of a unit that reads and changes only its links and its own state (R226). -/
theorem State.runUnit_pure (s : State) (e : EWord) (fire : UnitState → Inputs → Option Fire) (u : UnitAt) (r : Region) (f : Fire)
    (h1 : s.actor = .unit u.core u.region u.cell u.router) (h2 : s.region u.core u.region = some r) (h3 : r.apart u.cell)
    (hf : fire ((r.cell u.cell).unitState u.router) (r.inputs e) = some f) :
    s.runUnit (pureStep e fire)
      = .next (if r.fireRoom e f then s.setRegion u.core u.region (r.applyFire u e f) else s) := by
  have hs : pureStep e fire s u = if r.fireRoom e f then some (s.setRegion u.core u.region (r.applyFire u e f)) else none := by
    unfold pureStep State.fireStep
    rw [h2]
    dsimp only
    rw [hf]
    rfl
  rw [s.runUnit_apart _ u r h1 h2 h3]
  · rw [hs]; split <;> rfl
  · intro s1 h r1 hr
    rw [hs] at h
    split at h
    · cases h
      rw [State.region_setRegion] at hr
      cases hr
      exact (r.applyFire_sameEnds u e f).apart h3
    · cases h

/-- One firing of a unit, with what it does beyond its region. -/
theorem State.runUnit_fire (s : State) (e : EWord) (fn : FireFn) (u : UnitAt) (r : Region) (f : Fire) (eff : State → State)
    (h1 : s.actor = .unit u.core u.region u.cell u.router) (h2 : s.region u.core u.region = some r) (h3 : r.apart u.cell)
    (hf : fn s u r ((r.cell u.cell).unitState u.router) (r.inputs e) = some (f, eff))
    (he : ∀ r1, (eff (s.setRegion u.core u.region (r.applyFire u e f))).region u.core u.region = some r1 →
      (r.applyFire u e f).sameEnds r1) :
    s.runUnit (State.fireStep e fn)
      = .next (if r.fireRoom e f then eff (s.setRegion u.core u.region (r.applyFire u e f)) else s) := by
  have hs : State.fireStep e fn s u = if r.fireRoom e f then some (eff (s.setRegion u.core u.region (r.applyFire u e f))) else none := by
    unfold State.fireStep
    rw [h2]
    dsimp only
    rw [hf]
  rw [s.runUnit_apart _ u r h1 h2 h3]
  · rw [hs]; split <;> rfl
  · intro s1 h r1 hr
    rw [hs] at h
    split at h
    · cases h
      exact ((r.applyFire_sameEnds u e f).trans (he r1 hr)).apart h3
    · cases h

/-- A unit without a firing, in any of its forms, changes nothing. -/
theorem State.runUnit_fire_none (s : State) (e : EWord) (fn : FireFn) (u : UnitAt) (r : Region)
    (h1 : s.actor = .unit u.core u.region u.cell u.router) (h2 : s.region u.core u.region = some r) (h3 : r.apart u.cell)
    (hf : fn s u r ((r.cell u.cell).unitState u.router) (r.inputs e) = none) : s.runUnit (State.fireStep e fn) = .next s := by
  have hs : State.fireStep e fn s u = none := by
    unfold State.fireStep
    rw [h2]
    dsimp only
    rw [hf]
  rw [s.runUnit_apart _ u r h1 h2 h3 (by rw [hs]; intro s1 h; cases h), hs]
  rfl

/-- A unit that has no firing changes nothing. -/
theorem State.runUnit_pure_none (s : State) (e : EWord) (fire : UnitState → Inputs → Option Fire) (u : UnitAt) (r : Region)
    (h1 : s.actor = .unit u.core u.region u.cell u.router) (h2 : s.region u.core u.region = some r) (h3 : r.apart u.cell)
    (hf : fire ((r.cell u.cell).unitState u.router) (r.inputs e) = none) : s.runUnit (pureStep e fire) = .next s := by
  have hs : pureStep e fire s u = none := by
    unfold pureStep State.fireStep
    rw [h2]
    dsimp only
    rw [hf]
    rfl
  rw [s.runUnit_apart _ u r h1 h2 h3 (by rw [hs]; intro s1 h; cases h), hs]
  rfl

end Sys2Proof.Machine
end

