-- ==== Sys2Proof/Laws/Shared.lean ====
section
/-! SUPPORT. Operations that many meanings share, each with what it can do said once: commands finished, records made ready, the
next iteration, events of the slices, lines installed, strands dropped. -/

namespace Sys2Proof.Machine

/-! ### Commands (R150, R152) -/

/-- A response put into a window leaves commands, memory and the host's side. -/
theorem State.windowPut_keeps (s : State) (core sid : Nat) (tag : BitVec 16) (r : Dword) : (s.windowPut core sid tag r).cmds = s.cmds ∧ (s.windowPut core sid tag r).mem = s.mem
    ∧ (s.windowPut core sid tag r).host = s.host := by
  unfold State.windowPut
  dsimp only
  split
  · exact ⟨rfl, rfl, rfl⟩
  · split
    · split
      · split <;> exact ⟨rfl, rfl, rfl⟩
      · exact ⟨rfl, rfl, rfl⟩
    · exact ⟨rfl, rfl, rfl⟩

/-- Answering what has finished only takes commands away. -/
theorem State.presentList_keeps : ∀ (l : List Command) (s : State), (∀ d ∈ (s.presentList l).cmds, d ∈ s.cmds) ∧ (s.presentList l).mem = s.mem ∧ (s.presentList l).host = s.host
  | [], s => ⟨fun _ h => h, rfl, rfl⟩
  | c :: t, s => by
    unfold State.presentList
    split
    · rename_i r _
      have key : ∀ s2 : State, s2.cmds = s.cmds.filter (fun x => decide (x.uid ≠ c.uid)) ∧ s2.mem = s.mem ∧ s2.host = s.host →
          (∀ d ∈ (s2.presentList t).cmds, d ∈ s.cmds) ∧ (s2.presentList t).mem = s.mem ∧ (s2.presentList t).host = s.host := by
        intro s2 h2
        have k := State.presentList_keeps t s2
        refine ⟨fun d hd => ?_, k.2.1.trans h2.2.1, k.2.2.trans h2.2.2⟩
        have := k.1 d hd
        rw [h2.1] at this
        exact (List.mem_filter.1 this).1
      dsimp only
      cases c.sid with
      | none => exact key _ ⟨rfl, rfl, rfl⟩
      | some sid => exact key _ ⟨(State.windowPut_keeps _ _ _ _ _).1, (State.windowPut_keeps _ _ _ _ _).2.1, (State.windowPut_keeps _ _ _ _ _).2.2⟩
    · exact ⟨fun _ h => h, rfl, rfl⟩

/-- A noted status leaves commands, memory and the host's side. -/
theorem State.noteStatus_keeps (s : State) (c : Command) (r : Dword) : (s.noteStatus c r).cmds = s.cmds ∧ (s.noteStatus c r).mem = s.mem ∧ (s.noteStatus c r).host = s.host := by
  unfold State.noteStatus; dsimp only; split <;> exact ⟨rfl, rfl, rfl⟩

/-- A command finished: what remains of its number is finished with that response, and no other command has changed. -/
theorem State.finishCommand_spec (s : State) (uid : Nat) (r : Dword) :
    (∀ d ∈ (s.finishCommand uid r).cmds, (d.uid = uid → d.stage = .done r) ∧ (d.uid ≠ uid → d ∈ s.cmds)) ∧ (s.finishCommand uid r).mem = s.mem ∧ (s.finishCommand uid r).host = s.host := by
  unfold State.finishCommand
  split
  · rename_i hf
    refine ⟨fun d hd => ⟨fun hu => ?_, fun _ => hd⟩, rfl, rfl⟩
    have := List.find?_eq_none.1 hf d hd
    simp [hu] at this
  · rename_i c hf
    dsimp only
    have p := State.presentList_keeps (State.streamOf (State.noteStatus { s with cmds := s.cmds.map fun (x : Command) => if x.uid = uid then { x with stage := .done r } else x } c r) c.stream)
      (State.noteStatus { s with cmds := s.cmds.map fun (x : Command) => if x.uid = uid then { x with stage := .done r } else x } c r)
    have n := State.noteStatus_keeps { s with cmds := s.cmds.map fun (x : Command) => if x.uid = uid then { x with stage := .done r } else x } c r
    refine ⟨fun d hd => ?_, p.2.1.trans n.2.1, p.2.2.trans n.2.2⟩
    have h1 := p.1 d hd
    rw [n.1] at h1
    obtain ⟨x, hx, e⟩ := List.mem_map.1 h1
    subst e
    split
    · rename_i hu; exact ⟨fun _ => rfl, fun h => absurd hu h⟩
    · rename_i hu; exact ⟨fun h => absurd h hu, fun _ => hx⟩

/-! ### Records and iterations (R289, R320) -/

/-- A record made ready: it alone changes, and its core's numbering. -/
theorem State.markReady_spec (s : State) (k : Nat) (f : Record → Record) :
    (s.markReady k f).mem = s.mem ∧ (s.markReady k f).strands = s.strands ∧ (∀ j, j ≠ k → (s.markReady k f).records.get? j = s.records.get? j)
      ∧ (∀ c, ((s.markReady k f).core c).preemption = (s.core c).preemption ∧ ((s.markReady k f).core c).out = (s.core c).out
            ∧ ((s.markReady k f).core c).frozen = (s.core c).frozen ∧ ((s.markReady k f).core c).iters = (s.core c).iters)
      ∧ (s.markReady k f).firn = s.firn
      ∧ (s.records.get? k = none → (s.markReady k f).records.get? k = none)
      ∧ (∀ r, s.records.get? k = some r → ∃ r', (s.markReady k f).records.get? k = some r'
          ∧ (r.ready = true → r' = f r) ∧ (r.ready = false → r' = { f r with ready := true, readyNo := r'.readyNo, readyTick := r'.readyTick, readyAt := r'.readyAt })) := by
  unfold State.markReady
  cases h : s.records.get? k with
  | none => exact ⟨rfl, rfl, fun _ _ => rfl, fun _ => ⟨rfl, rfl, rfl, rfl⟩, rfl, fun _ => h, fun r hr => by cases hr⟩
  | some r =>
    dsimp only
    split
    · next hr =>
      refine ⟨rfl, rfl, fun j hj => Tbl.get?_set_ne _ _ (Ne.symm hj), fun _ => ⟨rfl, rfl, rfl, rfl⟩, rfl, (fun h => by cases h), fun r1 h1 => ?_⟩
      cases h1
      refine ⟨f r, ?_, fun _ => rfl, fun h => by rw [h] at hr; cases hr⟩
      show (s.records.set k _).get? k = _
      rw [Tbl.get?_set_self]
    · next hr =>
      refine ⟨rfl, rfl, fun j hj => Tbl.get?_set_ne _ _ (Ne.symm hj), fun c => ?_, rfl, (fun h => by cases h), fun r1 h1 => ?_⟩
      · unfold State.bumpReady
        by_cases hc : k / 65536 = c
        · subst hc; rw [State.core_modCore]; exact ⟨rfl, rfl, rfl, rfl⟩
        · rw [State.core_modCore_ne _ _ hc]; exact ⟨rfl, rfl, rfl, rfl⟩
      · cases h1
        refine ⟨{ f r with ready := true, readyNo := (s.core (k / 65536)).readyNo, readyTick := s.tick, readyAt := s.tns }, ?_, fun h => absurd h hr, fun _ => rfl⟩
        show (s.records.set k _).get? k = _
        rw [Tbl.get?_set_self]

/-- Records made ready one after another. -/
theorem State.markReady_fold : ∀ (ks : List Nat) (s : State), let t := ks.foldl (fun (a : State) k => a.markReady k id) s
    t.mem = s.mem ∧ t.strands = s.strands ∧ t.firn = s.firn
      ∧ (∀ c, (t.core c).out = (s.core c).out ∧ (t.core c).frozen = (s.core c).frozen ∧ (t.core c).iters = (s.core c).iters)
      ∧ (∀ k, k ∉ ks → t.records.get? k = s.records.get? k)
      ∧ (∀ k r, s.records.get? k = some r → ∃ r', t.records.get? k = some r' ∧ r'.pc = r.pc ∧ (r.ready = true ∨ k ∈ ks → r'.ready = true))
  | [], s => ⟨rfl, rfl, rfl, fun _ => ⟨rfl, rfl, rfl⟩, fun _ _ => rfl, fun k r h => ⟨r, h, rfl, fun h => h.elim id (fun h => by cases h)⟩⟩
  | k :: ks, s => by
    intro t
    have m := State.markReady_spec s k id
    obtain ⟨a1, a2, a3, a4, a5, a6⟩ := State.markReady_fold ks (s.markReady k id)
    refine ⟨a1.trans m.1, a2.trans m.2.1, a3.trans m.2.2.2.2.1, fun c => ?_, fun j hj => ?_, fun j r hr => ?_⟩
    · have := m.2.2.2.1 c
      exact ⟨(a4 c).1.trans this.2.1, (a4 c).2.1.trans this.2.2.1, (a4 c).2.2.trans this.2.2.2⟩
    · have hj : j ≠ k ∧ j ∉ ks := by simpa using hj
      exact (a5 j hj.2).trans (m.2.2.1 j hj.1)
    · by_cases hjk : j = k
      · subst hjk
        obtain ⟨r1, b1, b2, b3⟩ := m.2.2.2.2.2.2 r hr
        obtain ⟨r2, d1, d2, d3⟩ := a6 j r1 b1
        have hpc : r1.pc = r.pc ∧ r1.ready = true := by
          cases hh : r.ready with
          | true => rw [b2 hh]; exact ⟨rfl, hh⟩
          | false => rw [b3 hh]; exact ⟨rfl, rfl⟩
        exact ⟨r2, d1, d2.trans hpc.1, fun _ => d3 (.inl hpc.2)⟩
      · have : (s.markReady k id).records.get? j = some r := (m.2.2.1 j hjk).trans hr
        obtain ⟨r2, d1, d2, d3⟩ := a6 j r this
        refine ⟨r2, d1, d2, fun h => d3 ?_⟩
        rcases h with h | h
        · exact .inl h
        · rcases List.mem_cons.1 h with h | h
          · exact absurd h hjk
          · exact .inr h

/-- With no iteration on the core, none begins. -/
theorem State.nextIter_nil (s : State) (core : Nat) (h : (s.core core).iters = []) : s.nextIter core = s.modCore core CoreState.rankIters ∧ (s.core core).rankIters = s.core core := by
  have h1 : s.iter core = none := by unfold State.iter; rw [h]; rfl
  have h2 : (s.core core).rankIters = s.core core := by unfold CoreState.rankIters; rw [h]; rfl
  refine ⟨?_, h2⟩
  unfold State.nextIter
  rw [h1]
  dsimp only
  rw [if_neg (by simp)]
  have h3 : (s.modCore core CoreState.rankIters).iter core = none := by
    unfold State.iter; rw [State.core_modCore, h2, h]; rfl
  rw [h3]

/-- Strands dropped leave memory, events and schedules. -/
theorem State.dropStrands_spec : ∀ (l : List Nat) (s : State), (s.dropStrands l).mem = s.mem ∧ (s.dropStrands l).rimes = s.rimes ∧ (s.dropStrands l).sched = s.sched
    ∧ ∀ x ∈ (s.dropStrands l).strands, x ∈ s.strands ∧ x.1 ∉ l
  | [], s => ⟨rfl, rfl, rfl, fun x h => ⟨h, by simp⟩⟩
  | k :: t, s => by
    obtain ⟨a, b, b2, c⟩ := State.dropStrands_spec t (s.dropStrand k)
    unfold State.dropStrands
    refine ⟨a, b, b2, fun x hx => ?_⟩
    obtain ⟨c1, c2⟩ := c x hx
    have c1 : x ∈ s.strands.erase k := c1
    have er : ∀ (m : Tbl Strand), x ∈ m.erase k → x ∈ m ∧ x.1 ≠ k := by
      intro m
      induction m with
      | nil => intro h; cases h
      | cons y m ih =>
        obtain ⟨p, q⟩ := y
        intro h
        unfold Tbl.erase at h
        split at h
        · have := ih h; exact ⟨List.mem_cons_of_mem _ this.1, this.2⟩
        · rename_i hne
          rcases List.mem_cons.1 h with h | h
          · subst h; exact ⟨by simp, hne⟩
          · have := ih h; exact ⟨List.mem_cons_of_mem _ this.1, this.2⟩
    have := er _ c1
    exact ⟨this.1, by simp [this.2, c2]⟩

/-! ### Events (R90 to R92) -/

/-- Where no slice has a handler, no event is taken. -/
theorem State.handlerFor_none (s : State) (h : s.rimes = []) (sl k ctx va) : s.handlerFor sl k ctx va = none := by
  unfold State.handlerFor State.rime
  rw [h]
  dsimp only
  rw [List.find?_eq_none]
  intro i _
  simp [Tbl.getD, Tbl.get?]

theorem State.messageEvent_none (s : State) (h : s.rimes = []) (line ctx va mask) : s.messageEvent line ctx va mask = s := by
  unfold State.messageEvent; dsimp only; rw [State.handlerFor_none s h]

theorem State.evictingLine_none (s : State) (h : s.rimes = []) (line : Nat) : s.evictingLine line = false := by
  unfold State.evictingLine State.rime; rw [h]; rfl

theorem State.evictEvent_none (s : State) (h : s.rimes = []) (x : SliceLine) : s.evictEvent x = s := by
  unfold State.evictEvent; dsimp only; rw [State.handlerFor_none s h]

/-- The state but for the slices' lines and fills and the counter of free values. -/
def State.LinesOnly (s t : State) : Prop := t = { s with fresh := t.fresh, slice := { s.slice with lines := t.slice.lines, fills := t.slice.fills } }

/-- Room made where no slice has a handler. -/
theorem State.makeRoom_linesOnly (s : State) (h : s.rimes = []) (line : Nat) : s.makeRoom line = { s with fresh := (s.makeRoom line).fresh, slice := { s.slice with lines := (s.makeRoom line).slice.lines } } := by
  unfold State.makeRoom; dsimp only
  split
  · rfl
  · split
    · rfl
    · rw [State.evictEvent_none _ (by exact h)]; rfl

/-- A line installed where no slice has a handler: it is resident, and its fill has ended. -/
theorem State.installLine_linesOnly (s : State) (h : s.rimes = []) (line ctx : Nat) (va : Dword) (d : Bool) :
    State.LinesOnly s (s.installLine line ctx va d) ∧ (s.installLine line ctx va d).resident line = true
      ∧ (s.installLine line ctx va d).slice.fills = s.slice.fills.filter (fun x => decide (x.line ≠ line)) := by
  unfold State.installLine; dsimp only
  split
  · rename_i hr
    split
    · refine ⟨rfl, ?_, rfl⟩
      unfold State.resident at hr ⊢
      rw [List.any_eq_true] at hr ⊢
      obtain ⟨x, h1, h2⟩ := hr
      refine ⟨if x.line = line then { x with dirty := true } else x, List.mem_map.2 ⟨x, h1, rfl⟩, ?_⟩
      split <;> exact h2
    · exact ⟨rfl, hr, rfl⟩
  · have := State.makeRoom_linesOnly (s.setSlice { s.slice with fills := s.slice.fills.filter (fun x => decide (x.line ≠ line)) }) h line
    refine ⟨?_, ?_, ?_⟩
    · unfold State.LinesOnly; rw [this]; rfl
    · show List.any (_ :: _) _ = true
      simp
    · rw [this]; rfl

theorem State.setRime_same (s : State) (n : Nat) (r : Rime) : s.SameButEvents (s.setRime n r) := State.SameButStores.events rfl

theorem State.reportDrop_same (s : State) (sl : Nat) (ev : RimeEvent) : s.SameButEvents (s.reportDrop sl ev) := by
  unfold State.reportDrop
  dsimp only
  split
  · split
    · exact State.setRime_same _ _ _
    · exact (State.setRime_same _ _ _).trans (State.ringWrite_same _ _ _ _)
  · exact (State.setRime_same _ _ _).trans (State.ringWrite_same _ _ _ _)

theorem State.messageEvent_same (s : State) (l ctx : Nat) (va : Dword) (m : LineMask) : s.SameButEvents (s.messageEvent l ctx va m) := by
  unfold State.messageEvent
  dsimp only
  split
  · exact .refl _
  · split
    · exact State.setRime_same _ _ _
    · exact State.reportDrop_same _ _ _

theorem State.messages_same (ctx : Nat) : ∀ (ps : List (Nat × Nat × Nat)) (s : State), s.SameButEvents (s.messages ctx ps)
  | [], s => .refl _
  | (va, pa, n) :: t, s => by
    unfold State.messages
    split
    · exact (State.messageEvent_same _ _ _ _ _).trans (State.messages_same ctx t _)
    · exact State.messages_same ctx t s

/-- An agent's write leaves all but stores and events. -/
theorem State.agentWrite_same {s t : State} {ctx va : Nat} {bs : List Byte} (h : s.agentWrite ctx va bs = .ok t) : s.SameButEvents t := by
  unfold State.agentWrite at h
  split at h
  · cases h
  · cases h; exact (State.storePieces_same _ _ _).events.trans (State.messages_same _ _ _)

end Sys2Proof.Machine
end

