-- ==== Sys2Proof/Laws/View.lean ====
section
/-! SUPPORT. What the engines' reads depend on: memory, contexts, slices and the host's side, and nothing else of the machine. -/

namespace Sys2Proof.Machine

/-- Two machines that an engine's read cannot tell apart. -/
structure SameView (s t : State) : Prop where
  mem : t.mem = s.mem
  ctxs : t.ctxs = s.ctxs
  slice : t.slice = s.slice
  host : t.host = s.host

variable {s t : State}

theorem SameView.walkFrom (h : SameView s t) (va l : Nat) : ∀ a, t.walkFrom va l a = s.walkFrom va l a := by
  induction l with
  | zero => intro a; rfl
  | succ l ih =>
    intro a
    have hp : ∀ n, t.linePoisoned n = s.linePoisoned n := fun n => by unfold State.linePoisoned; rw [h.slice]
    simp only [State.walkFrom, h.mem, hp, ih]

theorem SameView.walkVa (h : SameView s t) (ctx va : Nat) : t.walkVa ctx va = s.walkVa ctx va := by
  have hc : t.ctx ctx = s.ctx ctx := by unfold State.ctx; rw [h.ctxs]
  unfold State.walkVa
  rw [h.walkFrom, hc, h.host]

theorem SameView.engineXlat (h : SameView s t) (ctx va : Nat) (acc : Access) : t.engineXlat ctx va acc = s.engineXlat ctx va acc := by
  unfold State.engineXlat; rw [h.walkVa]

theorem SameView.enginePieces (h : SameView s t) (ctx : Nat) (acc : Access) (l : List (Nat × Nat)) :
    t.enginePieces ctx acc l = s.enginePieces ctx acc l := by
  induction l with
  | nil => rfl
  | cons x l ih => simp only [State.enginePieces, h.engineXlat, ih]

theorem SameView.engineRange (h : SameView s t) (ctx va n : Nat) (acc : Access) :
    t.engineRange ctx va n acc = s.engineRange ctx va n acc := h.enginePieces ctx acc _

theorem SameView.poisoned (h : SameView s t) (pa n : Nat) : t.poisoned pa n = s.poisoned pa n := by
  unfold State.poisoned; rw [h.slice]

theorem SameView.engineRead (h : SameView s t) (ctx va n : Nat) : t.engineRead ctx va n = s.engineRead ctx va n := by
  unfold State.engineRead; simp only [h.engineRange, h.poisoned, h.mem]

theorem SameView.engineDwords (h : SameView s t) (ctx va n : Nat) : t.engineDwords ctx va n = s.engineDwords ctx va n := by
  unfold State.engineDwords; rw [h.engineRead]

/-! ### Grammar images -/

theorem SameView.gramHdr (h : SameView s t) (ctx base : Nat) : t.gramHdr ctx base = s.gramHdr ctx base := by
  unfold State.gramHdr State.gramRead; rw [h.engineDwords]

theorem SameView.gramState (h : SameView s t) (ctx : Nat) (g : GramHdr) (n : Nat) : t.gramState ctx g n = s.gramState ctx g n := by
  unfold State.gramState State.gramRead; rw [h.engineDwords]

theorem SameView.gramTrans (h : SameView s t) (ctx : Nat) (g : GramHdr) (n : Nat) : t.gramTrans ctx g n = s.gramTrans ctx g n := by
  unfold State.gramTrans State.gramRead; rw [h.engineDwords]

theorem SameView.gramChecks (h : SameView s t) (ctx : Nat) (g : GramHdr) (x : GramState) :
    t.gramChecks ctx g x = s.gramChecks ctx g x := by
  unfold State.gramChecks; rw [h.engineRead]

theorem SameView.findTrans (h : SameView s t) (ctx : Nat) (g : GramHdr) (tok n : Nat) :
    ∀ lo hi, t.findTrans ctx g tok n lo hi = s.findTrans ctx g tok n lo hi := by
  induction n with
  | zero => intro lo hi; rfl
  | succ n ih => intro lo hi; simp only [State.findTrans, h.gramTrans, ih]

theorem SameView.gramStep (h : SameView s t) (g : Gram) (tok : Nat) : t.gramStep g tok = s.gramStep g tok := by
  unfold State.gramStep; simp only [h.gramHdr, h.gramState, h.findTrans, h.gramChecks]

theorem SameView.maskChecks (h : SameView s t) (g : Gram) (hd : GramHdr) (l : List Nat) :
    ∀ m, t.maskChecks g hd m l = s.maskChecks g hd m l := by
  induction l with
  | nil => intro m; rfl
  | cons i l ih => intro m; simp only [State.maskChecks, h.gramTrans, ih]

theorem SameView.gramMask (h : SameView s t) (g : Gram) : t.gramMask g = s.gramMask g := by
  unfold State.gramMask; simp only [h.gramHdr, h.gramState, h.engineRead, h.gramChecks, h.maskChecks]

end Sys2Proof.Machine
end

