-- ==== Sys2Proof/Tests/Slice0.lean ====
section
/-! SUPPORT. Tests: decoding on words written out from the encodings (R24 to R45); values and effects worked out from the spec's rules;
for each statement with hypotheses a named witness that meets them; an ill-formed term for each check of WellFormed. -/

namespace Sys2Proof.Tests

-- one theorem checked at a time
set_option Elab.async false

open Sys2Proof Sys2Proof.Machine

/-! ### Small states -/

/-- The part running, with a strand of context 1 resident in core 0 that has the turn. -/
def strandState (st : Strand) : State :=
  { State.reset.withFetchWord 32 0 with actor := .strand 0, agenda := [], strands := [(0, { st with place := .resident 0 })] }

/-- A task-mode strand of context 1 with a handler at 0x100, g1 to g4 given. -/
def worker (g1 g2 g3 g4 : Dword) : Strand :=
  { ctx := 1, pc := 0x1_0000, tvec := 0x100,
    regs := (((((Vector.replicate 32 0).set 1 g1).set 2 g2).set 3 g3).set 4 g4) }

/-- The outcome's strand, where the outcome is a next state. -/
def nextMe (o : Out) : Option Strand :=
  match o with
  | .next t => some t.me
  | _ => none

/-- A register of the outcome's strand. -/
def nextG (o : Out) (n : BitVec 5) : Option Dword := (nextMe o).map (·.g n)

/-- The PC of the outcome's strand. -/
def nextPc (o : Out) : Option Dword := (nextMe o).map (·.pc)

/-- Whether an answer is a value given, or an error given. -/
def isOkOf {ε α : Type} [DecidableEq α] (x : Except ε α) (a : α) : Bool :=
  match x with
  | .ok b => decide (b = a)
  | .error _ => false
def isErrOf {ε α : Type} [DecidableEq ε] (x : Except ε α) (e : ε) : Bool :=
  match x with
  | .error b => decide (b = e)
  | .ok _ => false
theorem ok_of {ε α : Type} [DecidableEq α] {x : Except ε α} {a : α} (h : isOkOf x a = true) : x = .ok a := by
  cases x with
  | ok b => exact congrArg _ (of_decide_eq_true h)
  | error e => cases h
theorem err_of {ε α : Type} [DecidableEq ε] {x : Except ε α} {e : ε} (h : isErrOf x e = true) : x = .error e := by
  cases x with
  | error b => exact congrArg _ (of_decide_eq_true h)
  | ok e => cases h
theorem some_ok {ε α : Type} {x : Except ε α} (h : x.toOption.isSome = true) : ∃ a, x = .ok a := by
  cases x with
  | ok a => exact ⟨a, rfl⟩
  | error e => cases h

theorem test_decode_strand_0 :
    decodeTableWord 32 0x00A6_4801 = some (.add 5 6 9)
      ∧ decodeTableWord 32 0x00A6_4802 = some (.sub 5 6 9)
      ∧ decodeTableWord 32 0x00A6_4803 = some (.and 5 6 9)
      ∧ decodeTableWord 32 0x00A6_4804 = some (.or 5 6 9)
      ∧ decodeTableWord 32 0x00A6_4805 = some (.xor 5 6 9)
      ∧ decodeTableWord 32 0x00A6_4806 = some (.shl 5 6 9)
      ∧ decodeTableWord 32 0x00A6_4807 = some (.shr 5 6 9)
      ∧ decodeTableWord 32 0x00A6_4808 = some (.sra 5 6 9)
      ∧ decodeTableWord 32 0x00A6_4809 = some (.mul 5 6 9)
      ∧ decodeTableWord 32 0x00A6_480A = some (.mulh 5 6 9)
      ∧ decodeTableWord 32 0x00A6_480B = some (.mulhu 5 6 9)
      ∧ decodeTableWord 32 0x00A6_480C = some (.div 5 6 9)
      ∧ decodeTableWord 32 0x00A6_480D = some (.divu 5 6 9) := by decide

theorem test_decode_strand_1 :
    decodeTableWord 32 0x00A6_480E = some (.rem 5 6 9)
      ∧ decodeTableWord 32 0x00A6_480F = some (.remu 5 6 9)
      ∧ decodeTableWord 32 0x00A6_4810 = some (.min 5 6 9)
      ∧ decodeTableWord 32 0x00A6_4811 = some (.max 5 6 9)
      ∧ decodeTableWord 32 0x00A6_4812 = some (.minu 5 6 9)
      ∧ decodeTableWord 32 0x00A6_4813 = some (.maxu 5 6 9)
      ∧ decodeTableWord 32 0x00A6_4814 = some (.slt 5 6 9)
      ∧ decodeTableWord 32 0x00A6_4815 = some (.sltu 5 6 9)
      ∧ decodeTableWord 32 0x00A6_0016 = some (.clz 5 6)
      ∧ decodeTableWord 32 0x00A6_0017 = some (.popc 5 6)
      ∧ decodeTableWord 32 0x00A6_4C01 = some (.addW 5 6 9)
      ∧ decodeTableWord 32 0x00A6_4C02 = some (.subW 5 6 9)
      ∧ decodeTableWord 32 0x00A6_4C03 = some (.andW 5 6 9) := by decide

theorem test_decode_strand_2 :
    decodeTableWord 32 0x00A6_4C04 = some (.orW 5 6 9)
      ∧ decodeTableWord 32 0x00A6_4C05 = some (.xorW 5 6 9)
      ∧ decodeTableWord 32 0x00A6_4C06 = some (.shlW 5 6 9)
      ∧ decodeTableWord 32 0x00A6_4C07 = some (.shrW 5 6 9)
      ∧ decodeTableWord 32 0x00A6_4C08 = some (.sraW 5 6 9)
      ∧ decodeTableWord 32 0x00A6_4C09 = some (.mulW 5 6 9)
      ∧ decodeTableWord 32 0x04A6_8123 = some (.addi 5 6 0x8123)
      ∧ decodeTableWord 32 0x08A6_8123 = some (.andi 5 6 0x8123)
      ∧ decodeTableWord 32 0x0CA6_8123 = some (.ori 5 6 0x8123)
      ∧ decodeTableWord 32 0x10A6_8123 = some (.xori 5 6 0x8123)
      ∧ decodeTableWord 32 0x14A6_002B = some (.shli 5 6 0x2b)
      ∧ decodeTableWord 32 0x14A6_006B = some (.shri 5 6 0x2b)
      ∧ decodeTableWord 32 0x14A6_00AB = some (.srai 5 6 0x2b) := by decide

theorem test_decode_strand_3 :
    decodeTableWord 32 0x18A6_8123 = some (.slti 5 6 0x8123)
      ∧ decodeTableWord 32 0x1CA6_8123 = some (.sltiu 5 6 0x8123)
      ∧ decodeTableWord 32 0x20A6_8123 = some (.lih 5 6 0x8123)
      ∧ decodeTableWord 32 0x24A0_8123 = some (.addpc 5 0x8123)
      ∧ decodeTableWord 32 0x28BA_BCDE = some (.jal 5 0x1abcde)
      ∧ decodeTableWord 32 0x2CA6_8123 = some (.jalr 5 6 0x8123)
      ∧ decodeTableWord 32 0x30C9_FFFE = some (.beq 6 9 0xfffe)
      ∧ decodeTableWord 32 0x34C9_FFFE = some (.bne 6 9 0xfffe)
      ∧ decodeTableWord 32 0x38C9_FFFE = some (.blt 6 9 0xfffe)
      ∧ decodeTableWord 32 0x3CC9_FFFE = some (.bge 6 9 0xfffe)
      ∧ decodeTableWord 32 0x40C9_FFFE = some (.bltu 6 9 0xfffe)
      ∧ decodeTableWord 32 0x44C9_FFFE = some (.bgeu 6 9 0xfffe)
      ∧ decodeTableWord 32 0x4806_0456 = some (.loop 6 0x456) := by decide

theorem test_decode_strand_4 :
    decodeTableWord 32 0x4C06_0000 = some (.rep 6)
      ∧ decodeTableWord 32 0x4C00_0456 = some (.repImm 0x456)
      ∧ decodeTableWord 32 0x50A6_8123 = some (.ldb 5 6 0x8123)
      ∧ decodeTableWord 32 0x54A6_8123 = some (.ldbu 5 6 0x8123)
      ∧ decodeTableWord 32 0x58A6_8123 = some (.ldh 5 6 0x8123)
      ∧ decodeTableWord 32 0x5CA6_8123 = some (.ldhu 5 6 0x8123)
      ∧ decodeTableWord 32 0x60A6_8123 = some (.ldw 5 6 0x8123)
      ∧ decodeTableWord 32 0x64A6_8123 = some (.ldwu 5 6 0x8123)
      ∧ decodeTableWord 32 0x68A6_8123 = some (.ldd 5 6 0x8123)
      ∧ decodeTableWord 32 0x6CA6_8123 = some (.stb 5 6 0x8123)
      ∧ decodeTableWord 32 0x70A6_8123 = some (.sth 5 6 0x8123)
      ∧ decodeTableWord 32 0x74A6_8123 = some (.stw 5 6 0x8123)
      ∧ decodeTableWord 32 0x78A6_8123 = some (.std 5 6 0x8123) := by decide

theorem test_decode_strand_5 :
    decodeTableWord 32 0x7C06_0001 = some (.pf 6)
      ∧ decodeTableWord 32 0x7C06_0002 = some (.flsh 6)
      ∧ decodeTableWord 32 0x7C06_0003 = some (.invl 6)
      ∧ decodeTableWord 32 0x7CA6_0004 = some (.pin 5 6)
      ∧ decodeTableWord 32 0x7CA6_0005 = some (.unpin 5 6)
      ∧ decodeTableWord 32 0x7CA6_0006 = some (.lock 5 6)
      ∧ decodeTableWord 32 0x7CA6_0007 = some (.unlock 5 6)
      ∧ decodeTableWord 32 0x80A6_4850 = some (.atomAdd 5 6 9 2 1)
      ∧ decodeTableWord 32 0x80A6_4851 = some (.atomAnd 5 6 9 2 1)
      ∧ decodeTableWord 32 0x80A6_4852 = some (.atomOr 5 6 9 2 1)
      ∧ decodeTableWord 32 0x80A6_4853 = some (.atomXor 5 6 9 2 1)
      ∧ decodeTableWord 32 0x80A6_4854 = some (.atomMin 5 6 9 2 1)
      ∧ decodeTableWord 32 0x80A6_4855 = some (.atomMax 5 6 9 2 1) := by decide

theorem test_decode_strand_6 :
    decodeTableWord 32 0x80A6_4856 = some (.atomMinu 5 6 9 2 1)
      ∧ decodeTableWord 32 0x80A6_4857 = some (.atomMaxu 5 6 9 2 1)
      ∧ decodeTableWord 32 0x80A6_4858 = some (.atomSwp 5 6 9 2 1)
      ∧ decodeTableWord 32 0x80A6_4859 = some (.atomCas 5 6 9 2 1)
      ∧ decodeTableWord 32 0x8400_0001 = some (.fenceLd 1)
      ∧ decodeTableWord 32 0x8400_0005 = some (.fenceSt 1)
      ∧ decodeTableWord 32 0x8400_0009 = some (.fenceAll 1)
      ∧ decodeTableWord 32 0x8400_000D = some (.fenceEng 1)
      ∧ decodeTableWord 32 0x88A6_4800 = some (.ldvEq 5 6 9)
      ∧ decodeTableWord 32 0x88A6_4801 = some (.ldvGe 5 6 9)
      ∧ decodeTableWord 32 0x8CA6_8123 = some (.stv 5 6 0x8123)
      ∧ decodeTableWord 32 0x9006_4800 = some (.rclm 6 9)
      ∧ decodeTableWord 32 0x94A6_4801 = some (.fork 5 6 9) := by decide

theorem test_decode_strand_7 :
    decodeTableWord 32 0x9400_0002 = some (.join)
      ∧ decodeTableWord 32 0x9400_0003 = some (.endStrand)
      ∧ decodeTableWord 32 0x9400_0004 = some (.yield)
      ∧ decodeTableWord 32 0x98A6_4800 = some (.scmd 5 6 9)
      ∧ decodeTableWord 32 0x9CA6_4800 = some (.scml 5 6 9)
      ∧ decodeTableWord 32 0xA0A6_0000 = some (.resp 5 6)
      ∧ decodeTableWord 32 0xA406_5801 = some (.pwr 6 11)
      ∧ decodeTableWord 32 0xA426_5801 = some (.pwrS 6 11)
      ∧ decodeTableWord 32 0xA466_5801 = some (.pwrSl 6 11)
      ∧ decodeTableWord 32 0xA4A0_5802 = some (.prd 5 11)
      ∧ decodeTableWord 32 0xA400_5803 = some (.aclr 11)
      ∧ decodeTableWord 32 0xA8A6_0001 = some (.ereg 5 6)
      ∧ decodeTableWord 32 0xA8A6_0002 = some (.enew 5 6) := by decide

theorem test_decode_strand_8 :
    decodeTableWord 32 0xA8A6_4803 = some (.eapp 5 6 9)
      ∧ decodeTableWord 32 0xA8A6_4804 = some (.ecur 5 6 9)
      ∧ decodeTableWord 32 0xA8A6_4805 = some (.eseek 5 6 9)
      ∧ decodeTableWord 32 0xA8A6_4806 = some (.ecfg 5 6 9)
      ∧ decodeTableWord 32 0xA8A6_4807 = some (.eplay 5 6 9)
      ∧ decodeTableWord 32 0xA8A6_0008 = some (.ebranch 5 6)
      ∧ decodeTableWord 32 0xA8A6_0009 = some (.ecopy 5 6)
      ∧ decodeTableWord 32 0xA8A6_480A = some (.esplice 5 6 9)
      ∧ decodeTableWord 32 0xA8A6_480B = some (.ecalve 5 6 9)
      ∧ decodeTableWord 32 0xA8A6_480C = some (.epos 5 6 9)
      ∧ decodeTableWord 32 0xA8A6_480D = some (.efree 5 6 9)
      ∧ decodeTableWord 32 0xACA6_0001 = some (.ginit 5 6)
      ∧ decodeTableWord 32 0xACA6_4802 = some (.gstep 5 6 9) := by decide

theorem test_decode_strand_9 :
    decodeTableWord 32 0xACA6_4803 = some (.gmask 5 6 9)
      ∧ decodeTableWord 32 0xACA6_0004 = some (.gfork 5 6)
      ∧ decodeTableWord 32 0xACA6_0005 = some (.gsnap 5 6)
      ∧ decodeTableWord 32 0xACA6_4806 = some (.groll 5 6 9)
      ∧ decodeTableWord 32 0xACA6_4807 = some (.gfree 5 6 9)
      ∧ decodeTableWord 32 0xB0A6_0001 = some (.iter 5 6)
      ∧ decodeTableWord 32 0xB0A6_4802 = some (.hrel 5 6 9)
      ∧ decodeTableWord 32 0xB0A6_4803 = some (.hdrop 5 6 9)
      ∧ decodeTableWord 32 0xB0A6_4804 = some (.hpeek 5 6 9)
      ∧ decodeTableWord 32 0xB4A6_48A1 = some (.fadd 5 6 9 2 1)
      ∧ decodeTableWord 32 0xB4A6_48A2 = some (.fsub 5 6 9 2 1)
      ∧ decodeTableWord 32 0xB4A6_48A3 = some (.fmul 5 6 9 2 1)
      ∧ decodeTableWord 32 0xB4A6_48A4 = some (.fdiv 5 6 9 2 1) := by decide

theorem test_decode_strand_10 :
    decodeTableWord 32 0xB4A6_00A5 = some (.fsqrt 5 6 2 1)
      ∧ decodeTableWord 32 0xB4A6_4826 = some (.fmin 5 6 9 1)
      ∧ decodeTableWord 32 0xB4A6_4827 = some (.fmax 5 6 9 1)
      ∧ decodeTableWord 32 0xB4A6_48A8 = some (.ffma 5 6 9 2 1)
      ∧ decodeTableWord 32 0xB4A6_4829 = some (.feq 5 6 9 1)
      ∧ decodeTableWord 32 0xB4A6_482A = some (.flt 5 6 9 1)
      ∧ decodeTableWord 32 0xB4A6_482B = some (.fle 5 6 9 1)
      ∧ decodeTableWord 32 0xB4A6_002D = some (.fclass 5 6 1)
      ∧ decodeTableWord 32 0xB4A6_00AC = some (.fcvtFloat 5 6 2 1)
      ∧ decodeTableWord 32 0xB4A6_08AC = some (.fcvtFromL 5 6 2 1)
      ∧ decodeTableWord 32 0xB4A6_10AC = some (.fcvtFromLu 5 6 2 1)
      ∧ decodeTableWord 32 0xB4A6_18AC = some (.fcvtToL 5 6 2 1)
      ∧ decodeTableWord 32 0xB4A6_20AC = some (.fcvtToLu 5 6 2 1) := by decide

theorem test_decode_strand_11 :
    decodeTableWord 32 0xB4A6_28AC = some (.fcvtToW 5 6 2 1)
      ∧ decodeTableWord 32 0xB4A6_30AC = some (.fcvtToWu 5 6 2 1)
      ∧ decodeTableWord 32 0xF8A0_100C = some (.csrr 5 12)
      ∧ decodeTableWord 32 0xF8A6_2007 = some (.csrw 5 6 7)
      ∧ decodeTableWord 32 0xF8A6_3007 = some (.csrs 5 6 7)
      ∧ decodeTableWord 32 0xF8A6_4007 = some (.csrc 5 6 7)
      ∧ decodeTableWord 32 0xF800_5ABC = some (.trap 0xabc)
      ∧ decodeTableWord 32 0xF800_6000 = some (.eret)
      ∧ decodeTableWord 32 0xF800_7000 = some (.brk)
      ∧ decodeTableWord 32 0xF800_8000 = some (.nop) := by decide

theorem test_decode_element_0 :
    (decodeElement 0x0140_0102_FF04_FF00 0).toOption = some (.vadd ⟨4, false, false, 0, 1, 2, 255, 4, 255, 0, 0⟩)
      ∧ (decodeElement 0x0228_01FF_FF04_FF00 100).toOption = some (.vsub ⟨2, true, false, 0, 1, 255, 255, 4, 255, 0, 100⟩)
      ∧ (decodeElement 0x0314_0102_FF04_FF00 0).toOption = some (.vmul ⟨1, false, true, 0, 1, 2, 255, 4, 255, 0, 0⟩)
      ∧ (decodeElement 0x0440_0102_FF04_FF00 0).toOption = some (.vmulh ⟨4, false, false, 0, 1, 2, 255, 4, 255, 0, 0⟩)
      ∧ (decodeElement 0x0524_0102_0304_FF00 0).toOption = some (.vmad ⟨2, false, true, 0, 1, 2, 3, 4, 255, 0, 0⟩)
      ∧ (decodeElement 0x0640_0102_FF04_FF00 0).toOption = some (.vmin ⟨4, false, false, 0, 1, 2, 255, 4, 255, 0, 0⟩)
      ∧ (decodeElement 0x0740_0102_FF04_FF00 0).toOption = some (.vmax ⟨4, false, false, 0, 1, 2, 255, 4, 255, 0, 0⟩)
      ∧ (decodeElement 0x0804_01FF_FF04_FF00 0).toOption = some (.vabs ⟨0, false, true, 0, 1, 255, 255, 4, 255, 0, 0⟩)
      ∧ (decodeElement 0x0904_01FF_FF04_FF00 0).toOption = some (.vneg ⟨0, false, true, 0, 1, 255, 255, 4, 255, 0, 0⟩) := by decide

theorem test_decode_element_1 :
    (decodeElement 0x0A40_0102_FF04_FF00 0).toOption = some (.vand ⟨4, false, false, 0, 1, 2, 255, 4, 255, 0, 0⟩)
      ∧ (decodeElement 0x0B40_0102_FF04_FF00 0).toOption = some (.vor ⟨4, false, false, 0, 1, 2, 255, 4, 255, 0, 0⟩)
      ∧ (decodeElement 0x0C40_0102_FF04_FF00 0).toOption = some (.vxor ⟨4, false, false, 0, 1, 2, 255, 4, 255, 0, 0⟩)
      ∧ (decodeElement 0x0D70_01FF_FF04_FF00 0).toOption = some (.vnot ⟨7, false, false, 0, 1, 255, 255, 4, 255, 0, 0⟩)
      ∧ (decodeElement 0x0E14_0102_FF04_FF00 0).toOption = some (.vshl ⟨1, false, true, 0, 1, 2, 255, 4, 255, 0, 0⟩)
      ∧ (decodeElement 0x0F40_0102_FF04_FF00 0).toOption = some (.vshr ⟨4, false, false, 0, 1, 2, 255, 4, 255, 0, 0⟩)
      ∧ (decodeElement 0x1040_0102_FF04_FF00 0).toOption = some (.vsra ⟨4, false, false, 0, 1, 2, 255, 4, 255, 0, 0⟩)
      ∧ (decodeElement 0x1128_01FF_FF04_FF00 429496729610).toOption = some (.vclip ⟨2, true, false, 0, 1, 255, 255, 4, 255, 0, 429496729610⟩)
      ∧ (decodeElement 0x1240_0102_FF04_FF00 0).toOption = some (.vadds ⟨4, false, false, 0, 1, 2, 255, 4, 255, 0, 0⟩) := by decide

theorem test_decode_element_2 :
    (decodeElement 0x1340_0102_FF04_FF00 0).toOption = some (.vsubs ⟨4, false, false, 0, 1, 2, 255, 4, 255, 0, 0⟩)
      ∧ (decodeElement 0x1430_0102_FF04_FF05 0).toOption = some (.vcmp ⟨3, false, false, 0, 1, 2, 255, 4, 255, 5, 0⟩)
      ∧ (decodeElement 0x15F0_0102_0304_FF00 0).toOption = some (.vsel ⟨15, false, false, 0, 1, 2, 3, 4, 255, 0, 0⟩)
      ∧ (decodeElement 0x1620_0102_FF04_FF02 0).toOption = some (.vval ⟨2, false, false, 0, 1, 2, 255, 4, 255, 2, 0⟩)
      ∧ (decodeElement 0x1720_01FF_0304_FF04 0).toOption = some (.vscan ⟨2, false, false, 0, 1, 255, 3, 4, 255, 4, 0⟩)
      ∧ (decodeElement 0x20C7_0102_FF04_FF00 0).toOption = some (.fvadd ⟨12, false, true, 3, 1, 2, 255, 4, 255, 0, 0⟩)
      ∧ (decodeElement 0x21C7_0102_FF04_FF00 0).toOption = some (.fvsub ⟨12, false, true, 3, 1, 2, 255, 4, 255, 0, 0⟩)
      ∧ (decodeElement 0x22C7_0102_FF04_FF00 0).toOption = some (.fvmul ⟨12, false, true, 3, 1, 2, 255, 4, 255, 0, 0⟩)
      ∧ (decodeElement 0x23C1_0102_0304_FF00 0).toOption = some (.fvfma ⟨12, false, false, 1, 1, 2, 3, 4, 255, 0, 0⟩) := by decide

theorem test_decode_element_3 :
    (decodeElement 0x24B0_0102_FF04_FF00 0).toOption = some (.fvmin ⟨11, false, false, 0, 1, 2, 255, 4, 255, 0, 0⟩)
      ∧ (decodeElement 0x25B0_0102_FF04_FF00 0).toOption = some (.fvmax ⟨11, false, false, 0, 1, 2, 255, 4, 255, 0, 0⟩)
      ∧ (decodeElement 0x26A6_01FF_FF04_FF00 0).toOption = some (.fvexp2 ⟨10, false, true, 2, 1, 255, 255, 4, 255, 0, 0⟩)
      ∧ (decodeElement 0x27A6_01FF_FF04_FF00 0).toOption = some (.fvlog2 ⟨10, false, true, 2, 1, 255, 255, 4, 255, 0, 0⟩)
      ∧ (decodeElement 0x28A6_01FF_FF04_FF00 0).toOption = some (.fvrcp ⟨10, false, true, 2, 1, 255, 255, 4, 255, 0, 0⟩)
      ∧ (decodeElement 0x29A6_01FF_FF04_FF00 0).toOption = some (.fvrsq ⟨10, false, true, 2, 1, 255, 255, 4, 255, 0, 0⟩)
      ∧ (decodeElement 0x2AA6_01FF_FF04_FF00 0).toOption = some (.fvtanh ⟨10, false, true, 2, 1, 255, 255, 4, 255, 0, 0⟩)
      ∧ (decodeElement 0x2BA6_01FF_FF04_FF00 0).toOption = some (.fvsigm ⟨10, false, true, 2, 1, 255, 255, 4, 255, 0, 0⟩)
      ∧ (decodeElement 0x2CC0_0102_FF04_FF04 0).toOption = some (.fvcmp ⟨12, false, false, 0, 1, 2, 255, 4, 255, 4, 0⟩) := by decide

theorem test_decode_element_4 :
    (decodeElement 0x2DA1_0102_FF04_FF05 0).toOption = some (.fvdot ⟨10, false, false, 1, 1, 2, 255, 4, 255, 5, 0⟩)
      ∧ (decodeElement 0x2EC0_0102_0304_FF00 0).toOption = some (.fvlrec ⟨12, false, false, 0, 1, 2, 3, 4, 255, 0, 0⟩)
      ∧ (decodeElement 0x4020_01FF_FF04_FF9C 0).toOption = some (.vbcast ⟨2, false, false, 0, 1, 255, 255, 4, 255, 156, 0⟩)
      ∧ (decodeElement 0x4120_0102_FF04_FF00 0).toOption = some (.vperm ⟨2, false, false, 0, 1, 2, 255, 4, 255, 0, 0⟩)
      ∧ (decodeElement 0x4220_01FF_FF04_0500 0).toOption = some (.vpack ⟨2, false, false, 0, 1, 255, 255, 4, 5, 0, 0⟩)
      ∧ (decodeElement 0x4320_0102_FF04_FF00 0).toOption = some (.vunpk ⟨2, false, false, 0, 1, 2, 255, 4, 255, 0, 0⟩)
      ∧ (decodeElement 0x4428_01FF_FF04_FF00 1048608).toOption = some (.vslice ⟨2, true, false, 0, 1, 255, 255, 4, 255, 0, 1048608⟩)
      ∧ (decodeElement 0x4510_01FF_FF04_FF10 0).toOption = some (.cturn ⟨1, false, false, 0, 1, 255, 255, 4, 255, 16, 0⟩)
      ∧ (decodeElement 0x4620_01FF_FF04_FF13 0).toOption = some (.vred ⟨2, false, false, 0, 1, 255, 255, 4, 255, 19, 0⟩) := by decide

theorem test_decode_element_5 :
    (decodeElement 0x4728_01FF_FF04_FF01 3).toOption = some (.vconst ⟨2, true, false, 0, 1, 255, 255, 4, 255, 1, 3⟩)
      ∧ (decodeElement 0x6000_01FF_FF04_0580 0).toOption = some (.cvt ⟨0, false, false, 0, 1, 255, 255, 4, 5, 128, 0⟩)
      ∧ (decodeElement 0x6108_01FF_FF04_0501 1065353216).toOption = some (.scale ⟨0, true, false, 0, 1, 255, 255, 4, 5, 1, 1065353216⟩)
      ∧ (decodeElement 0x7000_0102_FF04_0500 0).toOption = some (.steer ⟨0, false, false, 0, 1, 2, 255, 4, 5, 0, 0⟩)
      ∧ (decodeElement 0x7100_0102_0304_FF00 0).toOption = some (.merge ⟨0, false, false, 0, 1, 2, 3, 4, 255, 0, 0⟩)
      ∧ (decodeElement 0x7200_FF02_0304_FF01 0).toOption = some (.amerge ⟨0, false, false, 0, 255, 2, 3, 4, 255, 1, 0⟩)
      ∧ (decodeElement 0x7300_0102_0304_FF00 0).toOption = some (.carry ⟨0, false, false, 0, 1, 2, 3, 4, 255, 0, 0⟩)
      ∧ (decodeElement 0x7400_0102_FF04_FF00 0).toOption = some (.invar ⟨0, false, false, 0, 1, 2, 255, 4, 255, 0, 0⟩)
      ∧ (decodeElement 0x7500_0102_0304_FF00 0).toOption = some (.permit ⟨0, false, false, 0, 1, 2, 3, 4, 255, 0, 0⟩) := by decide

theorem test_decode_element_6 :
    (decodeElement 0x7600_01FF_FFFF_FF00 0).toOption = some (.sink ⟨0, false, false, 0, 1, 255, 255, 255, 255, 0, 0⟩)
      ∧ (decodeElement 0x80A0_01FF_FF04_FF01 0).toOption = some (.mrow ⟨10, false, false, 0, 1, 255, 255, 4, 255, 1, 0⟩)
      ∧ (decodeElement 0x81A0_0102_FFFF_FF02 0).toOption = some (.mldb ⟨10, false, false, 0, 1, 2, 255, 255, 255, 2, 0⟩)
      ∧ (decodeElement 0x82C0_01FF_FF04_FF12 0).toOption = some (.mdrn ⟨12, false, false, 0, 1, 255, 255, 4, 255, 18, 0⟩)
      ∧ (decodeElement 0x8320_01FF_FF04_FF03 0).toOption = some (.mclr ⟨2, false, false, 0, 1, 255, 255, 4, 255, 3, 0⟩)
      ∧ (decodeElement 0x90C0_01FF_FF04_0510 0).toOption = some (.smxi ⟨12, false, false, 0, 1, 255, 255, 4, 5, 16, 0⟩)
      ∧ (decodeElement 0x91C0_0102_FF04_0500 0).toOption = some (.smxu ⟨12, false, false, 0, 1, 2, 255, 4, 5, 0, 0⟩)
      ∧ (decodeElement 0x92C0_0102_FF04_FF00 0).toOption = some (.smxf ⟨12, false, false, 0, 1, 2, 255, 4, 255, 0, 0⟩)
      ∧ (decodeElement 0x9348_01FF_0304_FF00 844424930136065).toOption = some (.pred ⟨4, true, false, 0, 1, 255, 3, 4, 255, 0, 844424930136065⟩) := by decide

theorem test_decode_element_7 :
    (decodeElement 0xA020_01FF_FF04_FF41 0).toOption = some (.red ⟨2, false, false, 0, 1, 255, 255, 4, 255, 65, 0⟩)
      ∧ (decodeElement 0xA120_01FF_FF04_FF02 0).toOption = some (.stld ⟨2, false, false, 0, 1, 255, 255, 4, 255, 2, 0⟩)
      ∧ (decodeElement 0xA220_0102_FF04_FF01 0).toOption = some (.stst ⟨2, false, false, 0, 1, 2, 255, 4, 255, 1, 0⟩)
      ∧ (decodeElement 0xB020_01FF_FF04_0507 0).toOption = some (.agld ⟨2, false, false, 0, 1, 255, 255, 4, 5, 7, 0⟩)
      ∧ (decodeElement 0xB120_0102_FF04_FF03 0).toOption = some (.agst ⟨2, false, false, 0, 1, 2, 255, 4, 255, 3, 0⟩)
      ∧ (decodeElement 0xB220_0102_0304_FF15 0).toOption = some (.agga ⟨2, false, false, 0, 1, 2, 3, 4, 255, 21, 0⟩)
      ∧ (decodeElement 0xB320_01FF_FF04_0512 0).toOption = some (.aguf ⟨2, false, false, 0, 1, 255, 255, 4, 5, 18, 0⟩)
      ∧ (decodeElement 0xB448_01FF_0304_FF09 844424930131969).toOption = some (.agep ⟨4, true, false, 0, 1, 255, 3, 4, 255, 9, 844424930131969⟩) := by decide

theorem test_decode_command_0 :
    decodeTableWord 128 0x01000382000000050000000000001000 = some (.lds ⟨3, true, false, 2, 5, 4096⟩)
      ∧ decodeTableWord 128 0x02000402000000400000000000002000 = some (.sts ⟨4, false, false, 2, 64, 8192⟩)
      ∧ decodeTableWord 128 0x03000201000000620000000000003000 = some (.gth ⟨2, false, false, 1, 98, 12288⟩)
      ∧ decodeTableWord 128 0x04000102000000210000000000004000 = some (.sct ⟨1, false, false, 2, 33, 16384⟩)
      ∧ decodeTableWord 128 0x05000603000000070000000000005000 = some (.unf ⟨6, false, false, 3, 7, 20480⟩)
      ∧ decodeTableWord 128 0x06000040000000000000000000000040 = some (.cpy ⟨0, false, true, 0, 0, 64⟩)
      ∧ decodeTableWord 128 0x07000040000000090000000000000080 = some (.cpyl ⟨0, false, true, 0, 9, 128⟩)
      ∧ decodeTableWord 128 0x080000000000010000000000000000C0 = some (.fil ⟨0, false, false, 0, 256, 192⟩)
      ∧ decodeTableWord 128 0x09020104000000800000000000000100 = some (.colAllReduce ⟨513, false, false, 4, 128, 256⟩)
      ∧ decodeTableWord 128 0x09020201000000800000000000000100 = some (.colAllGather ⟨514, false, false, 1, 128, 256⟩) := by decide

theorem test_decode_command_1 :
    decodeTableWord 128 0x0905FF06000000800000000000000100 = some (.colReduceScatter ⟨1535, false, false, 6, 128, 256⟩)
      ∧ decodeTableWord 128 0x10000000000000000000000000008000 = some (.cfg ⟨0, false, false, 0, 0, 32768⟩)
      ∧ decodeTableWord 128 0x11000000000000010000000000000000 = some (.barc ⟨0, false, false, 0, 1, 0⟩)
      ∧ decodeTableWord 128 0x12060900000000020000000000000000 = some (.hand ⟨1545, false, false, 0, 2, 0⟩)
      ∧ decodeTableWord 128 0x13063F00000000000000000000000000 = some (.drn ⟨1599, false, false, 0, 0, 0⟩)
      ∧ decodeTableWord 128 0x14000300000000250000000000000011 = some (.ptch ⟨3, false, false, 0, 37, 17⟩)
      ∧ decodeTableWord 128 0x15000000000000040000000000009000 = some (.tsk ⟨0, false, false, 0, 4, 36864⟩)
      ∧ decodeTableWord 128 0x160000000000000C0000000000000200 = some (.swsSwapIn ⟨0, false, false, 0, 12, 512⟩)
      ∧ decodeTableWord 128 0x160000010000000C0000000000000200 = some (.swsSwapOut ⟨0, false, false, 1, 12, 512⟩) := by decide

/-! ### Strand arithmetic and control: results (R335 to R354) and witnesses -/

-- R335: products of the full width; R336's corner cases and examples
theorem test_mulh_negative : nextG (execMulh 5 1 2 (strandState (worker 0xFFFF_FFFF_FFFF_FFFF 2 0 0))) 5 = some 0xFFFF_FFFF_FFFF_FFFF := by decide
theorem test_mulhu_large : nextG (execMulhu 5 1 2 (strandState (worker 0xFFFF_FFFF_FFFF_FFFF 2 0 0))) 5 = some 1 := by decide
theorem test_div_seven_by_minus_two : nextG (execDiv 5 1 2 (strandState (worker 7 (-2) 0 0))) 5 = some (-3) := by decide
theorem test_rem_minus_seven_by_two : nextG (execRem 5 1 2 (strandState (worker (-7) 2 0 0))) 5 = some (-1) := by decide
theorem test_div_by_zero : nextG (execDivu 5 1 0 (strandState (worker 7 0 0 0))) 5 = some 0xFFFF_FFFF_FFFF_FFFF := by decide
theorem test_rem_overflow : nextG (execRem 5 1 2 (strandState (worker 0x8000_0000_0000_0000 (-1) 0 0))) 5 = some 0 := by decide
theorem test_clz_of_zero : nextG (execClz 5 0 (strandState (worker 0 0 0 0))) 5 = some 64 := by decide
theorem test_write_of_g0 : nextG (execAddi 0 1 5 (strandState (worker 1 0 0 0))) 0 = some 0 := by decide
-- R337: SHR.w fills from bit 31, the result sign-extended
theorem test_shr_w : nextG (execShrW 5 1 2 (strandState (worker 0xFFFF_FFFF_8000_0000 0x20 0 0))) 5 = some 0xFFFF_FFFF_8000_0000 := by decide
-- R338: SLTIU 0xFFFF compares with all ones; the second LIH of the constant example
theorem test_sltiu_all_ones : nextG (execSltiu 5 1 0xFFFF (strandState (worker (-1) 0 0 0))) 5 = some 0 := by decide
theorem test_lih_second : nextG (execLih 5 1 0x4567 (strandState (worker 0x0123 0 0 0))) 5 = some 0x0123_4567 := by decide
-- R340: bits [1:0] of a JALR target cleared, g(a) read before g(d) is written
theorem test_jalr_same_register : (nextMe (execJalr 1 1 3 (strandState (worker 0x2000 0 0 0)))).map (fun st => (st.pc, st.g 1))
    = some (0x2000, 0x1_0004) := by decide
theorem test_branch_back : nextPc (execBltu 0 1 0xFFFD (strandState (worker 1 0 0 0))) = some 0xFFF4 := by decide

/-- A strand inside a loop body, at its last word, with passes left. -/
def looping (lcnt : Word) : Strand := { worker 3 0 0 0 with loop := { lcnt := lcnt, lbeg := 0xFFF8, lend := 0x1_0004, rcnt := 0 } }

-- R326: the loop step at the last word; R342: a taken transfer out of the body abandons the loop
theorem test_loop_step : (nextMe (execNop (strandState (looping 2)))).map (fun st => (st.pc, st.loop.lcnt)) = some (0xFFF8, 1) := by decide
theorem test_branch_abandons_loop : (nextMe (execBeq 0 0 1 (strandState (looping 2)))).map (fun st => (st.pc, st.loop.lcnt)) = some (0x1_0004, 0) := by decide
theorem test_rep_zero_skips : nextPc (execRep 2 (strandState (worker 3 0 0 0))) = some 0x1_0008 := by decide
theorem test_loop_zero_skips : nextPc (execLoop 2 5 (strandState (worker 3 0 0 0))) = some 0x1_0018 := by decide
-- R353, R354
theorem test_trap_enters : (nextMe (execTrap 0x123 (strandState (worker 0 0 0 0)))).map (fun st => (st.pc, st.cause, st.tval, st.epc, st.sys))
    = some (0x100, 0x10, 0x123, 0x1_0000, true) := by decide
theorem test_eret_clears_low_bits : nextPc (execEret (strandState { worker 0 0 0 0 with sys := true, epc := 0x4003 })) = some 0x4000 := by decide

theorem witness_RegisterArithmeticResults_zero : (strandState (worker 7 0 0 0)).me.g 2 = 0 := by decide
theorem witness_RegisterArithmeticResults_wraps :
    ((strandState (worker 0x8000_0000_0000_0000 (-1) 0 0)).me.g 1).toInt = -2 ^ 63
      ∧ ((strandState (worker 0x8000_0000_0000_0000 (-1) 0 0)).me.g 2).toInt = -1 := by decide
theorem witness_RegisterArithmeticResults_ordinary :
    ¬((strandState (worker 7 (-2) 0 0)).me.g 2 = 0) ∧ ¬(((strandState (worker 7 (-2) 0 0)).me.g 1).toInt = -2 ^ 63) := by decide
theorem witness_ControlTransfers_taken_and_not :
    (strandState (worker 1 1 2 0)).me.g 1 = (strandState (worker 1 1 2 0)).me.g 2
      ∧ ¬((strandState (worker 1 1 2 0)).me.g 1 = (strandState (worker 1 1 2 0)).me.g 3) := by decide
theorem witness_LoopAndRepeatEffects_open : (strandState (worker 3 0 0 0)).me.sys = false ∧ (strandState (worker 3 0 0 0)).me.loop.lcnt = 0
    ∧ min ((strandState (worker 3 0 0 0)).me.g 1).toNat (2 ^ 32 - 1) ≠ 0 ∧ ¬(strandState (worker 3 0 0 0)).me.atLast 0x1_0000 := by decide
theorem witness_LoopAndRepeatEffects_skip : min ((strandState (worker 3 0 0 0)).me.g 2).toNat (2 ^ 32 - 1) = 0
    ∧ (strandState (worker 3 0 0 0)).me.loop.lcnt = 0 ∧ (0 : BitVec 12).toNat = 0 := by decide
theorem witness_handles : (strandState (worker 0 0 0 0)).me.handles := by unfold Strand.handles; decide
theorem witness_LoopAndRepeatEffects_illegal : (strandState (looping 2)).me.handles ∧ (strandState (looping 2)).me.loop.lcnt ≠ 0
    ∧ (strandState (looping 2)).me.atLast (strandState (looping 2)).me.pc ∧ wordValue (.loop 1 5) 0x4801_0005 ∧ wordValue (.rep 1) 0x4C01_0000 := by
  unfold Strand.handles wordValue; decide
theorem witness_ExceptionReturn_frame :
    (strandState { worker 0 0 0 0 with sys := true }).me.sys = true ∧ (strandState { worker 0 0 0 0 with sys := true }).me.frame.lcnt = 0 := by decide
theorem witness_ExceptionReturn_longest_body : ∃ k, 1 ≤ k ∧ k ≤ 4095 ∧
    ({ lcnt := 1, lbeg := 0x100, lend := 0x40FC } : LoopState).lend.toNat = ({ lcnt := 1, lbeg := 0x100, lend := 0x40FC } : LoopState).lbeg.toNat + 4 * k :=
  ⟨4095, by decide, by decide, by decide⟩
theorem witness_CsrEffects_illegal : csrPresent 0x00E = false ∧ (strandState (worker 0 0 0 0)).me.handles ∧ wordValue (.csrr 5 0x00E) 0xF8A0_100E := by
  unfold Strand.handles wordValue; decide
theorem witness_CsrEffects_access : (strandState (worker 0 0 0 0)).me.scout = false ∧ (strandState { worker 0 0 0 0 with sys := true }).me.sys = true
    ∧ csrWritable 0x000 = false ∧ csrWritable 0x004 = true ∧ csrTaskWritable 0x004 = false ∧ wordValue (.csrw 5 6 0x004) 0xF8A6_2004
    ∧ wordValue (.csrs 5 6 0x000) 0xF8A6_3000 := by
  unfold wordValue; decide

/-! ### Scalar floating point -/

/-- Two operands in F32. -/
def floats (x y : Dword) : Strand := worker x y 0x7F80_0001 0x7FC0_0000

-- R346: 1 + 2^−24 is a tie to even, inexact; 1/0 raises DZ
theorem test_fadd_tie : (nextMe (execFadd 5 1 2 0 0 (strandState (floats 0x3F80_0000 0x3380_0000)))).map (fun st => (st.g 5, st.fflags))
    = some (0x3F80_0000, 1) := by decide
theorem test_fdiv_by_zero : (nextMe (execFdiv 5 1 0 0 0 (strandState (floats 0x3F80_0000 0)))).map (fun st => (st.g 5, st.fflags))
    = some (0x7F80_0000, 8) := by decide
theorem test_fmin_of_zeros : nextG (execFmin 5 1 2 0 (strandState (floats 0 0x8000_0000))) 5 = some 0x8000_0000 := by decide
theorem test_feq_signalling : (nextMe (execFeq 5 1 3 0 (strandState (floats 0 0)))).map (fun st => (st.g 5, st.fflags)) = some (0, 16) := by decide
theorem test_fcvt_wu_negative : (nextMe (execFcvtToWu 5 1 1 0 (strandState (floats 0xBF80_0000 0)))).map (fun st => (st.g 5, st.fflags))
    = some (0, 16) := by decide

theorem witness_FpArithmeticResults_mode : (floats 0 0).modeIs 4 (rmOf 4) ∧ (floats 0 0).modeIs 7 (rmOf 0) := by
  unfold Strand.modeIs; decide
theorem witness_FpArithmeticResults_nan : (operandVal 0 ((strandState (floats 0 0)).me.g 3)).isNan = true
    ∧ (operandVal (~~~(1 : BitVec 1)) ((strandState (floats 0 0)).me.g 4)).isNan = true := by decide
theorem witness_FpCompareAndConversionResults :
    (operandVal 0 ((strandState (floats 0 0)).me.g 1)).isNan = false ∧ (operandVal 0 ((strandState (floats 0 0)).me.g 2)).isNan = false
      ∧ (operandVal 0 ((strandState (floats 0 0)).me.g 3)).isNan = true ∧ (operandVal 0 ((strandState (floats 0 0)).me.g 4)).isNan = true := by decide
theorem witness_FpCompareAndConversionResults_illegal : (strandState { floats 0 0 with frm := 5 }).me.handles
    ∧ 5 ≤ (strandState { floats 0 0 with frm := 5 }).me.frm.toNat ∧ wordValue (.fadd 5 1 2 7 0) 0xB4A1_11C1 := by
  unfold Strand.handles wordValue; decide

/-! ### Memory, fences, strands, commands and ports (R15, R178 to R207, R239 to R242, R327 to R333) -/

/-- Core 0 with a coalescing-buffer entry that holds bytes 0 to 7 of line 64, and line 65 valid in its L1. -/
def memCore : CoreState :=
  { tlb := [fetchLeaf], nextCb := 1
    cb := [{ id := 0, line := 64, data := 0x8877_6655_4433_22F1, mask := 0xFF, owners := [(1, 0xFF, 0)] }]
    l1 := [{ line := 65, data := 0xF0, pin := some 1 }, { line := 66, data := 0, pin := some 2 }] }

/-- The worker before core 0 so; g1 holds an address. -/
def memState (g1 : Dword) : State := { strandState (worker g1 0x55AA 3 0) with cores := [(0, memCore)] }

/-- A record of a strand of core 0 that waits for a completion. -/
def waiting : Record :=
  { kind := .resume, sid := 5, ctx := 1, sibling := 0, ordered := false, y := false, sys := false, pc := 0, space := 2, tag := 7,
    cause := 0, ready := false, dest := 0, dmask := 0, loop := {}, dirty := [], result := 0, crc := 0, place := .onChip,
    wait := .completion, act := .nothing, readyNo := 0, readyTick := 0, readyAt := 0, ownPc := 0, ownLoop := {}, retry := false }

/-- The same with every on-chip slot of core 0 taken. -/
def fullState (st : Strand) : State := { strandState st with records := List.replicate 960 (5, waiting) }

/-- A context with one 64 KiB page of strata window at 0x100_0000, its scope code package. -/
def strataState (g1 : Dword) (st : Strand) : State :=
  let s := strandState { st with regs := st.regs.set 1 g1 }
  s.setCtx 1 { s.ctx 1 with strata := (((Vector.replicate 10 0).set 0 0x0100_0001).set 1 0x4000_0000).set 2 2 }

-- R193: byte 0 of the entry, sign-extended; R86's and R181's byte order
theorem test_ldb_from_coalescing_buffer : nextG (execLdb 5 1 0 (memState 0x2000)) 5 = some 0xFFFF_FFFF_FFFF_FFF1 := by decide +kernel
theorem test_ldhu_second_halfword : nextG (execLdhu 5 1 2 (memState 0x2000)) 5 = some 0x4433 := by decide +kernel
theorem test_ldd_of_l1 : nextG (execLdd 5 1 0 (memState 0x2080)) 5 = some 0xF0 := by decide +kernel
theorem test_ldw_misaligned : (nextMe (execLdw 5 1 1 (memState 0x2000))).map (fun st => (st.cause, st.tval)) = some (2, 0x2001) := by decide +kernel
/-- The bytes of line 64 in core 0's buffer after an outcome. -/
def nextEntry (o : Out) : Option Nat :=
  match o with
  | .next t => ((t.core 0).entryOf 64).map fun e => lineGet e.data 0 8
  | _ => none
theorem test_sth_merges : nextEntry (execSth 2 1 2 (memState 0x2000)) = some 0x8877_6655_55AA_22F1 := by decide +kernel
theorem test_std_replaces : nextEntry (execStd 2 1 0 (memState 0x2000)) = some 0x55AA := by decide +kernel

theorem witness_LoadHitResults_entry : PlainAt (memState 0x2000) (effective (memState 0x2000) 1 0) .read 0x2000
    ∧ ((memState 0x2000).core 0).holds 64 0 8 0x8877_6655_4433_22F1 :=
  ⟨by unfold PlainAt; decide +kernel, .inl ⟨_, rfl, fun j _ h => (by decide +kernel : ∀ j, j < 8 → BitVec.getLsbD (0xFF : LineMask) j = true) j h, by decide +kernel⟩⟩
theorem witness_LoadHitResults_l1 : PlainAt (memState 0x2080) (effective (memState 0x2080) 1 0) .read 0x2080
    ∧ ((memState 0x2080).core 0).holds 65 0 8 0xF0 := by
  refine ⟨by unfold PlainAt; decide +kernel, .inr ⟨_, fun e h => ?_, rfl, by decide +kernel⟩⟩
  exact absurd h (by rw [show ((memState 0x2080).core 0).entryOf 65 = none by decide +kernel]; nofun)
theorem witness_LoadMissSuspends : PlainAt (memState 0x4000) (effective (memState 0x4000) 1 0) .read 0x4000
    ∧ ((memState 0x4000).core 0).entryOf 128 = none ∧ ((memState 0x4000).core 0).l1Valid 128 = none ∧ CanSuspend (memState 0x4000) 0 := by
  unfold PlainAt CanSuspend; decide +kernel
theorem witness_StoreEffects_entry : (memState 0x2000).me.scout = false ∧ (memState 0x2000).inStrata 1 0x2000 = false
    ∧ (memState 0x2000).xlat (memState 0x2000).me 0x2000 .write = .hit 0x2000 ∧ isHost 0x2000 = false
    ∧ (((memState 0x2000).core 0).entryOf 64).map (·.draining) = some false ∧ 0x2078 % 128 + 8 ≤ 128 := by decide +kernel
theorem witness_StoreEffects_new_entry : ((memState 0x4000).core 0).entryOf 128 = none ∧ ((memState 0x4000).core 0).cb.length < 32
    ∧ (memState 0x4000).xlat (memState 0x4000).me 0x4000 .write = .hit 0x4000 := by decide +kernel
/-- A leaf that maps VA 0 to the host window. -/
def hostState : State :=
  { strandState (worker 0x10 0x55AA 0 0) with
    cores := [(0, { tlb := [{ ctx := 1, bits := 36, page := 0, pte := 0x0008_0000_0000_001F }] })] }
theorem witness_StoreEffects_host : hostState.xlat hostState.me 0x10 .write = .hit 0x8_0000_0000_0010 ∧ isHost 0x8_0000_0000_0010 = true
    ∧ hostState.mem.wf = true := by decide +kernel
theorem witness_StoreEffects_scout : (strandState { worker 0 0 0 0 with scout := true }).me.scout = true := by decide +kernel
theorem witness_LoadStoreTraps_misaligned : (memState 0x2001).me.handles ∧ (effective (memState 0x2001) 1 0).toNat % 8 ≠ 0 := by
  unfold Strand.handles; decide +kernel
theorem witness_LoadStoreTraps_strata : (strataState 0x0100_0000 (worker 0 0 0 0)).me.handles
    ∧ (strataState 0x0100_0000 (worker 0 0 0 0)).inStrata 1 0x0100_FFF8 = true := by unfold Strand.handles; decide +kernel
theorem witness_LoadStoreTraps_refused :
    (memState 0x0100_0000_0000_0000).xlat (memState 0x0100_0000_0000_0000).me 0x0100_0000_0000_0000 .read = .fault 0x04
      ∧ (memState 0x0100_0000_0000_0000).inStrata 1 0x0100_0000_0000_0000 = false := by decide +kernel

theorem witness_CacheFormEffects : (memState 0x2080).tlbFind 0 1 0x4000 = some fetchLeaf ∧ granted fetchLeaf.pte .read = true
    ∧ fetchLeaf.phys 0x4000 = 0x4000 ∧ (memState 0x2080).me.scout = false
    ∧ PlainAt (memState 0x2080) 0x2080 .read 0x2080 := by unfold PlainAt; decide +kernel
theorem witness_CacheFormEffects_pin : PinCode (memState 0x2080) 65 1 ∧ PinCode (memState 0x2080) 66 2 ∧ PinCode (memState 0x2080) 67 4
    ∧ PinCode ((memState 0x2080).setCtx 1 { (memState 0x2080).ctx 1 with pinQuota := 2 }) 67 0 := by
  unfold PinCode; exact ⟨rfl, rfl, rfl, rfl⟩
theorem witness_SliceRequestsIssued : PlainAt (memState 0x2000) 0x2000 .atomic 0x2000 ∧ PlainAt (memState 0x2000) 0x2000 .read 0x2000
    ∧ CanSuspend (memState 0x2000) 0 ∧ (memState 0x2000).me.scout = false ∧ (memState 0x2000).me.handles := by
  unfold PlainAt CanSuspend Strand.handles; decide +kernel
theorem witness_SliceRequestsIssued_refused :
    (memState 0x0100_0000_0000_0000).xlat (memState 0x0100_0000_0000_0000).me 0x0100_0000_0000_0000 .atomic = .fault 0x04 := by decide +kernel
theorem witness_FenceEffects_idle : ((strandState (worker 0 0 0 0)).core 0).cb.map (·.id) = []
    ∧ (strandState (worker 0 0 0 0)).unackedStvs 0 0 = 0 ∧ (strandState (worker 0 0 0 0)).answered 0 = true := by decide +kernel
theorem witness_FenceEffects_pending : ((memState 0).core 0).cb.map (·.id) ≠ [] ∧ CanSuspend (memState 0) 0
    ∧ (strandState { worker 0 0 0 0 with window := [{ tag := 1 }] }).answered 0 = false := by unfold CanSuspend; decide +kernel
theorem witness_VersionedAccessIssued : StrataAt (strataState 0x0100_0008 (worker 0 1 0 0)) 0x0100_0008 .read 0x0100_0008
    ∧ StrataAt (strataState 0x0100_0008 (worker 0 1 0 0)) 0x0100_0008 .write 0x0100_0008
    ∧ CanSuspend (strataState 0x0100_0008 (worker 0 1 0 0)) 0 ∧ (strataState 0x0100_0008 (worker 0 1 0 0)).unackedStvs 0 0 < 8 := by
  unfold StrataAt CanSuspend; decide +kernel
/-- Eight STVs of the strand on their way. -/
def stvState : State :=
  let s := strataState 0x0100_0008 (worker 0 1 0 0)
  s.setSlice { s.slice with stvs := List.replicate 8 { id := 0, core := 0, sid := 0, ctx := 1, task := 0, va := 0x0100_0000,
                                                       pa := 0x0100_0000, value := 0, after := [] } }
theorem witness_VersionedAccessIssued_full : 8 ≤ stvState.unackedStvs 0 0 ∧ CanSuspend stvState 0
    ∧ StrataAt stvState 0x0100_0008 .write 0x0100_0008 := by unfold StrataAt CanSuspend; decide +kernel
theorem witness_VersionedAccessIssued_faults : (memState 0x2000).me.handles ∧ (memState 0x2000).inStrata 1 0x2000 = false
    ∧ (0x0100_0004 : Dword).toNat % 8 ≠ 0
    ∧ (let s := { strataState 0x0100_0000 (worker 0 0 0 0) with cores := [(0, { tlb := [{ fetchLeaf with pte := 0x01 }] })] }
       s.xlat s.me 0x0100_0000 .read = .fault 0x04 ∧ s.inStrata 1 0x0100_0000 = true) := by unfold Strand.handles; decide +kernel

/-- A child strand of core 0's strand 3. -/
def childState : State :=
  let s := strandState { worker 0x2000 7 0x2001 0x2002 with parent := some 3 }
  { s with strands := s.strands ++ [(3, { ctx := 1, sid := 3, unjoined := 1 })],
           records := [(3, { waiting with sid := 3, kind := .join, wait := .children })] }

-- R330: a child's number and its argument register
theorem test_fork_gives_number : nextG (execFork 5 1 2 (strandState (worker 0x2000 7 0 0))) 5 = some 1 := by decide +kernel
theorem test_join_without_children : nextPc (execJoin (strandState (worker 0 0 0 0))) = some 0x1_0004 := by decide +kernel

theorem witness_StrandControlEffects_faults : childState.me.handles ∧ (childState.me.g 4).getLsbD 1 = true
    ∧ (childState.me.g 3).getLsbD 1 = false ∧ (childState.me.g 3).getLsbD 0 = true ∧ (childState.ctx 1).scoutPriv = false := by
  unfold Strand.handles; decide +kernel
theorem witness_StrandControlEffects_fork : childState.me.scout = false ∧ (childState.me.g 1).toNat % 4 = 0 ∧ FreeKey childState 1
    ∧ childState.me.unjoined ≠ 65535 ∧ SlotAt childState .onChip := by
  unfold SlotAt; exact ⟨by decide +kernel, by decide +kernel, ⟨1, by decide +kernel, by decide +kernel, by decide +kernel⟩, by decide +kernel, by decide +kernel⟩
theorem witness_StrandControlEffects_limit : (strandState { worker 0x2000 0 0 0 with unjoined := 65535 }).me.unjoined = 65535 := by decide +kernel
/-- A context whose strands may start scouts. -/
def scoutState : State :=
  let s := strandState (worker 0x2001 7 0 0)
  s.setCtx 1 { s.ctx 1 with scoutPriv := true }
theorem witness_StrandControlEffects_scout : (scoutState.me.g 1).toNat % 4 = 1 ∧ (scoutState.ctx scoutState.me.ctx).scoutPriv = true
    ∧ FreeKey scoutState 1 ∧ scoutState.slotFor 0 1 .scout = some .onChip := by
  exact ⟨by decide +kernel, by decide +kernel, ⟨1, by decide +kernel, by decide +kernel, by decide +kernel⟩, by decide +kernel⟩
theorem witness_StrandControlEffects_waits : (strandState { worker 0 0 0 0 with unjoined := 1 }).me.unjoined ≠ 0
    ∧ SlotAt (strandState { worker 0 0 0 0 with unjoined := 1 }) .onChip ∧ NoSlot (fullState { worker 0 0 0 0 with unjoined := 1 })
    ∧ FreeKey (fullState (worker 0 0 0 0)) 1 := by
  unfold SlotAt NoSlot; exact ⟨by decide +kernel, by decide +kernel, by decide +kernel, ⟨1, by decide +kernel, by decide +kernel, by decide +kernel⟩⟩
theorem witness_StrandControlEffects_child : childState.me.unjoined = 0 ∧ childState.me.parent = some 3 ∧ 3 ≠ childState.meKey
    ∧ (childState.strands.get? 3).isSome = true ∧ (childState.records.get? 3).map (fun r => (r.kind, r.wait)) = some (.join, .children) := by
  decide +kernel
/-- The root strand of task 4. -/
def rootState : State :=
  let s := strandState { worker 0 0 0 0 with task := 4 }
  s.setSched { s.sched with tasks := [(4, { origin := .tsk 0, node := 0, kind := .strand, ctx := 1, die := 0, core := 0, root := some 0 })] }
theorem witness_StrandControlEffects_root : rootState.me.parent = none ∧ (rootState.task rootState.me.task).map (·.root) = some (some rootState.meKey) := by
  decide +kernel

/-- The worker with a response window: tag 1 awaited, tag 2 answered, tag 3 with a deferred fault. -/
def windowState : State :=
  strandState { worker 1 2 3 9 with window := [{ tag := 1 }, { tag := 2, resp := some 0x500 }, { tag := 3, resp := some 0x0906 }] }
-- R159: an unknown tag
theorem test_resp_unknown_tag : nextG (execResp 5 4 windowState) 5 = some (-1) := by decide +kernel
theorem test_resp_present : nextG (execResp 5 2 windowState) 5 = some 0x500 := by decide +kernel
theorem witness_CommandIssueAndCollection_lists : (windowState.me.g 0).toNat % 16 = 0 ∧ (windowState.me.g 0).toNat = 0
    ∧ 1 ≤ (windowState.me.g 4).toNat ∧ (windowState.me.g 4).toNat ≤ 1024 ∧ (windowState.me.g 4).toNat % 16 ≠ 0 ∧ windowState.me.scout = false := by decide +kernel
theorem witness_CommandIssueAndCollection_tags : windowState.me.window.find? (·.tag = 9) = none
    ∧ (windowState.me.window.find? (·.tag = 1)).map (·.resp) = some none
    ∧ (windowState.me.window.find? (·.tag = 2)).map (·.resp) = some (some 0x500) ∧ (∀ c, ¬Deferred 0x500 c)
    ∧ (windowState.me.window.find? (·.tag = 3)).map (·.resp) = some (some 0x0906) ∧ Deferred 0x0906 9 ∧ SlotAt windowState .onChip
    ∧ windowState.me.handles := by
  refine ⟨by decide +kernel, by decide +kernel, by decide +kernel, fun c h => absurd h.1 (by decide +kernel), by decide +kernel, ?_, ?_, ?_⟩
  · unfold Deferred; decide +kernel
  · unfold SlotAt; decide +kernel
  · unfold Strand.handles; decide +kernel

/-- A region of context 1 whose link 0 binds input port 3 and link 1 output port 4, with a token of one doubleword at its head. -/
def portRegion : Region :=
  { number := 0, x0 := 0, y0 := 0, w := 1, h := 1, ctx := 1, task := 0, image := 0, subs := [], cells := [], shapes := [], ranges := [],
    bufs := [], loops := [], stall := 0,
    links := [{ fmt := 3, slots := 2, binding := .input 3 },
              { fmt := 3, slots := 2, binding := .output 4, queue := [[{ fmt := 3, lanes := [⟨0x1234, true⟩] }]] },
              { fmt := 3, slots := 2, binding := .output 5, closed := true }] }
def portState (n : Nat) : State :=
  { strandState (worker 0x77 0 0 0) with
    cores := [(0, { regions := [(0, portRegion)], ports := [(3, { assembly := List.replicate n 1 })],
                    frozen := [{ ctx := 1, regions := [{ portRegion with links := [{ fmt := 3, slots := 1, binding := .input 7 }, { fmt := 3, slots := 1, binding := .output 7 }] }] }] })] }
theorem test_prd_descriptor : nextG (execPrd 5 4 (portState 0)) 5 = some 0x0001_0001_0000_0013 := by decide +kernel
theorem test_prd_closed : nextG (execPrd 5 5 (portState 0)) 5 = some 0x0400_8017 := by decide +kernel
theorem witness_PortFormEffects_input : BoundTo (portState 0) (.input 3) 0 0 portRegion ∧ ((portState 0).core 0).port 3 = { assembly := [] }
    ∧ 0 < portRegion.portRoom 0 ∧ 63 ≤ (((portState 63).core 0).port 3).assembly.length := by
  unfold BoundTo; decide +kernel
theorem witness_PortFormEffects_output : BoundTo (portState 0) (.output 4) 0 1 portRegion ∧ NoneWaits (portState 0) 4
    ∧ (portRegion.link 1).head.isSome = true ∧ BoundTo (portState 0) (.output 5) 0 2 portRegion
    ∧ (portRegion.link 2).queue = [] ∧ (portRegion.link 2).closed = true := by
  refine ⟨by unfold BoundTo; decide, ?_, by decide +kernel, by unfold BoundTo; decide, by decide +kernel, by decide +kernel⟩
  intro x hx
  exact absurd hx (by simp [portState, strandState, State.withFetchWord, State.withStrandWord, layerOfBits, State.reset])
theorem witness_PortFormEffects_away : Away (portState 0) (.input 7) ∧ Away (portState 0) (.output 7) ∧ Unbound (portState 0) (.input 8)
    ∧ Unbound (portState 0) (.output 8) ∧ CanSuspend (portState 0) 0 := by
  unfold Away Unbound CanSuspend; decide +kernel

/-! ### Episode, grammar, hold and iteration forms (R99 to R142, R289, R302 to R311) -/

/-- Doublewords written into memory. -/
def putAll (m : Memory) (ws : List (Nat × Nat)) : Memory := ws.foldl (fun m x => m.writeN x.1 8 x.2) m

/-- Page tables at 0x8000_0000: context 1's VA equals PA below 64 GiB; and doublewords placed. -/
def tables (ws : List (Nat × Nat)) : Memory := putAll [] (ws ++ [(0x8000_0000, 0x8001_0001), (0x8001_0000, 0x1F)])

/-- The worker in context 1, whose page tables and memory are so. -/
def pagedState (st : Strand) (ws : List (Nat × Nat)) : State :=
  let s := strandState st
  { s.setCtx 1 { s.ctx 1 with root := 0x8000_0000 } with mem := tables ws }

/-- Store 3 of context 1 at 0x4000, 128-byte slots: slot 0 the record of episode 5, slot 1 in use. -/
def aStore : Store := { ctx := 1, base := 0x4000, capacity := 4, k := 7, fmt := 4, high := 2, counter := 6, live := [(5, 0)] }

/-- Store 3; store 4 without episodes; store 5 full; cursor 2 at slot 1 of store 3, cursor 3 at a handle that names nothing, cursor 4 of
another context. -/
def engineState (g1 g2 : Dword) : State :=
  let s := pagedState { worker g1 g2 0x20 0x21 with regs := (((worker g1 g2 0x20 0x21).regs.set 5 0x8C01)) } []
  s.setFirn { s.firn with
    stores := [(3, aStore), (4, { aStore with live := [] }), (5, { aStore with high := 4 })]
    cursors := [(2, { ctx := 1, pos := 0x0003_0000_0000_0001, dest := 0x20 }), (3, { ctx := 1, pos := 0x0003_0000_0000_0003, dest := 0 }),
                (4, { ctx := 2, pos := 0, dest := 0 })] }

theorem witness_EnginesIdle : EnginesIdle (engineState 2 3) ∧ CanSuspend (engineState 2 3) 0 := by
  unfold EnginesIdle CanSuspend; decide +kernel
theorem witness_CursorFormEffects_cursor : CursorAt (engineState 2 3) 2 { ctx := 1, pos := 0x0003_0000_0000_0001, dest := 0x20 }
    ∧ CursorAt (engineState 2 3) 3 { ctx := 1, pos := 0x0003_0000_0000_0003, dest := 0 } := by unfold CursorAt; decide +kernel
theorem witness_CursorFormEffects_names : Names (engineState 2 3) 1 0x0003_0000_0000_0001 ∧ ¬Names (engineState 2 3) 1 0x0003_0000_0000_0003 := by
  refine ⟨⟨aStore, by decide +kernel, by decide +kernel⟩, ?_⟩
  rintro ⟨st, h, h1, h2, h3, _⟩
  rw [show (engineState 2 3).firn.stores.get? ((0x0003_0000_0000_0003 : Dword).toNat / 2 ^ 48) = some aStore by decide +kernel] at h
  injection h with h
  rw [← h] at h3
  exact absurd h3 (by decide +kernel)
theorem witness_CursorFormEffects_none : NoCursor (engineState 2 3) 4 ∧ NoCursor (engineState 2 3) 9 := by
  constructor <;> intro c h
  · rw [show (engineState 2 3).firn.cursors.get? (4 : Dword).toNat = some { ctx := 2, pos := 0, dest := 0 } by decide +kernel] at h
    injection h with h; rw [← h]; decide +kernel
  · rw [show (engineState 2 3).firn.cursors.get? (9 : Dword).toNat = none by decide +kernel] at h
    cases h
theorem witness_CursorFormEffects_episode : EpisodeAt (engineState 2 3) 0x0003_0000_0000_0005 aStore 0
    ∧ ((engineState 2 3).cursorId 5).isSome = true ∧ ((engineState 2 3).me.g 3).toNat % 32 = 0 ∧ ((engineState 2 3).me.g 4).toNat % 32 ≠ 0 := by
  unfold EpisodeAt; decide +kernel
theorem witness_CursorFormEffects_config : ¬ReservedCfg 0x8200 ∧ (0x8200 : Dword).toNat.testBit 15 = true ∧ (0x0200 : Dword).toNat.testBit 15 = false
    ∧ ReservedCfg 1 ∧ ¬ReservedCfg 0x0000_FFFF_FF0F_8300 := by unfold ReservedCfg; decide +kernel
/-- No cursor number is free: every number of every engine is taken. -/
theorem witness_CursorFormEffects_no_number : (2 : Nat) ^ 32 ≤ (0x1_0000_0000 : Dword).toNat ∧ 4 < (0xFF : Dword).toNat % 8
    ∧ (engineState 2 3).firn.stores.get? 4 = some { aStore with live := [] } ∧ aStore.live ≠ [] := by decide +kernel

/-- The descriptors' line. -/
def descLine : Line :=
  BitVec.ofNat 1024 (0x6000 + 0x0006_0407 * 2 ^ 64 + 16 * 2 ^ 128 + 2 ^ 512 * (0x6000 + 0x0003_0405 * 2 ^ 64 + 16 * 2 ^ 128))

/-- A descriptor of store 6 in core 0's L1, at VA 0x5000; beside it, at 0x5040, one whose k is 5. -/
def eregState (x : Dword) : State :=
  { engineState x 0 with
    cores := [(0, { tlb := [fetchLeaf]
                    l1 := [{ line := 0xA0, data := descLine }] })] }
def soundDesc : List Dword := [0x6000, 0x0006_0407, 16, 0, 0, 0, 0, 0]
theorem witness_EpisodeRecordForms_sound : SoundStore soundDesc := by
  have h0 : (soundDesc.getD 0 0).toNat = 0x6000 := by decide
  have h1 : (soundDesc.getD 1 0).toNat = 0x0006_0407 := by decide
  have h2 : (soundDesc.getD 2 0).toNat = 16 := by decide
  unfold SoundStore
  simp only [h0, h1, h2]
  refine ⟨by omega, by omega, by decide, by omega, by omega, ?_, by omega, by decide, by decide, by unfold soundDesc; simp⟩
  rw [show 0x0006_0407 % 2 ^ 5 = 7 from by omega]; omega
theorem witness_EpisodeRecordForms_unsound : ¬SoundStore [0x6000, 0x0003_0405, 16, 0, 0, 0, 0, 0] := by
  unfold SoundStore
  intro h
  have h1 : (([0x6000, 0x0003_0405, 16, 0, 0, 0, 0, 0] : List Dword).getD 1 0).toNat = 0x0003_0405 := by decide
  simp only [h1] at h
  omega
theorem witness_EpisodeRecordForms_ereg : (eregState 0x5000).xlat (eregState 0x5000).me 0x5000 .read = .hit 0x5000
    ∧ (eregState 0x5000).firn.stores.get? 6 = none ∧ ((eregState 0x5000).firn.stores.get? 3).isSome = true :=
  ⟨by decide +kernel, by decide +kernel, by decide +kernel⟩
theorem witness_EpisodeRecordForms_held : ∀ i, i < 8 → ((eregState 0x5000).core 0).holds 0xA0 (0 + 8 * i) 8 (soundDesc.getD i 0).toNat := by
  intro i h
  refine .inr ⟨{ line := 0xA0, data := descLine }, fun e he => ?_, by decide +kernel, ?_⟩
  · rw [show ((eregState 0x5000).core 0).entryOf 0xA0 = none by decide +kernel] at he; cases he
  · exact (by decide +kernel : ∀ i, i < 8 → (soundDesc.getD i 0).toNat = lineGet descLine (0 + 8 * i) 8) i h
theorem test_ereg_gives_store : nextG (execEreg 5 1 (eregState 0x5000)) 5 = some 6 := by decide +kernel
theorem witness_EpisodeRecordForms_faults : (eregState 0x5001).me.handles ∧ ((eregState 0x5001).me.g 1).toNat % 64 ≠ 0
    ∧ (eregState 0x0100_0000_0000_0000).xlat (eregState 0x0100_0000_0000_0000).me 0x0100_0000_0000_0000 .read = .fault 0x04 := by
  unfold Strand.handles; decide +kernel
theorem witness_EpisodeRecordForms_enew : EnginesIdle (engineState 3 0) ∧ (engineState 3 0).rimes = []
    ∧ (engineState 3 0).firn.stores.get? 3 = some aStore ∧ NextSlot aStore { aStore with high := 3 } 2 ∧ aStore.number = some 6
    ∧ NextSlot { aStore with free := [1, 0] } { aStore with free := [0] } 1
    ∧ (∃ ps, (engineState 3 0).engineRange 1 (0x4000 + 2 * 2 ^ 7) (2 ^ 7) .write = .ok ps)
    ∧ (engineState 5 0).firn.stores.get? 5 = some { aStore with high := 4 } := by
  refine ⟨by unfold EnginesIdle; decide +kernel, rfl, by decide +kernel, ⟨by decide +kernel, rfl, rfl⟩, by decide +kernel, ⟨rfl, rfl⟩,
    some_ok (by decide +kernel), by decide +kernel⟩

/-- A grammar image at 0x1000: V = 8, two states; from state 0 token 3 goes to state 1 and pushes symbol 7, token 5 pops symbol 9;
its mask row of state 0 allows tokens 3 and 5, the popping transition check-listed. -/
def grammarWords : List (Nat × Nat) :=
  [(0x1000, 8 * 2 ^ 16 + 1), (0x1008, 2), (0x1010, 64), (0x1018, 96), (0x1020, 128), (0x1028, 1152), (0x1030, 1160), (0x1038, 0),
   (0x1040, 2 * 2 ^ 32), (0x1048, 2 * 2 ^ 32), (0x1050, 0), (0x1058, 0),
   (0x1060, 3), (0x1068, 0xFFFF_0007_FFFF_0001), (0x1070, 5), (0x1078, 0xFFFF_FFFF_0009_0001),
   (0x1080, 0x28), (0x1480, 0x0000_0001_0000_0000)]

def aGram : Gram := { ctx := 1, image := 0x1000, state := 0 }
def deepGram : Gram := { aGram with stack := List.replicate 256 1 }
/-- Grammar contexts 0 to 2, snapshots 0 and 1; input port 3 of core 0 bound. -/
def grammarState (g1 g2 : Dword) : State :=
  let s := pagedState (worker g1 g2 0 0) grammarWords
  { s.setGen { s.gen with grams := [(0, aGram), (1, deepGram), (2, { aGram with ctx := 2 })]
                          snaps := [(0, ⟨1, 0x1000, 1, [7], 1⟩), (1, ⟨1, 0x9000, 1, [7], 1⟩)] } with
    cores := [(0, { tlb := [fetchLeaf], regions := [(0, portRegion)] })] }
def grammarHdr : GramHdr := { base := 0x1000, v := 8, start := 0, n := 2, states := 64, trans := 96, masks := 128, checks := 1152, length := 1160 }

theorem witness_GenerationFormEffects_ginit : EnginesIdle (grammarState 0x1000 0) ∧ (grammarState 0x1000 0).gramHdr 1 0x1000 = .ok grammarHdr
    ∧ (grammarState 0x1000 0).freeGram 0 = some 3 ∧ (0x1001 : Dword).toNat % 64 ≠ 0 := by
  refine ⟨by unfold EnginesIdle; decide +kernel, ok_of (by decide +kernel), by decide +kernel, by decide +kernel⟩
theorem witness_GenerationFormEffects_gstep : GramAt (grammarState 0 3) 0 aGram
    ∧ (grammarState 0 3).gramState 1 grammarHdr 0 = .ok ⟨0, 2, 0, 2⟩
    ∧ (grammarState 0 3).findTrans 1 grammarHdr 3 33 0 2 = .ok (0, ⟨3, 1, 0xFFFF, 7, 0xFFFF⟩)
    ∧ (grammarState 0 3).findTrans 1 grammarHdr 4 33 0 2 = .error (.reject 0x90)
    ∧ (grammarState 0 3).findTrans 1 grammarHdr 5 33 0 2 = .ok (1, ⟨5, 1, 9, 0xFFFF, 0xFFFF⟩)
    ∧ (grammarState 0 3).gramChecks 1 grammarHdr ⟨0, 2, 0, 2⟩ = .ok [0, 1]
    ∧ Steps aGram { aGram with state := 1, position := 1, stack := [7] } ⟨3, 1, 0xFFFF, 7, 0xFFFF⟩
    ∧ aGram.stack.head? ≠ some 9 ∧ deepGram.stack.length = 256 :=
  ⟨⟨by decide +kernel, rfl⟩, ok_of (by decide +kernel), ok_of (by decide +kernel), err_of (by decide +kernel), ok_of (by decide +kernel),
    ok_of (by decide +kernel), rfl, by decide +kernel, by decide +kernel⟩
theorem witness_GenerationFormEffects_gmask : (∃ v, (grammarState 0 0x1_0000).gramMask aGram = .ok v) ∧ (0x1_0000 : Dword).toNat.testBit 63 = false
    ∧ (∃ ps, (grammarState 0 0x1_0000).engineRange 1 0x1_0000 512 .write = .ok ps)
    ∧ (0x8000_0000_0000_0003 : Dword).toNat / 16 = 2 ^ 59 ∧ ((grammarState 0 0).core 0).binds 1 (.input 3) = true
    ∧ ((grammarState 0 0).core 0).binds 1 (.input 4) = false :=
  ⟨some_ok (by decide +kernel), by decide +kernel, some_ok (by decide +kernel), by decide +kernel, by decide +kernel, by decide +kernel⟩
theorem witness_GenerationFormEffects_contexts : GramAt (grammarState 0 0) 0 aGram ∧ SnapAt (grammarState 0 0) 0 ⟨1, 0x1000, 1, [7], 1⟩
    ∧ SnapAt (grammarState 0 1) 1 ⟨1, 0x9000, 1, [7], 1⟩ ∧ lowestFreeFrom (grammarState 0 0).gen.snaps 0 3 0 = some 2
    ∧ (∀ g, (grammarState 2 0).gen.grams.get? 2 = some g → g.ctx ≠ 1) := by
  refine ⟨⟨by decide +kernel, rfl⟩, ⟨by decide +kernel, rfl, by decide +kernel⟩, ⟨by decide +kernel, rfl, by decide +kernel⟩, by decide +kernel, ?_⟩
  intro g h
  rw [show (grammarState 2 0).gen.grams.get? 2 = some { aGram with ctx := 2 } by decide +kernel] at h
  injection h with h; rw [← h]; decide +kernel

/-- Domain 0 checked by context 1 with two held tokens of sequence 7; domain 1 checked by another; domain 2 not configured. -/
def holdState (g1 g2 : Dword) : State :=
  let s := strandState (worker g1 g2 0 0)
  s.setGen { s.gen with hold := [⟨0, 7, 5, 4, false⟩, ⟨0, 7, 6, 6, false⟩]
                        domains := [(0, { checker := 1, configured := true }), (1, { checker := 2, configured := true }), (2, {})] }
-- R304's entry words: the count released in bits [63:8]
theorem test_hpeek_position : (nextMe (execHpeek 5 1 2 (holdState 7 5))).map (fun st => st.window.head?.map (·.resp)) = some (some (some 0x0000_0005_0001_0000)) := by decide +kernel
theorem witness_GenerationFormEffects_hold : (holdState 7 5).me.scout = false ∧ (holdState 7 5).meKey = keyOf 0 0 ∧ (7 : Dword).toNat < 2 ^ 40
    ∧ (holdState 7 5).gen.domains.get? 0 = some { checker := 1, configured := true }
    ∧ (holdState 7 5).gen.domains.get? 1 = some { checker := 2, configured := true }
    ∧ HeldOf ⟨0, 7, 5, 4, false⟩ 7 ∧ (∀ e' ∈ (holdState 7 5).gen.hold, HeldOf e' 7 → e'.position = 5 → e' = ⟨0, 7, 5, 4, false⟩)
    ∧ (∀ e ∈ (holdState 7 9).gen.hold, HeldOf e 7 → (9 : Nat) ≠ 2 ^ 64 - 1 ∧ e.position ≠ 9)
    ∧ (∀ e' ∈ (holdState 7 9).gen.hold, HeldOf e' 7 → e' ≠ ⟨0, 7, 5, 4, false⟩ → 5 < e'.position) := by decide +kernel
theorem witness_GenerationFormEffects_domains : (2 : Nat) ^ 40 ≤ (0x100_0000_0000 : Dword).toNat
    ∧ (∀ x, (holdState 0 0).gen.domains.get? 2 = some x → x.configured = false) := by
  refine ⟨by decide +kernel, fun x h => ?_⟩
  rw [show (holdState 0 0).gen.domains.get? 2 = some {} by decide +kernel] at h
  injection h with h; rw [← h]

/-- A descriptor at 0x2000: one entry, row port 4, start port 3; table at 0x3000, area 0x3100, policies 0x3800. -/
def iterWords : List (Nat × Nat) :=
  [(0x2000, 2 ^ 32 + 0x43), (0x2008, 0x3000), (0x2010, 0x3100), (0x2018, 9), (0x2020, 0x3800), (0x2040, 2 ^ 48)]
def iterState : State :=
  { pagedState (worker 0x2000 0x2040 0x2001 0) iterWords with cores := [(0, { tlb := [fetchLeaf], regions := [(0, portRegion)] })] }
def iterDesc : List Dword := [0x1_0000_0043, 0x3000, 0x3100, 9, 0x3800, 0, 0, 0]
theorem witness_GenerationFormEffects_iter : iterState.viewDwords 0 1 0x2000 8 = .ok iterDesc ∧ iterState.descOk 0 1 iterDesc = true
    ∧ iterState.areasFault 1 [(0x3000, 64, .write), (0x3100, 128, .write), (0x3800, 512, .read)] = none
    ∧ (∃ ps, iterState.viewDwords 0 1 0x3800 64 = .ok ps) ∧ CanSuspend iterState 0 ∧ (iterState.core 0).iters = []
    ∧ iterState.stopped 0 1 = false := by
  refine ⟨ok_of (by decide +kernel), by decide +kernel, by decide +kernel, some_ok (by decide +kernel), by unfold CanSuspend; decide +kernel, by decide +kernel, by decide +kernel⟩
theorem witness_GenerationFormEffects_iter_refused : iterState.viewDwords 0 1 0x2040 8 = .ok [2 ^ 48, 0, 0, 0, 0, 0, 0, 0]
    ∧ ((2 ^ 48 : Dword)).toNat / 2 ^ 48 ≠ 0 :=
  ⟨ok_of (by decide +kernel), by decide +kernel⟩

/-! ### Elements and routers (R219 to R287) -/

/-- The element of cell 0 in state st; links 0 to 2 bring it these tokens in format f, links 3 and 4 are its outputs. -/
def unitRegion (st : UnitState) (f : BitVec 4) (ts : List (Option Token)) : Region :=
  let input (n : Nat) : Link :=
    { fmt := f, slots := 2, cons := some ⟨0, false⟩
      queue := match ts.getD n none with
        | some t => [[t]]
        | none => [] }
  { portRegion with
    links := [input 0, input 1, input 2, { fmt := f, slots := 2, prod := some ⟨0, false⟩ }, { fmt := f, slots := 2, prod := some ⟨0, false⟩ }]
    cells := [(0, { est := st })] }

/-- The element of cell 0 has the turn in such a region. -/
def unitState (r : Region) : State :=
  { strandState {} with actor := .unit 0 0 0 false, cores := [(0, { regions := [(0, r)], stateSlots := 4 })] }
def unit0 : UnitAt := ⟨0, 0, 0, false⟩

/-- A data token of valid lanes. -/
def dataToken (f : BitVec 4) (vs : List Nat) : Token := { fmt := f, lanes := vs.map codeLane }

/-- A word on links 0, 1, 2 to 3, 4. -/
def word (f : BitVec 4) (aux : BitVec 8) : EWord := ⟨f, false, false, 0, 0, 1, 2, 3, 4, aux, 0⟩
/-- The same with the constant as its second input. -/
def wordK (f : BitVec 4) (k : BitVec 64) : EWord := ⟨f, true, false, 0, 0, 0xFF, 0xFF, 3, 0xFF, 0, k⟩

/-- What an outcome leaves at the head of a link of the region. -/
def nextHead (o : Out) (j : Nat) : Option Token :=
  match o with
  | .next t => (t.region 0 0).bind fun r => (r.link j).head
  | _ => none
/-- The values of its valid lanes. -/
def nextLanes (o : Out) (j : Nat) : Option (List (Option Nat)) := (nextHead o j).map fun t => t.lanes.map fun l => if l.ok then some l.val.toNat else none
def nextUnit (o : Out) : Option UnitState :=
  match o with
  | .next t => (t.region 0 0).map fun r => (r.cell 0).est
  | _ => none

def addRegion : Region := unitRegion .idle 4 [some (dataToken 4 [200, 7, 1]), some (dataToken 4 [100, 9]), some (dataToken 4 [1, 0, 1])]

theorem unit_turn (r : Region) (h : r.links.all (fun l => !(l.slots == 0)) = true) : UnitTurn (unitState r) unit0 r := by
  refine ⟨rfl, rfl, fun l hl h0 => ?_⟩
  have := List.all_eq_true.1 h l hl
  simp [h0] at this

-- R248's examples in N8: 200 + 100, saturated, the high part of the product; R219's lane count
theorem test_vadd_wraps : nextLanes (execVadd (word 4 0) (unitState addRegion)) 3 = some [some 44, some 16] := by decide +kernel
theorem test_vadds_clamps : nextLanes (execVadds (word 4 0) (unitState addRegion)) 3 = some [some 255, some 16] := by decide +kernel
theorem test_vmulh_high_part : nextLanes (execVmulh (word 4 0) (unitState addRegion)) 3 = some [some 78, some 0] := by decide +kernel
-- R39: the constant in every lane; R251: codes of the comparison
theorem test_vsub_constant : nextLanes (execVsub (wordK 4 8) (unitState addRegion)) 3 = some [some 192, some 255, some 249] := by decide +kernel
theorem test_vcmp_less : nextLanes (execVcmp (word 4 2) (unitState addRegion)) 3 = some [some 0, some 1] := by decide +kernel
-- R254: an inclusive sum scan carries its running value to the next token
theorem test_vscan_carries : nextUnit (execVscan { word 4 0 with c := 0xFF } (unitState (unitRegion (.scan 5 true) 4 [some (dataToken 4 [1, 2])])))
    = some (.scan 8 true) := by decide +kernel
-- R263: lanes kept in order, the count on output 1
theorem test_vpack_counts : nextLanes (execVpack { word 4 0 with b := 0xFF, c := 0xFF }
    (unitState (unitRegion .idle 4 [some { fmt := 4, lanes := [codeLane 5, ⟨0, false⟩, codeLane 6] }]))) 4 = some [some 2] := by decide +kernel
-- R255: 1.0 + 2.0 in F32; R258: 1 * 3 + 2 * 4 over a segment of two lanes is 11
theorem test_fvadd_f32 : nextLanes (execFvadd { word 0xC 0 with c := 0xFF }
    (unitState (unitRegion .idle 0xC [some (dataToken 0xC [0x3F80_0000]), some (dataToken 0xC [0x4000_0000])]))) 3 = some [some 0x4040_0000] := by decide +kernel

theorem witness_FiringChangesItsLinks : addRegion.mask = 0 ∧ (∀ l ∈ addRegion.links, [] ∉ l.queue)
    ∧ (([0, 1, 0xFF, 0xFF] : List (BitVec 8)).filter (· ≠ 0xFF)).Nodup := by
  refine ⟨rfl, ?_, by decide⟩
  simp [addRegion, unitRegion]
theorem witness_LinkConversionAndSquash : ((dataToken 4 [200]).kind = .data) ∧ (dataToken 4 [200]).fmt ≠ 0 ∧ (dataToken 4 [200]).lanes ≠ []
    ∧ ({ dataToken 4 [1] with kind := .control } : Token).kind ≠ .data := by decide +kernel
/-- A permit region: link 0 a scope link that heads with tokens of sequences 1 and 2, of which 1 is squashed; link 1 no scope link. -/
def squashRegion : Region :=
  { addRegion with
    links := [{ fmt := 4, slots := 4, scope := true, queue := [[{ dataToken 4 [1] with iter := 1 }], [{ dataToken 4 [1] with iter := 2 }]] },
              { fmt := 4, slots := 4, queue := [[{ dataToken 4 [1] with iter := 1 }]] }]
    permit := some { k := 4, free := 2, mask := 2 } }
theorem witness_LinkConversionAndSquash_squash : (squashRegion.link 1).scope = false ∧ (squashRegion.link 0).scope = true
    ∧ 0 < squashRegion.links.length ∧ (∀ q ∈ (squashRegion.link 0).queue, q ≠ [])
    ∧ ((squashRegion.squash.link 0).head).map (·.iter) = some 2 := by
  refine ⟨rfl, rfl, by decide, by decide, by decide +kernel⟩

theorem witness_IntegerElementResults : UnitTurn (unitState addRegion) unit0 addRegion ∧ fmtIsFloat (word 4 0).fmt = false
    ∧ addRegion.headAt 0 = some (dataToken 4 [200, 7, 1]) ∧ SecondInput addRegion (word 4 0) (dataToken 4 [100, 9])
    ∧ addRegion.headAt 2 = some (dataToken 4 [1, 0, 1])
    ∧ SecondInput addRegion (wordK 4 8) { fmt := 4, lanes := List.replicate 512 ⟨8, true⟩ } := by
  refine ⟨unit_turn _ rfl, rfl, rfl, ?_, rfl, ?_⟩
  · unfold SecondInput; decide +kernel
  · unfold SecondInput; decide +kernel
theorem witness_IntegerElementResults_scan : ScanState (word 4 0) .idle (some 0) ∧ ScanState (word 4 0) (.scan 5 true) (some 5)
    ∧ ScanState (word 4 0) (.scan 5 false) none ∧ ScanState (word 4 2) .idle (some 255)
    ∧ ((word 4 0).sat = true → (word 4 0).aux.toNat % 4 = 0) := by
  refine ⟨rfl, rfl, rfl, ?_, nofun⟩
  unfold ScanState; decide +kernel

def floatRegion (st : UnitState) : Region :=
  unitRegion st 0xC [some (dataToken 0xC [0x3F80_0000, 0x4000_0000]), some (dataToken 0xC [0x4040_0000, 0x4080_0000]), some (dataToken 0xC [1, 0])]
theorem witness_FloatElementResults : UnitTurn (unitState (floatRegion .idle)) unit0 (floatRegion .idle)
    ∧ (word 0xC 0).fmt.toNat ∈ [0xA, 0xB, 0xC] ∧ (floatRegion .idle).headAt 0 = some (dataToken 0xC [0x3F80_0000, 0x4000_0000])
    ∧ SecondInput (floatRegion .idle) (word 0xC 0) (dataToken 0xC [0x4040_0000, 0x4080_0000])
    ∧ (floatRegion .idle).headAt 2 = some (dataToken 0xC [1, 0]) ∧ RecurrenceState .idle (some 0)
    ∧ RecurrenceState (.lrec 7 true) (some 7) ∧ RecurrenceState (.lrec 7 false) none := by
  refine ⟨unit_turn _ rfl, by decide, rfl, ?_, rfl, rfl, rfl, rfl⟩
  unfold SecondInput; decide +kernel
theorem witness_FloatElementResults_points : f32 ∈ [f32, f16, bf16] ∧ bf16 ∈ [f32, f16, bf16] ∧ (0 : Nat) < 1 := by simp
theorem witness_FloatElementResults_dot : fmtIsFloat (word 0xC 0).fmt = true ∧ (word 0xC 3).aux.toNat = 3 ∧ (word 0xC 10).aux.toNat = 10 := by decide

/-- Links of N8 with an index token of the lanes that VBCAST, VPERM and VUNPK read. -/
theorem witness_MovementElementResults : UnitTurn (unitState addRegion) unit0 addRegion ∧ addRegion.headAt 0 = some (dataToken 4 [200, 7, 1])
    ∧ addRegion.headAt 1 = some (dataToken 4 [100, 9]) ∧ (word 4 0).b ≠ 0xFF ∧ (word 4 0).k = false
    ∧ (wordK 4 8).b = 0xFF ∧ (word 4 0x2A).aux.toNat / 16 ≤ 2 ∧ (word 4 0x2A).aux.toNat % 16 ≤ 10 :=
  ⟨unit_turn _ rfl, rfl, rfl, by decide, rfl, rfl, by decide, by decide⟩

/-- CVT in its second firing, of a token of 600 I8 lanes. -/
def splitRegion (st : UnitState) : Region := unitRegion st 4 [some (dataToken 4 (List.replicate 600 3)), some (dataToken 2 [4])]
theorem witness_ConversionElementResults : UnitTurn (unitState (splitRegion (.split 1))) unit0 (splitRegion (.split 1))
    ∧ (splitRegion (.split 1)).headAt 0 = some (dataToken 4 (List.replicate 600 3))
    ∧ 1 * laneCount (word 4 0).fmt < (dataToken 4 (List.replicate 600 3)).count
    ∧ ((splitRegion (.split 1)).cell 0).unitState false = .split 1 ∧ ((splitRegion .idle).cell 0).unitState false = .idle
    ∧ (splitRegion .idle).headAt 1 = some (dataToken 2 [4]) := by
  refine ⟨unit_turn _ rfl, rfl, by decide +kernel, rfl, rfl, rfl⟩
theorem witness_ConversionElementResults_lanes : ((2 : BitVec 4) ≠ 0 ∨ (0 : Int) ≠ 0) ∧ fmtIsFloat 0 = false ∧ fmtIsFloat 0xC = true
    ∧ laneWidth 0 < laneWidth 2 ∧ (laneVal 0xC 0x7FC0_0000).scale 0 = .nan false ∧ (laneVal 0xC 0xFF80_0000).scale 0 = .inf true := by
  decide +kernel
theorem witness_ConversionElementResults_cturn :
    ((unitRegion (.fill [dataToken 4 [1]]) 4 [some (dataToken 4 [2])]).cell 0).unitState false = .fill [dataToken 4 [1]]
      ∧ ((unitRegion (.emit [dataToken 4 [1], dataToken 4 [2]] 0) 4 []).cell 0).unitState false = .emit [dataToken 4 [1], dataToken 4 [2]] 0 := ⟨rfl, rfl⟩

/-- A router's region with a control lane at A and tokens at B and C. -/
def routeRegion (st : UnitState) (ctl : Lane) (b c : Option Token) : Region :=
  unitRegion st 7 [some { kind := .control, fmt := 7, lanes := [ctl] }, b, c]
theorem witness_RouterResults : UnitTurn (unitState (routeRegion .idle ⟨1, true⟩ none none)) unit0 (routeRegion .idle ⟨1, true⟩ none none)
    ∧ (word 7 0).k = false ∧ Controls { kind := .control, fmt := 7, lanes := [⟨1, true⟩] } (some true)
    ∧ Controls { kind := .control, fmt := 7, lanes := [⟨0, true⟩] } (some false)
    ∧ Controls { kind := .control, fmt := 7, lanes := [⟨0, false⟩] } none
    ∧ (routeRegion .idle ⟨1, true⟩ none none).headAt 1 = none
    ∧ (routeRegion .idle ⟨1, true⟩ (some (dataToken 7 [9])) (some (dataToken 7 [8]))).headAt 1 = some (dataToken 7 [9])
    ∧ (routeRegion .idle ⟨1, true⟩ (some (dataToken 7 [9])) (some (dataToken 7 [8]))).headAt 2 = some (dataToken 7 [8]) := by
  refine ⟨unit_turn _ rfl, rfl, ?_, ?_, ?_, rfl, rfl, rfl⟩ <;> (unfold Controls; decide +kernel)
theorem witness_RouterResults_loops : ((routeRegion .carryLoop ⟨1, true⟩ none none).cell 0).unitState false = .carryLoop
    ∧ ((routeRegion (.invarLoop (dataToken 7 [1])) ⟨1, true⟩ none none).cell 0).unitState false = .invarLoop (dataToken 7 [1])
    ∧ ((routeRegion (.row true) ⟨1, true⟩ none none).cell 0).unitState false = .row true
    ∧ ((routeRegion (.row false) ⟨1, true⟩ none none).cell 0).unitState false = .row false := ⟨rfl, rfl, rfl, rfl⟩
-- R233: CARRY passes A and enters its loop
theorem test_carry_enters_loop : nextUnit (execCarry (word 7 0) (unitState (routeRegion .idle ⟨1, true⟩ none none))) = some .carryLoop := by
  decide +kernel

/-- A permit of four sequences, 3 and 4 in flight, whose inputs hold these tokens. -/
def permitRegion (a b c : Option Token) : Region :=
  { unitRegion .idle 7 [a, b, c] with permit := some { k := 4, free := 2, next := 5, inflight := [3, 4] } }
def exitToken (q : Nat) (v : Nat) : Token := { controlToken v with iter := q }
theorem witness_RouterResults_permit : UnitTurn (unitState (permitRegion none (some (exitToken 3 0)) none)) unit0 (permitRegion none (some (exitToken 3 0)) none)
    ∧ (permitRegion none (some (exitToken 3 0)) none).headAt 1 = some (exitToken 3 0)
    ∧ (permitRegion none none (some (exitToken 3 1))).headAt 2 = some (exitToken 3 1) ∧ (exitToken 3 1).isTrue 0 = true
    ∧ (exitToken 3 0).isTrue 0 = false ∧ [3, 4] = [] ++ [3] ++ [4] ∧ [3, 4].Nodup ∧ 7 ∉ [3, 4]
    ∧ (permitRegion (some (dataToken 7 [1])) none none).headAt 0 = some (dataToken 7 [1])
    ∧ (permitRegion (some (dataToken 7 [1])) none none).mayWriteAt 3 = true ∧ (0 : BitVec 8).getLsbD 5 = false := by
  refine ⟨unit_turn _ rfl, rfl, rfl, by decide, by decide, rfl, by decide, by decide, rfl, by decide +kernel, by decide⟩

-- R279: SMXI's state token is (A's lane, 1.0, 1.0); R281, R282: a causal mask program of one term
theorem test_smxi_state : nextLanes (execSmxi { word 0xC 4 with b := 0xFF, c := 0xFF } (unitState (unitRegion .idle 0xC [some (dataToken 0xC [0x4040_0000])]))) 3
    = some [some 0x4040_0000, some 0x3F80_0000, some 0x3F80_0000] := by decide +kernel
theorem test_pred_causal : nextLanes (execPred { word 4 0 with b := 0xFF, k := true, konst := 0x0001_0000_0000_0001 }
    (unitState (unitRegion .idle 7 [some (dataToken 7 [5, 0]), none, some (dataToken 7 [4, 5, 6])]))) 3 = some [some 1, some 1, some 0] := by decide +kernel
theorem witness_AttentionElementResults : UnitTurn (unitState (floatRegion .idle)) unit0 (floatRegion .idle) ∧ (word 0xC 0).fmt = 0xC
    ∧ (floatRegion .idle).headAt 0 = some (dataToken 0xC [0x3F80_0000, 0x4000_0000])
    ∧ (floatRegion .idle).headAt 1 = some (dataToken 0xC [0x4040_0000, 0x4080_0000])
    ∧ (dataToken 0xC [0x3F80_0000, 0x4000_0000]).ok 0 = true ∧ (dataToken 0xC [0x3F80_0000, 0x4000_0000]).ok 1 = true
    ∧ (dataToken 0xC [0x3F80_0000]).ok 1 = false :=
  ⟨unit_turn _ rfl, rfl, rfl, rfl, by decide +kernel, by decide +kernel, by decide +kernel⟩
theorem witness_AttentionElementResults_mask : (word 4 0).fmt = 4 ∧ addRegion.headAt 0 = some (dataToken 4 [200, 7, 1])
    ∧ addRegion.headAt 2 = some (dataToken 4 [1, 0, 1]) := ⟨rfl, rfl, rfl⟩
theorem witness_AttentionElementResults_reducer : 0 < (dataToken 4 [200, 7, 1]).count ∧ (addRegion.cell 0).unitState false = .idle
    ∧ (dataToken 4 [1]).reset = false
    ∧ ((unitRegion (.fold 1 false (groupLanes (word 4 0) (dataToken 4 [1]) [])) 4 [some (dataToken 4 [2])]).cell 0).unitState false
      = .fold (([] : List Token).length + 1) (dataToken 4 [1]).reset (groupLanes (word 4 0) (dataToken 4 [1]) []) := by
  refine ⟨by decide +kernel, rfl, rfl, rfl⟩

/-- Tile set 0 of row engine 0 ready, one use left; MROW with a row of one I8 token. -/
def rowRegion (st : UnitState) (m : Mre) : Region :=
  { unitRegion st 0 [some { dataToken 0 [2, 255] with last := true }, some (dataToken 7 [0x0001_0000]), none] with
    mres := [(0, m)], bufs := [⟨.w, 0, 8192, 0⟩] }
def aTile : TileSet := { first := 0, count := 1, uses := some 1, ok := true }
theorem witness_MatrixRowResults : UnitTurn (unitState (rowRegion .idle { tiles := some aTile })) unit0 (rowRegion .idle { tiles := some aTile })
    ∧ (word 0 0).fmt.toNat ∈ [0, 8, 9, 0xA, 0xD] ∧ (word 0 4).aux.toNat / 4 ≤ 2
    ∧ (rowRegion .idle { tiles := some aTile }).headAt 0 = some { dataToken 0 [2, 255] with last := true }
    ∧ ((rowRegion .idle { tiles := some aTile }).mre 0).tiles = some aTile ∧ aTile.uses ≠ some 0
    ∧ ((rowRegion (.fill [dataToken 0 [1]]) { tiles := some aTile }).cell 0).unitState false = .fill [dataToken 0 [1]]
    ∧ (dataToken 0 [1]).last = false := by
  refine ⟨unit_turn _ rfl, by decide, by decide, rfl, rfl, by decide, rfl, rfl⟩
theorem witness_MatrixRowResults_outputs : outputsFree (rowRegion .idle { tiles := some aTile }) (word 0 4) none (some (controlToken 0)) := by
  unfold outputsFree; decide +kernel
theorem witness_TileLoadResults : (word 0 0).k = false ∧ ((rowRegion .idle { tiles := some aTile }).mre 0).load = none
    ∧ ((rowRegion .idle { tiles := some { aTile with uses := some 0 } }).mre 0).tiles = some { aTile with uses := some 0 }
    ∧ (rowRegion .idle {}).headAt 1 = some (dataToken 7 [0x0001_0000])
    ∧ ((rowRegion .idle { load := some ⟨0x800, true, 0, 4096⟩ }).mre 0).load = some ⟨0x800, true, 0, 4096⟩
    ∧ (rowRegion .idle {}).bufs = [⟨.w, 0, 8192, unit0.cell⟩] ∧ 0x0001_0000 / 2 ^ 12 % 2 ^ 4 = 0 := by
  refine ⟨rfl, rfl, rfl, rfl, rfl, rfl, by decide⟩
/-- Row engine 0 with a C range of eight rows. -/
def drainRegion (st : UnitState) (v : Lane) : Region :=
  let r := unitRegion st 7 [some { fmt := 7, lanes := [v] }, none, none]
  { r with bufs := [⟨.c, 0, 2048, 1⟩], cells := r.cells ++ [(1, { elem := some (.mrow (word 0 4)) })] }
theorem witness_DrainAndClearResults : UnitTurn (unitState (drainRegion .idle ⟨1, true⟩)) unit0 (drainRegion .idle ⟨1, true⟩)
    ∧ ((drainRegion .idle ⟨1, true⟩).cell 0).unitState false = .idle
    ∧ (drainRegion .idle ⟨1, true⟩).headAt 0 = some { fmt := 7, lanes := [⟨1, true⟩] }
    ∧ 1 < ((drainRegion .idle ⟨1, true⟩).cRange 0).2
    ∧ (drainRegion (.rows 3 2 5 (controlToken 1)) ⟨1, true⟩).headAt 0 = some { fmt := 7, lanes := [⟨1, true⟩] }
    ∧ ((drainRegion (.rows 3 2 5 (controlToken 1)) ⟨1, true⟩).cell 0).unitState false = .rows 3 2 5 (controlToken 1)
    ∧ ((drainRegion .idle ⟨1, true⟩).cRange 0).2 ≤ 0xFFFF := by
  refine ⟨unit_turn _ rfl, rfl, rfl, by decide +kernel, rfl, rfl, by decide +kernel⟩
theorem test_mclr_invalid_trigger : nextLanes (execMclr { word 7 0 with b := 0xFF, c := 0xFF } (unitState (drainRegion .idle ⟨1, false⟩))) 3
    = some [some 0] := by decide +kernel

/-- Streams 1 (slot 2, closed), 2 (open) and 3 (swapped out) of context 1; two input tokens. -/
def carryState (a b : Token) : State :=
  let s := unitState (unitRegion .idle 7 [some a, some b])
  s.modCore 0 fun c => { c with streams := [⟨1, 1, some 2, 0, false⟩, ⟨1, 2, some 1, 0, true⟩, ⟨1, 3, none, 0x4000, false⟩] }
theorem witness_CarriedStateResults : UnitTurn (carryState (dataToken 7 [1, 1]) (dataToken 7 [1])) unit0 (unitRegion .idle 7 [some (dataToken 7 [1, 1]), some (dataToken 7 [1])])
    ∧ ((carryState (dataToken 7 [1, 1]) (dataToken 7 [1])).core 0).stream 1 1 = some ⟨1, 1, some 2, 0, false⟩
    ∧ ((carryState (dataToken 7 [2, 1]) (dataToken 7 [1])).core 0).stream 1 2 = some ⟨1, 2, some 1, 0, true⟩
    ∧ ((carryState (dataToken 7 [3, 1]) (dataToken 7 [1])).core 0).stream 1 3 = some ⟨1, 3, none, 0x4000, false⟩
    ∧ ((carryState (dataToken 7 [9, 1]) (dataToken 7 [1])).core 0).stream 1 9 = none
    ∧ (0 < ((carryState (dataToken 7 [9, 1]) (dataToken 7 [1])).core 0).stateSlots
        ∧ ∀ y ∈ ((carryState (dataToken 7 [9, 1]) (dataToken 7 [1])).core 0).streams, y.slot ≠ some 0)
    ∧ (∀ l ∈ (dataToken 7 [1, 1]).lanes, l.ok = true) := by
  refine ⟨⟨rfl, by decide +kernel, fun l hl h0 => ?_⟩, by decide +kernel, by decide +kernel, by decide +kernel, by decide +kernel, by decide +kernel, by decide +kernel⟩
  have := List.all_eq_true.1 (by decide +kernel : (unitRegion .idle 7 [some (dataToken 7 [1, 1]), some (dataToken 7 [1])]).links.all (fun l => !(l.slots == 0)) = true) l hl
  simp [h0] at this
-- R285: a stream whose slot holds nothing written gives zeros and is opened
theorem test_stld_fresh_stream : (nextHead (execStld { word 7 0 with b := 0xFF, c := 0xFF } (carryState (dataToken 7 [9]) (dataToken 7 [1]))) 3).map (·.count)
    = some 64 := by decide +kernel

/-! ### Address generators and stream commands (R143 to R176) -/

/-- An AG in cell 0 with this state; shape record 0 walks four bytes from 0x4000; tokens at its links. -/
def agRegion (ag : AgState) (ts : List (Option Token)) : Region :=
  { unitRegion .idle 4 ts with
    cells := [(0, { ag := ag })], shapes := [{ base := 0x4000, ext := [4, 1, 1, 1, 1], str := [1, 0, 0, 0, 0], ndims := 1, fmt := 4 }] }
def agState (r : Region) : State := { pagedState {} [] with actor := .unit 0 0 0 false, cores := [(0, { regions := [(0, r)] })] }
def fourBytes : Shape := (agRegion {} []).shapes.getD 0 {}
theorem ag_turn (r : Region) (h : r.links.all (fun l => !(l.slots == 0)) = true) : UnitTurn (agState r) unit0 r := by
  refine ⟨rfl, rfl, fun l hl h0 => ?_⟩
  have := List.all_eq_true.1 h l hl
  simp [h0] at this

theorem witness_AddressGeneratorResults : UnitTurn (agState (agRegion {} [])) unit0 (agRegion {} [])
    ∧ AgWord (.agld (word 4 0)) .load (word 4 0) ∧ AgWord (.agst (word 4 0)) .store (word 4 0)
    ∧ AgWord (.aguf (word 4 0x10)) (.unfold true) (word 4 0x10) ∧ AgWord (.agga (word 4 0x10)) .scatter (word 4 0x10)
    ∧ AgWord (.agga (word 4 0)) .gather (word 4 0) := by
  refine ⟨ag_turn _ rfl, ?_, ?_, ?_, ?_, ?_⟩ <;> (unfold AgWord; decide)
theorem witness_AddressGeneratorResults_rounds :
    (agRegion { ahead := [(dataToken 4 [1], 1)] } []).mayWriteAt 3 = true
      ∧ roundOver { round := some fourBytes, pos := 4 } .load fourBytes ∧ roundOver { round := some fourBytes, ended := true } .gather fourBytes
      ∧ (agRegion {} [none, none, some (dataToken 7 [1, 5])]).headAt 2 = some (dataToken 7 [1, 5])
      ∧ (agRegion {} [none, none, some (dataToken 7 [0x61, 5])]).headAt 2 = some (dataToken 7 [0x61, 5])
      ∧ (agRegion {} [some (dataToken 7 [1])]).headAt 0 = some (dataToken 7 [1]) ∧ (agRegion {} []).headAt 0 = none
      ∧ (agRegion {} []).headAt 2 = none ∧ (({ rounds := 3 } : AgState)).rounds = 2 + 1 := by
  refine ⟨by decide +kernel, ?_, ?_, rfl, rfl, rfl, rfl, rfl, rfl⟩ <;> (unfold roundOver; decide +kernel)
/-- AGST stores two valid lanes of a token of three in a round of four bytes. -/
theorem witness_AddressGeneratorResults_store :
    let ag : AgState := { round := some fourBytes }
    let t : Token := { fmt := 4, lanes := [codeLane 0x11, ⟨0, false⟩, codeLane 0x33] }
    let r := { agRegion ag [some t] with ranges := [⟨0x4000, 4, [0], 0⟩] }
    let ws : List ElemWrite := [⟨0x4000, 0x4000, 1, 0, 8, 0x11⟩, ⟨0x4002, 0x4002, 1, 0, 8, 0x33⟩]
    ag.pos < roundElems .store fourBytes ∧ r.headAt 0 = some t ∧ (∀ k, k < 3 → (fourBytes.elem (0 + k)).fault = none)
      ∧ (∀ k, k < 3 → r.owns 0 (fourBytes.elem (0 + k)) = true) ∧ (List.range 3).filter (fun k => t.ok k) = [0, 2]
      ∧ (∀ m, m < 2 → ∀ w, ws[m]? = some w → laneStore (agState r) 1 (fourBytes.elem (0 + [0, 2].getD m 0)) (t.lane ([0, 2].getD m 0)) w) := by
  refine ⟨by decide +kernel, rfl, by decide +kernel, by decide +kernel, by decide, fun m hm w hw => ?_⟩
  match m, hm with
  | 0, _ =>
    obtain rfl : _ = w := by simpa using hw
    exact ⟨0x4000, ok_of (by decide +kernel), by decide +kernel⟩
  | 1, _ =>
    obtain rfl : _ = w := by simpa using hw
    exact ⟨0x4002, ok_of (by decide +kernel), by decide +kernel⟩
theorem witness_AddressGeneratorResults_walk : fourBytes.fmt.toNat ≠ 0xD ∧ fourBytes.fmt.toNat ≠ 0xE ∧ fourBytes.fmt.toNat ≠ 0xF
    ∧ 3 < roundElems .load fourBytes := by decide +kernel
theorem witness_AddressGeneratorResults_agep :
    ({ handles := [controlToken 1] } : AgState).handles = [controlToken 1] ∧ ({ append := some 3 } : AgState).append ≠ none
      ∧ (agRegion {} [some { dataToken 4 [1] with last := true }, none, some (dataToken 7 [9])]).headAt 2 = some (dataToken 7 [9])
      ∧ (dataToken 7 [9]).ok 0 = true ∧ (∀ l ∈ (dataToken 4 [1]).lanes, l.ok = true) ∧ (agState (agRegion {} [])).firn.reqs = [] := by
  refine ⟨rfl, by decide, rfl, by decide +kernel, by decide +kernel, rfl⟩
-- R145: element 3 of the walk lies at base + 3; R154: AGLD's go token begins a round with the record's values
theorem test_shape_element : (fourBytes.elem 3).va = 0x4003 := by decide +kernel
/-- The AG state of cell 0 after an outcome. -/
def nextAg (o : Out) : Option AgState :=
  match o with
  | .next t => (t.region 0 0).map fun r => (r.cell 0).ag
  | _ => none
theorem test_agld_begins : (nextAg (execAgld { word 4 0 with c := 0xFF } (agState (agRegion {} [some (dataToken 7 [1])])))).map (·.round)
    = some (some fourBytes) := by decide +kernel

/-- A command of context 1's strand 0 with this progress. -/
def aCommand (bits : BitVec 128) (stage : CmdStage) (p : CmdProg) : Command :=
  { uid := 4, core := 0, sid := some 0, stream := 0, ctx := 1, task := 0, tag := 2, bits := bits, after := [], stage := stage, prog := p }
/-- It has the turn; region 0 binds input port 3 by link 0 and output port 4 by link 1, and has one shape record. -/
def commandState (c : Command) (r : Region) (ws : List (Nat × Nat)) : State :=
  { pagedState { window := [{ tag := 2 }] } ws with
    actor := .command 4, cmds := [c], cores := [(0, { regions := [(0, r)], stateSlots := 4 })] }
def cmdRegion : Region := { portRegion with shapes := [{ fourBytes with fmt := 3, str := [8, 0, 0, 0, 0] }] }
/-- A command word's fields. -/
def cmd (dest : BitVec 16) (s : Bool) (flags : BitVec 6) (operand : BitVec 32) (addr : BitVec 64) : Cmd := ⟨dest, s, false, flags, operand, addr⟩

/-- The response to tag 2 in the window of strand 0 after an outcome. -/
def nextResp (o : Out) : Option Dword :=
  match o with
  | .next t => ((t.strand 0).window.find? fun x => decide (x.tag = 2)).bind (·.resp)
  | _ => none
-- R160: an unbound port answers 0x06 with detail 0x20; R163: nothing to move
theorem test_lds_unbound : nextResp (execLds (cmd 9 false 0 1 0x4000) (commandState (aCommand 0 .waiting {}) cmdRegion [])) = some 0x2006 := by decide +kernel
theorem test_lds_of_nothing : nextResp (execLds (cmd 3 false 0 0 0x4000) (commandState (aCommand 0 .waiting {}) cmdRegion [])) = some 0 := by decide +kernel

theorem witness_PortCommandResults : (commandState (aCommand 0 .waiting {}) cmdRegion []).myCommand = some (aCommand 0 .waiting {})
    ∧ PortWord (.lds (cmd 3 false 0 4 0x4000)) .lds (cmd 3 false 0 4 0x4000) ∧ PortWord (.sct (cmd 4 true 0 0x40 0x4000)) .sct (cmd 4 true 0 0x40 0x4000)
    ∧ ((commandState (aCommand 0 .waiting {}) cmdRegion []).core 0).portLink 1 (.input 3) = some (0, 0)
    ∧ ((commandState (aCommand 0 .waiting {}) cmdRegion []).core 0).portLink 1 (.input 9) = none
    ∧ ((commandState (aCommand 0 .waiting {}) cmdRegion []).core 0).portAway 1 (.input 9) = false
    ∧ (commandState (aCommand 0 .waiting {}) cmdRegion []).region 0 0 = some cmdRegion
    ∧ (cmd 3 false 2 4 0x4000).flags.toNat / 2 % 2 = 1 := by
  refine ⟨by decide +kernel, by unfold PortWord; decide, by unfold PortWord; decide, by decide +kernel, by decide +kernel, by decide +kernel,
    by decide +kernel, by decide⟩
theorem witness_PortCommandResults_walks : CommandWalks .lds (cmd 3 false 0 4 0x4000) (cmdRegion.link 0) cmdRegion.shapes
      { base := 0x4000, ext := [4], str := [8], ndims := 1, fmt := 3 }
    ∧ CommandWalks .gth (cmd 3 true 0 0x40 0x4000) (cmdRegion.link 0) cmdRegion.shapes { fourBytes with fmt := 3, str := [8, 0, 0, 0, 0] }
    ∧ commandElems .gth (cmd 3 true 0 0x40 0x4000) { fourBytes with fmt := 3 } = 16
    ∧ ∀ sh, ¬CommandWalks .gth (cmd 3 true 0 0x41 0x4000) (cmdRegion.link 0) cmdRegion.shapes sh := by
  refine ⟨?_, ?_, by decide +kernel, fun sh h => ?_⟩
  · unfold CommandWalks; decide +kernel
  · unfold CommandWalks
    rw [if_neg (by decide)]
    exact ⟨_, rfl, rfl, rfl, rfl⟩
  · unfold CommandWalks at h
    rw [if_neg (by decide)] at h
    obtain ⟨x, hx, _⟩ := h
    rw [show cmdRegion.shapes[(cmd 3 true 0 0x41 0x4000).operand.toNat % 16]? = none by decide +kernel] at hx
    cases hx
/-- A command that faulted at element 2 left this at its port; one that runs. -/
def aSaved : SavedCmd := { opcode := PortOp.lds.opcode, operand := 4, addr := 0x4000, restart := 2, token := none }
theorem witness_PortCommandResults_restart : aSaved.opcode = PortOp.lds.opcode ∧ aSaved.operand = (cmd 3 false 2 4 0x4000).operand
    ∧ aSaved.addr = (cmd 3 false 2 4 0x4000).addr ∧ aSaved.block = 0 ∧ aSaved.restart < 4 := by decide
def running (p : CmdProg) : State :=
  commandState (aCommand 0 .running { p with shape := some { fourBytes with fmt := 3, str := [8] }, region := 0, link := 0 }) cmdRegion []
theorem witness_PortCommandResults_runs : (running {}).feedable 0 3 0 0 .stream = true ∧ (cmdRegion.link 0).binding = .input 3 ∧ cmdRegion.ctx = 1
    ∧ (cmdRegion.link 1).binding = .output 4 ∧ (cmdRegion.link 1).head = some { fmt := 3, lanes := [⟨0x1234, true⟩] }
    ∧ (((running {}).core 0).port 4).readPos = 0 ∧ (running {}).portWaiters 0 4 = [] ∧ (0x04 : Nat) ≠ 0x07 := by decide +kernel
theorem witness_PortCommandResults_stores :
    laneStore (running {}) 1 (({ fourBytes with fmt := 3, str := [8] } : Shape).elem 0) ⟨0x1234, true⟩ ⟨0x4000, 0x4000, 8, 0, 64, 0x1234⟩ :=
  ⟨0x4000, ok_of (by decide +kernel), by decide +kernel⟩

/-- A copy's descriptor at 0x4000: 16 bytes from 0x5000 to 0x6000; its line and those resident. -/
def copyState (c : Command) : State :=
  let s := commandState c cmdRegion [(0x4000, 0x5000), (0x4008, 0x6000), (0x4010, 16), (0x5000, 0x1122_3344), (0x5008, 7)]
  s.setSlice { s.slice with lines := [⟨128, false, none, 0, 0⟩, ⟨160, false, none, 0, 0⟩, ⟨192, false, none, 0, 0⟩] }
def waitingCopy : Command := aCommand 0 .waiting {}
theorem witness_CopyCommandResults_starts : (copyState waitingCopy).myCommand = some waitingCopy ∧ waitingCopy.stage = .waiting
    ∧ (cmd 0 false 0 0 0x4001).addr.toNat % 32 ≠ 0 ∧ (cmd 0 false 0 4 0x4000).operand.toNat % 8 ≠ 0 ∧ (cmd 0 false 0 8 0x4000).operand.toNat % 8 = 0
    ∧ ColWord (.colAllReduce (cmd 0x203 false 0 8 0x4000)) .allReduce (cmd 0x203 false 0 8 0x4000) := by
  refine ⟨by decide +kernel, by decide, by decide, by decide, by decide, by unfold ColWord; decide⟩
/-- Group 3 with this package as rank 1 of 2 at port 0, which is up; group 4 at port 1, which is down. -/
def groupState (c : Command) : State :=
  let s := copyState c
  { s with host := { s.host with groups := [(3, ⟨2, 1, 1, 0⟩), (4, ⟨2, 1, 2, 0⟩)], links := [(0, { up := true })] } }
theorem witness_CopyCommandResults_groups : (groupState waitingCopy).host.groups.getD 3 {} = ⟨2, 1, 1, 0⟩
    ∧ (∀ p, p < 16 → 1 / 2 ^ p % 2 = 1 → ((groupState waitingCopy).host.links.getD p {}).up = true)
    ∧ ¬(∀ p, p < 16 → 2 / 2 ^ p % 2 = 1 → ((groupState waitingCopy).host.links.getD p {}).up = true)
    ∧ ¬(2 ≤ ((groupState waitingCopy).host.groups.getD 5 {}).members) := by
  refine ⟨by decide +kernel, fun p h => by
    match p, h with
    | 0, _ => intro _; rfl
    | p + 1, h => intro hp; exfalso; rw [Nat.div_eq_of_lt (Nat.one_lt_two_pow (by omega))] at hp; omega,
    fun h => absurd (h 1 (by omega) (by decide)) (by decide +kernel), by decide +kernel⟩
/-- A command whose own word is this. -/
def wordCopy (i : Instr) (p : CmdProg) : Command := aCommand ((encodeCommand i).getD 0) .running p
theorem witness_CopyCommandResults_copy : Replies (copyState (wordCopy (.cpy (cmd 0 false 0 0 0x4000)) {})) (wordCopy (.cpy (cmd 0 false 0 0 0x4000)) {})
      (.cpy (cmd 0 false 0 0 0x4000))
    ∧ EngineReads (copyState waitingCopy) 1 0x4000 32 ((copyState waitingCopy).mem.bytes 0x4000 32)
    ∧ (dwordsAt ((copyState waitingCopy).mem.bytes 0x4000 32) 4) = [0x5000, 0x6000, 16, 0] := by
  refine ⟨⟨by decide +kernel, by decide +kernel, by decide +kernel, ok_of (by decide +kernel), by decide +kernel⟩,
    ⟨0x4000, ok_of (by decide +kernel), by decide +kernel, by decide +kernel, rfl⟩, by decide +kernel⟩
theorem witness_CopyCommandResults_moves : EngineReads (copyState waitingCopy) 1 0x5000 16 ((copyState waitingCopy).mem.bytes 0x5000 16)
    ∧ EngineWrites (copyState waitingCopy) 1 0x6000 16 0x6000 ∧ (¬(0x5000 ≤ 0x6000 + 0 + 15 ∧ 0x6000 + 0 + 15 < 0x5000 + 16)) := by
  refine ⟨⟨0x5000, ok_of (by decide +kernel), by decide +kernel, by decide +kernel, rfl⟩,
    ⟨ok_of (by decide +kernel), by decide +kernel, rfl, by decide +kernel⟩, by omega⟩
theorem witness_CopyCommandResults_fill : Replies (copyState (wordCopy (.fil (cmd 0 false 0 16 0x4000)) {})) (wordCopy (.fil (cmd 0 false 0 16 0x4000)) {})
      (.fil (cmd 0 false 0 16 0x4000))
    ∧ EngineReads (copyState waitingCopy) 1 0x4000 16 ((copyState waitingCopy).mem.bytes 0x4000 16) :=
  ⟨⟨by decide +kernel, by decide +kernel, by decide +kernel, ok_of (by decide +kernel), by decide +kernel⟩,
    ⟨0x4000, ok_of (by decide +kernel), by decide +kernel, by decide +kernel, rfl⟩⟩
theorem witness_CopyCommandResults_collective : Replies (groupState (wordCopy (.colAllGather (cmd 0x203 false 5 8 0x4000)) {}))
      (wordCopy (.colAllGather (cmd 0x203 false 5 8 0x4000)) {}) (.colAllGather (cmd 0x203 false 5 8 0x4000))
    ∧ ColWord (.colAllGather (cmd 0x203 false 5 8 0x4000)) .allGather (cmd 0x203 false 5 8 0x4000)
    ∧ EngineReads (groupState waitingCopy) 1 0x5000 4 ((groupState waitingCopy).mem.bytes 0x5000 4)
    ∧ EngineWrites (groupState waitingCopy) 1 0x6000 4 0x6000 := by
  refine ⟨⟨by decide +kernel, by decide +kernel, by decide +kernel, ok_of (by decide +kernel), by decide +kernel⟩, by unfold ColWord; decide,
    ⟨0x5000, ok_of (by decide +kernel), by decide +kernel, by decide +kernel, rfl⟩, ⟨ok_of (by decide +kernel), by decide +kernel, rfl, by decide +kernel⟩⟩

/-- Before the command, one of its stream that has completed and one of another stream that has not. -/
def barrierState (first : CmdStage) : State :=
  let s := commandState waitingCopy cmdRegion [(0x4000, 1)]
  { s with cmds := [{ waitingCopy with uid := 2, stage := first }, { waitingCopy with uid := 3, stream := 7 }, waitingCopy]
           slice := { s.slice with lines := [⟨128, false, none, 0, 0⟩] } }
theorem witness_ControlCommandResults_barc : (barrierState (.done 0)).myCommand = some waitingCopy
    ∧ ((barrierState .running).cmds.filter fun x => decide (x.stream = 0)).takeWhile (fun x => decide (x.uid ≠ 4)) = [{ waitingCopy with uid := 2, stage := .running }]
    ∧ (cmd 0 false 0 4 0).operand.toNat % 16 = 4 ∧ EngineReads (barrierState (.done 0)) 1 0x4000 8 ((barrierState (.done 0)).mem.bytes 0x4000 8)
    ∧ leNat ((barrierState (.done 0)).mem.bytes 0x4000 8) = 1 := by
  refine ⟨by decide +kernel, by decide +kernel, by decide, ⟨0x4000, ok_of (by decide +kernel), by decide +kernel, by decide +kernel, rfl⟩, by decide +kernel⟩
-- R171: BARC 0 with every earlier command done proceeds, the done value 1
theorem test_barc_proceeds : nextResp (execBarc (cmd 0 false 0 0 0) (barrierState (.done 0))) = some 0x100 := by decide +kernel
theorem test_barc_reads_doubleword : nextResp (execBarc (cmd 0 false 0 3 0x4008) (barrierState (.done 0))) = some 0 := by decide +kernel

/-- A range of region 0 with owners 3 and 5; the AG of cell 5 with a store on its way. -/
def handRegion (owner : Nat) : Region :=
  { cmdRegion with ranges := [⟨0x4000, 64, [3, 5], owner⟩], cells := [(5, { ag := { stores := [⟨[], 0, false⟩] } })] }
theorem witness_ControlCommandResults_regions : (commandState waitingCopy cmdRegion []).region 0 9 = none
    ∧ (commandState waitingCopy cmdRegion []).regionAway 0 1 9 = false ∧ ((handRegion 0).ranges[0]?) = some ⟨0x4000, 64, [3, 5], 0⟩
    ∧ ((handRegion 0).cell 3).ag.stores = [] ∧ ((handRegion 0).cell 5).ag.stores ≠ [] ∧ (handRegion 0).ranges.length ≤ 1 := by decide +kernel
theorem test_hand_to_next_owner : nextResp (execHand (cmd 0x600 false 0 0 0) (commandState waitingCopy (handRegion 0) [])) = some 0x500 := by decide +kernel
theorem witness_ControlCommandResults_patch : ((commandState waitingCopy cmdRegion []).core 0).portLink 1 (.input 3) = some (0, 0)
    ∧ (cmd 3 false 0 0x10 9).operand.toNat % 16 < cmdRegion.shapes.length ∧ 1 ≤ (cmd 3 false 0 0x10 9).operand.toNat / 16 % 16
    ∧ (cmd 3 false 0 0x60 9).operand.toNat / 16 % 16 = 6 ∧ cmdRegion.shapes.length ≤ (cmd 3 false 0 1 9).operand.toNat % 16 := by decide +kernel

/-- Stream 1 in slot 2, closed; stream 2 open; stream 3 swapped out; four resident lines from 0x8000. -/
def swapState : State :=
  let s := commandState waitingCopy cmdRegion []
  { s with
    cores := [(0, { s.core 0 with streams := [⟨1, 1, some 2, 0, false⟩, ⟨1, 2, some 1, 0, true⟩, ⟨1, 3, none, 0x4000, false⟩] })]
    slice := { s.slice with lines := (List.range 4).map fun i => ⟨256 + i, false, none, 0, 0⟩ } }
theorem witness_ControlCommandResults_swaps : swapState.myCommand = some waitingCopy ∧ (swapState.core 0).stream 1 1 = some ⟨1, 1, some 2, 0, false⟩
    ∧ (swapState.core 0).stream 1 2 = some ⟨1, 2, some 1, 0, true⟩ ∧ (swapState.core 0).stream 1 3 = some ⟨1, 3, none, 0x4000, false⟩
    ∧ swapState.engineRange 1 0x8000 512 .write = .ok [(0x8000, 0x8000, 128), (0x8080, 0x8080, 128), (0x8100, 0x8100, 128), (0x8180, 0x8180, 128)]
    ∧ ([0x8000, 0x8080, 0x8100, 0x8180] : List Nat).Nodup
    ∧ (∀ p ∈ [0x8000, 0x8080, 0x8100, 0x8180], isMain p = true ∧ p % 128 = 0 ∧ swapState.resident (p / 128) = true)
    ∧ ((swapState.core 0).takeSlot 1 3).isSome = true
    ∧ ({ swapState.core 0 with stateSlots := 0 } : CoreState).takeSlot 1 3 = none := by
  refine ⟨by decide +kernel, by decide +kernel, by decide +kernel, by decide +kernel, ok_of (by decide +kernel), by decide, by decide +kernel,
    by decide +kernel, by decide +kernel⟩
theorem test_sws_out_of_absent : nextResp (execSwsSwapOut (cmd 0 false 0 9 0x8000) swapState) = some 0x100 := by decide +kernel

/-! ### Scheduling, the Moraine, the slices (R75 to R87, R201 to R206, R316 to R323, R356 to R371) -/

/-- An image at 0x9000 of one cell whose SINK reads input port 3, and the bytes of its router word. -/
def sinkWord : EWord := ⟨0, false, false, 0, 0, 0xFF, 0xFF, 0xFF, 0xFF, 0, 0⟩
def imageWords : List (Nat × Nat) :=
  [(0x9000, 0x0000_0060_0011_0001), (0x9008, 0x0000_0000_0100_0101), (0x9048, 0x0000_0009_8000_0023), (0x9050, 0x200),
   (0x9058, ((encodeElement (.sink sinkWord)).getD (0, none)).1.toNat)]
/-- A task-graph object at 0xA000: strand node 0 on any core of die 0, then strand node 1. -/
def graphWords : List (Nat × Nat) :=
  [(0xA000, 0x0000_0001_0000_0001), (0xA008, 0x0000_0184_0000_0000), (0xA080, 0x0000_0001_0000_7F00), (0xA088, 0x1_0000), (0xA090, 384),
   (0xA100, 0x0000_0000_0001_7F00), (0xA108, 0x2_0000), (0xA110, 388), (0xA180, 1)]

/-- Kick slots of context 1: 0 idle, 1 due, 2 unbound, 3 due with an address that holds no object, 4 running both nodes of its graph. -/
def schedState : State :=
  let s := { pagedState {} (imageWords ++ graphWords) with actor := .part, strands := [] }
  let ks : KickSlot := { tgo := 0xA000, ctx := 1, vector := some 7, enable := true, state := .idle }
  let node (i : Nat) : Task := { origin := .replay 4, node := i, kind := .strand, ctx := 1, die := 0, core := 0 }
  s.setSched { s.sched with
    slots := [(0, ks), (1, { ks with state := .running, due := 1 }), (2, { ks with state := .unbound }), (3, { ks with state := .running, tgo := 0xB000 }),
              (4, { ks with state := .running, started := true, replaysLeft := 2, nodes := [⟨0, 0, 0, 8, [1], false⟩, ⟨1, 0, 1, 9, [], false⟩] })]
    tasks := [(8, { node 0 with status := .started, rootEnded := true, root := some 5 }), (9, { node 1 with status := .waiting })]
    ageing := [(0, 2)], queues := [(0, [⟨20, 3, 0⟩, ⟨21, 5, 0⟩])] }
theorem witness_KickAndReplayEffects_kick : (schedState.kickSlot 0).state = .idle ∧ (schedState.kickSlot 2).state = .unbound
    ∧ (schedState.kickSlot 1).state = .running ∧ (schedState.kickSlot 1).pending = none ∧ (0x0000_0002_0003 : Dword).toNat < 2 ^ 32
    ∧ (schedState.ctx 1).dead = false ∧ (131071 : Nat) < 131072 := by decide +kernel
theorem witness_KickAndReplayEffects_bind : (schedState.readTgo 1 0xA000).isSome = true ∧ schedState.readTgo 1 0xB000 = none := by decide +kernel
theorem witness_KickAndReplayEffects_replay : ((schedState.kickSlot 1).state = .running ∧ (schedState.kickSlot 1).started = false ∧ (schedState.kickSlot 1).failing = none)
    ∧ (schedState.replayNodes 1).isSome = true ∧ schedState.heldBack 1 = false ∧ (schedState.replayNodes 1).map (fun x => schedState.depFits x.1) = some true
    ∧ schedState.replayNodes 3 = none ∧ { schedState.sched with tasks := [] }.tasks = [] := by decide +kernel
/-- The kick word of the manual's example: two replays with patch table 3. -/
theorem test_kick_starts : (match execKick 0 0x0000_0002_FFFF schedState with
    | .next t => some ((t.kickSlot 0).state, (t.kickSlot 0).replaysLeft)
    | _ => none) = some (.running, 2) := by decide +kernel
/-- The queue of core 0 with a node of each kind at its head. -/
def queueState (k : NodeKind) (params : List Dword) : State :=
  let tk : Task := { origin := .tsk 0, node := 0, kind := k, ctx := 1, die := 0, core := 0, priority := 5, address := 0x4000, count := 2, params := params }
  let s := schedState
  s.setSched { s.sched with tasks := [(21, tk)], queues := [(queueNo (.strand 0), [⟨20, 3, 0⟩, ⟨21, 5, 0⟩]), (queueNo (.fabric 0), [⟨21, 5, 0⟩]),
                                                             (queueNo (.copy 0), [⟨21, 5, 0⟩]), (queueNo (.episode 0), [⟨21, 5, 0⟩])] }
theorem witness_KickAndReplayEffects_dispatch : HeadsQueue ((queueState .strand []).queue (queueNo (.strand 0))) ⟨21, 5, 0⟩
    ∧ ((queueState .strand []).task 21).map Task.queue = some (queueNo (.strand 0)) ∧ (queueState .strand []).freeSid 0 = some 0
    ∧ (queueState .strand []).slotFor 0 1 .task = some .onChip
    ∧ HeadsQueue ((queueState .fabric [0x9000]).queue (queueNo (.fabric 0))) ⟨21, 5, 0⟩
    ∧ ((queueState .fabric [0x9000]).task 21).map Task.queue = some (queueNo (.fabric 0))
    ∧ ((queueState .copy []).task 21).map Task.queue = some (queueNo (.copy 0))
    ∧ ((queueState .episode []).task 21).map Task.queue = some (queueNo (.episode 0)) := by unfold HeadsQueue; decide +kernel
theorem witness_KickAndReplayEffects_list : ∃ rs, (queueState .episode []).readRequests 1 0x4000 2 = some rs :=
  ⟨_, Option.some_get (by decide +kernel : ((queueState .episode []).readRequests 1 0x4000 2).isSome = true) |>.symm⟩
/-- At 2 µs the first node of level 3 has waited its 2 µs. -/
theorem witness_KickAndReplayEffects_ageing : ({ schedState with tns := 2000 }.sched.ageing.getD 0 0) = 2
    ∧ ({ schedState with tns := 2000 }.queue 0).find? (fun (y : Queued) => decide (y.level = 3 ∧ y.since + 1000 * 2 ≤ 2000)) = some ⟨20, 3, 0⟩ := by decide +kernel
theorem witness_KickAndReplayEffects_finish : (schedState.task 8).map (schedState.taskFinished 8) = some true
    ∧ (schedState.task 9).map (schedState.taskFinished 9) = some false
    ∧ (schedState.kickSlot 4).nodes.find? (fun n => decide (n.task = 8)) = some ⟨0, 0, 0, 8, [1], false⟩ ∧ (schedState.kickSlot 4).failing = none := by
  decide +kernel

-- R170, R225: the image is sound
theorem witness_ControlCommandResults_cfg : (∃ g, (commandState waitingCopy cmdRegion imageWords).readImage 0 1 0x9000 = .ok g)
    ∧ (commandState waitingCopy cmdRegion imageWords).readImage 0 1 0xA000 = .error (3, 0)
    ∧ (commandState waitingCopy cmdRegion imageWords).sched.queues = [] := by
  exact ⟨some_ok (by decide +kernel), err_of (by decide +kernel), by decide +kernel⟩
theorem witness_ControlCommandResults_tsk : (∃ d, (commandState waitingCopy cmdRegion graphWords).engineDwords 1 0xA000 8 = .ok d)
    ∧ ((commandState waitingCopy cmdRegion graphWords).readTgo 1 0xA000).map (·.nodes.length) = some 2 :=
  ⟨some_ok (by decide +kernel), by decide +kernel⟩

/-- A CFG of the image is ready at core 0; idle regions given. -/
def arbiterState (rs : Tbl Region) : State :=
  { schedState with
    cores := [(0, { ready := [{ image := 0x9000, ctx := 1, task := 0, level := 0, cmd := some 4, order := 0 }], readyCfgNo := 1, regions := rs })] }
def idleSink : Region := { portRegion with image := 0x9000, status := .idle }
theorem witness_RegionArbitrationEffects_admit : (arbiterState []).sched.queues.getD (queueNo (.fabric 0)) [] = []
    ∧ ((arbiterState []).core 0).matching { image := 0x9000, ctx := 1, task := 0, level := 0, cmd := some 4, order := 0 } = none
    ∧ ((arbiterState [(0, idleSink)]).core 0).matching { image := 0x9000, ctx := 1, task := 0, level := 0, cmd := some 4, order := 0 } = some idleSink
    ∧ (∃ shapes, (arbiterState []).rereadShapes 1 0x9000 = .ok shapes) ∧ (∃ g, (arbiterState []).readImage 0 1 0x9000 = .ok g)
    ∧ ((arbiterState []).core 0).origin 1 1 = some (0, 0) := by
  refine ⟨by decide +kernel, by decide +kernel, by decide +kernel, some_ok (by decide +kernel), some_ok (by decide +kernel), by decide +kernel⟩
/-- A core whose cells are all taken, or all but those of the last column. -/
theorem witness_RegionArbitrationEffects_origin : ({ regions := [(0, { portRegion with w := 8, h := 8 })] } : CoreState).origin 1 1 = none
    ∧ ({ regions := [(0, { portRegion with w := 7, h := 8 })] } : CoreState).origin 1 8 = some (7, 0) := by decide +kernel
/-- Region 0 running, everything at rest; link 0 a stalled root. -/
def restRegion : Region := { portRegion with links := [{ fmt := 3, slots := 2, binding := .input 3 }], stall := 1, stalls := [(0, 1000)] }
def passState (pass : Bool) (quiet : Nat) : State :=
  let s := schedState
  let s1 := s.setSched { s.sched with tasks := [(0, { origin := .tsk 0, node := 0, kind := .fabric, ctx := 1, die := 0, core := 0, params := [0x9000] })] }
  { s1 with
    cores := [(0, { regions := [(0, { restRegion with pass := pass, quiet := quiet })] })]
    cmds := [{ aCommand ((encodeCommand (.drn (cmd 0x600 false 0 0 0))).getD 0) .running {} with uid := 4 }] }
theorem witness_RegionArbitrationEffects_pass : ((passState true 2).region 0 0).map Region.passDone = some true
    ∧ ((passState true 2).task 0).map (fun (tk : Task) => (tk.params.takeWhile (· ≠ 0)).length) = some 1
    ∧ portRegion.passDone = false := by decide +kernel
theorem witness_RegionArbitrationEffects_sampling : ((passState false 1).region 0 0).map Region.isQuiet = some true
    ∧ { cmdRegion with links := [{ fmt := 3, slots := 2, queue := [[controlToken 1]] }] }.isQuiet = false
    ∧ (passState false 1).cmds.map (fun c => (c.opcode, c.fields.dest.toNat, c.core, c.ctx)) = [(0x13, 0x600, 0, 1)] := by decide +kernel
theorem witness_RegionArbitrationEffects_stall : ((passState false 0).region 0 0).bind (fun r => r.stalls.lookup 0) = some 1000
    ∧ restRegion.stall ≠ 0 ∧ 1000 * restRegion.stall ≤ 1000 ∧ ((passState false 0).core 0).iters = [] := by decide +kernel

/-- Strands 0 and 1 of core 0, recorded and ready; the completion of tag 7 for strand 5, which waits for it. -/
def moraineState : State :=
  let ready (n : Nat) : Record := { waiting with sid := n, ready := true, readyTick := n, dmask := 2, dirty := [0x77] }
  { strandState {} with
    actor := .part
    strands := [(0, { worker 0 0 0 0 with sid := 0, prio := 1 }), (1, { worker 0 0 0 0 with sid := 1, prio := 3 }), (5, { worker 0 0 0 0 with sid := 5 }),
                (6, { worker 0 0 0 0 with sid := 6, scout := true, place := .resident 0 })]
    records := [(0, { ready 0 with crc := (ready 0).crcOf }), (1, { ready 1 with crc := (ready 1).crcOf }), (5, waiting)]
    completions := [{ core := 0, sid := 5, space := 2, tag := 7, value := 0x99 }] }
theorem witness_MoraineEffects_completion :
    (moraineState.completions.find? fun x => decide (x.core = 0) && decide (x.sid = 5)) = some { core := 0, sid := 5, space := 2, tag := 7, value := 0x99 }
      ∧ moraineState.records.get? (keyOf 0 5) = some waiting ∧ waiting.space = 2 ∧ waiting.tag = 7 ∧ waiting.ready = false := by decide +kernel
theorem witness_MoraineEffects_other_waits : (moraineState.completions.find? fun x => decide (x.core = 0) && decide (x.sid = 0)) = none
    ∧ (moraineState.records.get? (keyOf 0 0)).map (·.ready) = some true ∧ moraineState.drained 0 [] = true ∧ moraineState.unackedStvs 0 0 < 8
    ∧ moraineState.answered 0 = true ∧ moraineState.holds 0 0 = false := by decide +kernel
theorem witness_MoraineEffects_order : (moraineState.readyRecords 0).map (fun x => (x.2.1.sid, x.2.1.prio)) = [(0, 1), (1, 3)]
    ∧ (moraineState.nextRecord 0).map (·.1) = some 1 := by decide +kernel
theorem test_relaunch_restores : (match execRelaunch 0 moraineState with
    | .next t => some ((t.strand 1).g 1, (t.records.get? 1).isSome)
    | _ => none) = some (0x77, false) := by decide +kernel
theorem witness_MoraineEffects_relaunch : ¬SlotsFull moraineState 0 ∧ (moraineState.nextRecord 0).map (fun x => (x.2.2.crc == x.2.2.crcOf, x.2.2.act)) = some (true, .nothing)
    ∧ 4 ≤ (worker 0 0 0 0).tvec.toNat % 2 ^ 56 := by unfold SlotsFull; decide +kernel
/-- The same core with sixty-four residents, at 10 µs. -/
def crowdedState : State :=
  { moraineState with
    tns := 10000
    strands := moraineState.strands ++ (List.range 64).map fun i => (100 + i, { worker 0 0 0 0 with sid := 100 + i, place := .resident (1 + i) }) }
theorem witness_MoraineEffects_rotation : SlotsFull crowdedState 0
    ∧ (∃ x ∈ crowdedState.readyRecords 0, x.2.1.scout = false ∧ x.2.2.readyAt + 10000 ≤ crowdedState.tns)
    ∧ (∃ k, crowdedState.longestResident 0 = some k ∧ (crowdedState.strand k).sys = false)
    ∧ crowdedState.slotFor 0 1 .forced = some .onChip := by
  refine ⟨by unfold SlotsFull; decide +kernel, ?_, ⟨100, by decide +kernel, by decide +kernel⟩, by decide +kernel⟩
  have h : (crowdedState.readyRecords 0).any (fun x => !x.2.1.scout && decide (x.2.2.readyAt + 10000 ≤ crowdedState.tns)) = true := by decide +kernel
  obtain ⟨x, hx, hp⟩ := List.any_eq_true.1 h
  rw [Bool.and_eq_true] at hp
  exact ⟨x, hx, by simpa using hp.1, of_decide_eq_true hp.2⟩
/-- Strand 7 of core 0 has notice of a store of its own that is held. -/
def parkState (held : Bool) : State :=
  { moraineState with
    strands := [(7, { worker 0 0 0 0 with sid := 7, place := .resident 3, parked := true })]
    slice := { moraineState.slice with stvs := if held then [{ id := 0, core := 0, sid := 7, ctx := 1, task := 0, va := 0, pa := 0, value := 0, after := [], held := true }] else [] } }
theorem witness_MoraineEffects_park : (parkState true).holds 0 7 = true ∧ (parkState false).holds 0 7 = false
    ∧ (parkState true).slotFor 0 1 ((parkState true).strand 7).depositor = some .onChip
    ∧ ((parkState true).strand 7).place = .resident 3 ∧ ((parkState true).strand 7).parked = true := by decide +kernel
theorem witness_MoraineEffects_scouts : (crowdedState.strands.get? (keyOf 0 6)).map (fun st => (st.scout, st.place, st.budget)) = some (true, .resident 0, 0)
    ∧ (crowdedState.strands.get? (keyOf 0 0)).map (·.place) = some .recorded ∧ (crowdedState.strands.get? (keyOf 0 100)).map (·.place) = some (.resident 1) := by
  decide +kernel

/-- Line 64 resident, line 65 poisoned and resident, line 66 being filled; core 0 with a draining entry of line 64. -/
def sliceState : State :=
  { strandState (worker 0 0 0 0) with
    actor := .part, mem := putAll [] [(0x2000, 5)]
    slice := { lines := [⟨64, true, none, 0, 0⟩, ⟨65, false, some 1, 0, 0⟩, ⟨68, false, some 2, 0, 0⟩], poison := [65], fills := [{ line := 66, ctx := 1, va := 0x2100 }]
               reqs := [{ id := 3, core := 0, sid := 0, tag := 1, ctx := 1, task := 0, va := 0x2000, pa := 0x2000, op := .atom .add 8 7 0, after := none },
                        { id := 4, core := 0, sid := 0, tag := 1, ctx := 1, task := 0, va := 0x2000, pa := 0x2000, op := .lock, after := none },
                        { id := 5, core := 0, sid := 0, tag := 1, ctx := 1, task := 0, va := 0x2080, pa := 0x2080, op := .unlock, after := none }] }
    cores := [(0, { cb := [{ id := 0, line := 64, data := 0xAB, mask := 1, owners := [(1, 1, 0)], draining := true },
                           { id := 1, line := 67, data := 0xAB, mask := BitVec.allOnes 128, owners := [(1, BitVec.allOnes 128, 0)], draining := true }]
                    lineReqs := [{ line := 68, ctx := 1, va := 0x2200, uses := [.load 0 3 0x2204 0x2204 ⟨4, true⟩] }] })] }
theorem witness_SliceEventEffects_drain : sliceState.rimes = [] ∧ ((sliceState.core 0).cb.find? (fun x => decide (x.id = 0) && x.draining)).map (·.line) = some 64
    ∧ ((sliceState.core 0).cb.find? (fun x => decide (x.id = 1) && x.draining)).map (fun e => (e.line, e.mask == BitVec.allOnes 128)) = some (67, true)
    ∧ sliceState.filling 64 = false ∧ sliceState.resident 64 = true ∧ sliceState.resident 67 = false ∧ sliceState.mem.wf = true := by decide +kernel
theorem witness_SliceEventEffects_fill : ((sliceState.core 0).lineReqs.find? (fun x => decide (x.line = 68))).map (·.uses) = some [.load 0 3 0x2204 0x2204 ⟨4, true⟩]
    ∧ sliceState.resident 68 = true ∧ sliceState.linePoisoned 68 = false ∧ sliceState.linePoisoned 65 = true ∧ 0x2204 / 128 = 68
    ∧ sliceState.slice.fills.find? (fun x => decide (x.line = 66) && !x.handler) = some { line := 66, ctx := 1, va := 0x2100 }
    ∧ sliceState.resident 66 = false := by decide +kernel
theorem test_atomic_add : (match execAtomicAtSlice 3 sliceState with
    | .next t => some (t.mem.readN 0x2000 8, t.completions.map (·.value))
    | _ => none) = some (12, [5]) := by decide +kernel
theorem witness_SliceEventEffects_atomic : (sliceState.slice.reqs.find? (fun x => decide (x.id = 3))).map (·.op) = some (.atom .add 8 7 0)
    ∧ (sliceState.slice.reqs.find? (fun x => decide (x.id = 4))).map (·.op) = some .lock
    ∧ (sliceState.slice.reqs.find? (fun x => decide (x.id = 5))).map (·.op) = some .unlock
    ∧ (sliceState.slice.lines.find? fun x => decide (x.line = 65)).bind (·.lockedBy) = some 1
    ∧ (sliceState.slice.lines.find? fun x => decide (x.line = 68)).bind (·.lockedBy) = some 2
    ∧ (sliceState.slice.lines.find? fun x => decide (x.line = 64)).bind (·.lockedBy) = none ∧ (sliceState.ctx 1).lockQuota = 0 := by decide +kernel

/-- Versioned memory of context 1: window at 0x100_0000, version blocks at 0x4000_0000; versions 0 to n of the first word. -/
def versionState (newest floor : Nat) : State :=
  let s := strataState 0 (worker 0 0 0 0)
  { s with
    actor := .part
    mem := putAll [] [(s.versionBlock 1 0x0100_0000 + 128, newest), (s.versionBlock 1 0x0100_0000 + 136, floor)]
    slice := { lines := [⟨0x0100_0000 / 128, false, none, 0, 0⟩]
               stvs := [{ id := 3, core := 0, sid := 0, ctx := 1, task := 0, va := 0x0100_0000, pa := 0x0100_0000, value := 0x99, after := [] }]
               ldvs := [{ id := 4, core := 0, sid := 1, tag := 1, ctx := 1, task := 0, va := 0x0100_0000, pa := 0x0100_0000, form := .eq 2 },
                        { id := 6, core := 0, sid := 1, tag := 1, ctx := 1, task := 0, va := 0x0100_0000, pa := 0x0100_0000, form := .ge 9 },
                        { id := 7, core := 0, sid := 1, tag := 1, ctx := 1, task := 0, va := 0x0100_0000, pa := 0x0100_0000, form := .newest ⟨8, false⟩ }]
               rclms := [{ id := 5, core := 0, sid := 2, ctx := 1, task := 0, va := 0x0100_0000, pa := 0x0100_0000, v := 4 }] } }
theorem witness_SliceEventEffects_stv :
    let s := versionState 3 1
    let block := s.versionBlock 1 0x0100_0000
    (s.slice.stvs.find? (fun x => decide (x.id = 3))).map (·.held) = some false ∧ s.drained 0 [] = true
      ∧ (s.mem.dword (block + 128)).toNat = 3 ∧ (s.mem.dword (block + 136)).toNat = 1 ∧ s.poisoned block 256 = false
      ∧ s.resident (0x0100_0000 / 128) = true ∧ s.mem.wf = true ∧ 0x0100_0000 + 8 ≤ block
      ∧ ((versionState 15 0).mem.dword (block + 128)).toNat - ((versionState 15 0).mem.dword (block + 136)).toNat = 15
      ∧ (s.strands.get? (keyOf 0 0)).isSome = true := by decide +kernel
theorem witness_SliceEventEffects_ldv :
    let s := versionState 3 1
    (s.slice.ldvs.find? (fun x => decide (x.id = 4))).map (fun r => (r.form, r.waiting)) = some (.eq 2, none)
      ∧ (s.slice.ldvs.find? (fun x => decide (x.id = 6))).map (·.form) = some (.ge 9)
      ∧ (s.slice.ldvs.find? (fun x => decide (x.id = 7))).map (·.form) = some (.newest ⟨8, false⟩)
      ∧ (∀ x ∈ s.slice.stvs, ¬(x.core = 0 ∧ x.sid = 1 ∧ x.pa = 0x0100_0000)) ∧ s.linePoisoned (0x0100_0000 / 128) = false := by decide +kernel
-- R206: the floor rises to v, at most to the newest version
theorem test_rclm_floor : (match execRclmAtSlice 5 { versionState 3 1 with slice := { (versionState 3 1).slice with stvs := [] } } with
    | .next t => some (t.mem.dword ((versionState 3 1).versionBlock 1 0x0100_0000 + 136))
    | _ => none) = some 3 := by decide +kernel
theorem witness_SliceEventEffects_rclm : ((versionState 3 1).slice.rclms.find? (fun x => decide (x.id = 5))).map (·.v) = some 4
    ∧ (versionState 3 1).rimes = [] ∧ (versionState 3 1).mem.wf = true := by decide +kernel

/-! ### Rime handlers, the episode engines, plays (R88 to R118) -/

/-- Entry 1 serves context 1 and takes messages: handler at 0x3000, budget 100. -/
def anEntry : HandlerEntry := #v[0, 0, 0x3000, 0x8800_0010_0000_0064]
def fillEvent : RimeEvent := { kind := .fill, entry := 1, ctx := 1, line := some 64, va := 0x2000, mask := 0xFF }
def messageEvent : RimeEvent := { kind := .message, entry := 1, ctx := 1, src := some (0, 1) }
/-- A handler of an event at 0x3000. -/
def aHandler (ev : RimeEvent) : Handler :=
  { ev := ev, pc := 0x3000, regs := (Vector.replicate 32 0).set 5 0x4000, budget := 100, eventLine := 0x1111, workLine := 0x2222, lnVa := 0x2000, lnMask := 3 }
/-- Slice 0's Rime core so; the word at 0x3000; lines 64, 96 and 128 resident, line 66 poisoned. -/
def rimeState (r : Rime) (w : Nat) : State :=
  let s := pagedState {} [(0x3000, w)]
  { s with actor := .part, rimes := [(0, { r with table := [(1, anEntry)] })]
           slice := { lines := [⟨64, false, none, 0, 0⟩, ⟨96, false, none, 0, 0⟩, ⟨128, false, none, 0, 0⟩, ⟨66, false, none, 0, 0⟩], poison := [66] } }
def runState (h : Handler) (w : Nat) : State := rimeState { running := some h } w
def nextX (o : Out) (r : Nat) : Option Dword :=
  match o with
  | .next t => (t.rime 0).running.map fun h => xReg h r
  | _ => none

-- R88: `addi x1, x0, 5`, `c.li x1, 1` and `mul x1, x5, x5`
theorem test_rime_addi : nextX (execRimeHandlerInstruction 0 (runState (aHandler messageEvent) 0x0050_0093)) 1 = some 5 := by decide +kernel
theorem test_rime_c_li : nextX (execRimeHandlerInstruction 0 (runState (aHandler messageEvent) 0x4085)) 1 = some 1 := by decide +kernel
theorem test_rime_mul : nextX (execRimeHandlerInstruction 0 (runState (aHandler messageEvent) 0x0252_80B3)) 1 = some 0x1000_0000 := by decide +kernel

theorem witness_HandlerEffects_dispatch : anEntry.serves 1 = true ∧ anEntry.serves 2 = false
    ∧ (rimeState { bound := [fillEvent], free := [messageEvent] } 0).rime 0 = { bound := [fillEvent], free := [messageEvent], table := [(1, anEntry)] }
    ∧ ¬(∃ m ∈ [messageEvent], m.kind = .miss ∧ m.line = fillEvent.line)
    ∧ (∃ m ∈ [{ fillEvent with kind := .miss }], m.kind = .miss ∧ m.line = fillEvent.line) := by decide +kernel
theorem witness_HandlerEffects_words : Running (runState (aHandler messageEvent) 0x0050_0093) 0 (aHandler messageEvent) none
    ∧ 0 < (aHandler messageEvent).budget
    ∧ (∃ s1 w, (runState (aHandler messageEvent) 0x0050_0093).rimeFetch 0 (aHandler messageEvent) = .val s1 w ∧ w = 0x0050_0093)
    ∧ rvDecode 0x0050_0093 = some (.opImm .add false 1 0 5) ∧ rvDecodeC 0x4085 = some (.opImm .add false 1 0 1)
    ∧ (0x0050_0093 : Nat) % 4 = 3 ∧ (0x4085 : Nat) % 4 ≠ 3 ∧ rvDecode 0xFFFF_FFFF = none ∧ (0xFFFF_FFFF : Nat) % 4 = 3 := by
  refine ⟨⟨by decide +kernel, rfl⟩, by decide, ?_, by decide +kernel, by decide +kernel, by decide, by decide, by decide +kernel, by decide⟩
  have h : (match (runState (aHandler messageEvent) 0x0050_0093).rimeFetch 0 (aHandler messageEvent) with
    | .val _ w => decide (w = 0x0050_0093)
    | _ => false) = true := by decide +kernel
  split at h
  · next s1 w he => exact ⟨s1, w, he, of_decide_eq_true h⟩
  · cases h
/-- A fetch outside the translated space aborts. -/
theorem witness_HandlerEffects_fetch_aborts : ∃ code, (runState { aHandler messageEvent with pc := 0x0100_0000_0000_0000 } 0).rimeFetch 0
    { aHandler messageEvent with pc := 0x0100_0000_0000_0000 } = .abort code := by
  have h : (match (runState { aHandler messageEvent with pc := 0x0100_0000_0000_0000 } 0).rimeFetch 0
    { aHandler messageEvent with pc := 0x0100_0000_0000_0000 } with
    | .abort _ => true
    | _ => false) = true := by decide +kernel
  split at h
  · next c he => exact ⟨c, he⟩
  · cases h
theorem witness_HandlerEffects_memory : (runState (aHandler messageEvent) 0).engineXlat 1 0x4000 .read = .ok 0x4000
    ∧ (runState (aHandler messageEvent) 0).engineXlat 1 0x4000 .write = .ok 0x4000 ∧ isMain 0x4000 = true ∧ messageEvent.line = none
    ∧ (runState (aHandler messageEvent) 0).resident (0x4000 / 128) = true ∧ (runState (aHandler messageEvent) 0).linePoisoned (0x4000 / 128) = false
    ∧ (xReg (aHandler messageEvent) 5 + 0).toNat < 2 ^ 56 ∧ (xReg (aHandler messageEvent) 5 + 0).toNat % 8 = 0 ∧ (runState (aHandler messageEvent) 0).mem.wf = true := by
  refine ⟨ok_of (by decide +kernel), ok_of (by decide +kernel), by decide, rfl, by decide +kernel, by decide +kernel, by decide +kernel, by decide +kernel, by decide +kernel⟩
theorem witness_HandlerEffects_window : rvDecode 0x0062_B023 = some (.store 8 5 6 0)
    ∧ (0x1_0000_0000_0000_0000 - 2048 + 0x30 : Nat) = 2 ^ 64 - 2048 + 0x30 ∧ fillEvent.kind = .fill ∧ messageEvent.kind ≠ .fill := by decide +kernel
theorem witness_HandlerEffects_ends :
    ((runState { aHandler messageEvent with budget := 0 } 0).rime 0).running = some { aHandler messageEvent with budget := 0 }
      ∧ (∀ k, ({ aHandler messageEvent with budget := 0 } : Handler).op ≠ some (.done k))
      ∧ ((runState { aHandler fillEvent with op := some (.done 1) } 0).rime 0).running = some { aHandler fillEvent with op := some (.done 1) }
      ∧ (aHandler fillEvent).late = 0 ∧ (runState { aHandler fillEvent with op := some (.done 1) } 0).mem.wf = true
      ∧ ((runState (aHandler fillEvent) 0).slice.lines.filter fun x => decide ((runState (aHandler fillEvent) 0).setOf x.line = (runState (aHandler fillEvent) 0).setOf 64)).length < 16 := by
  refine ⟨by decide +kernel, nofun, by decide +kernel, rfl, by decide +kernel, by decide +kernel⟩
theorem witness_HandlerEffects_prefetch : Running (runState { aHandler messageEvent with op := some (.prefetch 0x8000) } 0) 0 { aHandler messageEvent with op := some (.prefetch 0x8000) } (some (.prefetch 0x8000))
    ∧ ((runState { aHandler messageEvent with op := some (.prefetch 0x8000) } 0).rime 0).pf.length < 16
    ∧ (rimeState { pf := [{ ctx := 1, va := 0x8000, depth := 1, by_ := 0 }] } 0).engineXlat 1 0x8000 .read = .ok 0x8000
    ∧ (rimeState { pf := [{ ctx := 1, va := 0x8000, depth := 1, by_ := 0 }] } 0).resident 256 = false
    ∧ (rimeState { pf := [{ ctx := 1, va := 0x8000, depth := 1, by_ := 0 }] } 0).filling 256 = false
    ∧ (rimeState { pf := [{ ctx := 1, va := 0x8000, depth := 1, by_ := 0 }] } 0).evictingLine 256 = false
    ∧ (rimeState {} 0).engineXlat 1 0x0100_0000_0000_0000 .read = .error 0x04 := by
  refine ⟨⟨by decide +kernel, rfl⟩, by decide +kernel, ok_of (by decide +kernel), by decide +kernel, by decide +kernel, by decide +kernel, err_of (by decide +kernel)⟩
/-- The home of the lines used below. -/
theorem witness_HandlerEffects_lines : ∃ sl, (rimeState {} 0).homeOf 64 = sl
    ∧ LineAt (rimeState {} 0) sl (aHandler messageEvent) .read 64 ∧ LineAt (rimeState {} 0) sl (aHandler messageEvent) .write 64
    ∧ (rimeState {} 0).resident 64 = true ∧ (rimeState {} 0).linePoisoned 64 = false ∧ (rimeState {} 0).linePoisoned 66 = true := by
  refine ⟨_, rfl, ⟨0x2000, ok_of (by decide +kernel), by decide, by decide +kernel, by decide +kernel, by decide +kernel, by decide +kernel⟩,
    ⟨0x2000, ok_of (by decide +kernel), by decide, by decide +kernel, by decide +kernel, by decide +kernel, by decide +kernel⟩,
    by decide +kernel, by decide +kernel, by decide +kernel⟩
theorem witness_HandlerEffects_forward : Running (runState { aHandler messageEvent with op := some (.forward 0x100) } 0) 0 { aHandler messageEvent with op := some (.forward 0x100) } (some (.forward 0x100))
    ∧ ((runState { aHandler messageEvent with op := some (.forward 0x100) } 0).rime 0).table.get? 1 = some anEntry
    ∧ anEntry.serves 1 = true ∧ (anEntry.get 3).toNat / 2 ^ 59 % 2 = 1 ∧ (191 : Nat) < (0xC0 : Dword).toNat % 256 := by
  refine ⟨⟨by decide +kernel, rfl⟩, by decide +kernel, by decide, by decide, by decide⟩

/-! Store 3 of context 1: 64-byte slots from 0x4000. Episode 5: its record in slot 0, then item 1 and item 2. -/

def recWords (slot : Nat) (prev next seq : Nat) (kind : Nat) (tail : Bool) : List (Nat × Nat) :=
  let a := 0x4000 + 64 * slot
  [(a, prev), (a + 8, next), (a + 16, seq * 2 ^ 32 + 5), (a + 24, (if tail then 2 ^ 12 else 0) + kind * 2 ^ 8 + 9)]
def noLink : Nat := 2 ^ 40 - 1
def fiveStore : Store := { ctx := 1, base := 0x4000, capacity := 8, k := 6, fmt := 4, high := 3, counter := 6, live := [(5, 0)] }
/-- Episode record in slot 0 (tail 2, two items, next number 3), items in slots 1 and 2; a request and a cursor. -/
def firnState (op : EpOp) (c : Cursor) : State :=
  let s := pagedState {} (recWords 0 noLink 1 0 1 false ++ recWords 1 0 2 1 0 false ++ recWords 2 1 noLink 2 0 true
    ++ [(0x4020, 2), (0x4028, 2 * 2 ^ 32 + 3)])
  let s1 := s.setFirn { s.firn with
    stores := [(3, fiveStore)], cursors := [(2, c)]
    reqs := [{ id := 9, ctx := 1, task := 0, core := 0, asker := .long 0 0 4, op := op }], nextId := 10 }
  { s1 with actor := .part }
def episode5 : Dword := 0x0003_0000_0000_0005
def slotHandle (i : Nat) : Dword := BitVec.ofNat 64 (3 * 2 ^ 48 + i)
def atItem : Cursor := { ctx := 1, pos := slotHandle 1, dest := 0x8000 }
def item1 : Rec := ⟨0, 2, 1, 5, 0, 0, false, false, 0, 9⟩
def item2 : Rec := ⟨1, noLink, 2, 5, 0, 0, false, true, 0, 9⟩

theorem witness_EngineRecordSteps_request : ∃ s0 r, TakesStep (firnState (.append episode5 0x5000 7) atItem) s0 9 (.append episode5 0x5000 7) r := by
  refine ⟨_, { id := 9, ctx := 1, task := 0, core := 0, asker := .long 0 0 4, op := .append episode5 0x5000 7 }, by decide +kernel, rfl, rfl, by decide +kernel, by decide +kernel, ?_, ?_, rfl⟩
  · decide +kernel
  · intro c h; cases h
theorem witness_EngineRecordSteps_append : fiveStore.live.get? 5 = some 0 ∧ NextSlot fiveStore { fiveStore with high := 4 } 3
    ∧ (∃ e, (firnState (.append episode5 0x5000 7) atItem).readEp fiveStore 0 = .ok e ∧ e.tail = 2 ∧ e.next = 3)
    ∧ RecordIn (firnState (.append episode5 0x5000 7) atItem) fiveStore 2 item2 ∧ item2.episode = 5
    ∧ (∃ bs, (firnState (.append episode5 0x5000 7) atItem).engineRead 1 0x5000 32 = .ok bs) := by
  refine ⟨by decide, ⟨by decide, rfl, rfl⟩, ⟨_, ok_of (a := ⟨2, 2, 3, 0, 0⟩) (by decide +kernel), rfl, rfl⟩,
    ⟨by decide, by decide, by decide, ok_of (by decide +kernel)⟩, rfl, some_ok (by decide +kernel)⟩
-- R107: the answer is the handle of the slot appended
theorem test_append_answers : (match execAppendAtEngine 9 (firnState (.append episode5 0x5000 7) atItem) with
    | .next t => some (t.completions.map (·.value))
    | _ => none) = some [slotHandle 3] := by decide +kernel
/-- The stores of an append can all be made. -/
theorem witness_EngineRecordSteps_writes : ∃ s1 s2 s3,
    (firnState (.append episode5 0x5000 7) atItem).agentWrite 1 (0x4000 + 3 * 64) (headerOf ⟨2, noLink, 3, 5, 0, 0, false, true, 0, 7⟩ ++ List.replicate 32 0) = .ok s1
      ∧ s1.agentWrite 1 (0x4000 + 2 * 64) (headerOf { item2 with next := 3, tail := false }) = .ok s2
      ∧ s2.agentWrite 1 (0x4000 + 32) (episodeOf ⟨3, 3, 4, 0, 0⟩) = .ok s3 := by
  have h : ((((firnState (.append episode5 0x5000 7) atItem).agentWrite 1 (0x4000 + 3 * 64) (headerOf ⟨2, noLink, 3, 5, 0, 0, false, true, 0, 7⟩ ++ List.replicate 32 0)).toOption.bind
    fun s1 => (s1.agentWrite 1 (0x4000 + 2 * 64) (headerOf { item2 with next := 3, tail := false })).toOption.bind
    fun s2 => (s2.agentWrite 1 (0x4000 + 32) (episodeOf ⟨3, 3, 4, 0, 0⟩)).toOption).isSome) = true := by decide +kernel
  cases h1 : (firnState (.append episode5 0x5000 7) atItem).agentWrite 1 (0x4000 + 3 * 64) (headerOf ⟨2, noLink, 3, 5, 0, 0, false, true, 0, 7⟩ ++ List.replicate 32 0) with
  | error e => rw [h1] at h; cases h
  | ok s1 =>
    rw [h1] at h
    cases h2 : s1.agentWrite 1 (0x4000 + 2 * 64) (headerOf { item2 with next := 3, tail := false }) with
    | error e => simp [Except.toOption, h2] at h
    | ok s2 =>
      cases h3 : s2.agentWrite 1 (0x4000 + 32) (episodeOf ⟨3, 3, 4, 0, 0⟩) with
      | error e => simp [Except.toOption, h2, h3] at h
      | ok s3 => exact ⟨s1, s2, s3, rfl, h2, h3⟩
theorem witness_EngineRecordSteps_branch : (∃ s0 r, TakesStep (firnState (.branch 2) atItem) s0 9 (.branch 2) r) ∧ (firnState (.branch 2) atItem).firn.cursors.get? 2 = some atItem
    ∧ Names (firnState (.branch 2) atItem) 1 atItem.pos ∧ fiveStore.number = some 6
    ∧ (firnState (.branch 2) atItem).readRec fiveStore 1 = .ok item1 := by
  refine ⟨⟨_, { id := 9, ctx := 1, task := 0, core := 0, asker := .long 0 0 4, op := .branch 2 }, by decide +kernel, rfl, rfl, by decide +kernel, by decide +kernel, by decide +kernel, ?_, rfl⟩,
    by decide +kernel, ⟨fiveStore, by decide +kernel, by decide +kernel⟩, by decide +kernel, ok_of (by decide +kernel)⟩
  intro c h; injection h with h; subst h; decide +kernel
theorem test_branch_answers : (match execBranchAtEngine 9 (firnState (.branch 2) atItem) with
    | .next t => some (t.completions.map (·.value))
    | _ => none) = some [0x0003_0000_0006_0000] := by decide +kernel
theorem witness_EngineRecordSteps_chain : OwnChain (firnState (.calve (slotHandle 1) (slotHandle 2)) atItem) fiveStore 5 [(1, item1), (2, item2)]
    ∧ Names (firnState (.calve (slotHandle 1) (slotHandle 2)) atItem) 1 (slotHandle 1)
    ∧ (∀ z ∈ [(1, item1), (2, item2)], z.2.kind = 0 ∨ z.2.kind = 2 ∨ z.2.kind = 4) ∧ [1, 2].Nodup ∧ 2 ≤ fiveStore.high := by
  refine ⟨⟨⟨by decide, by decide, by decide, ok_of (by decide +kernel)⟩, rfl, rfl, by decide, ⟨by decide, by decide, by decide, ok_of (by decide +kernel)⟩, rfl⟩,
    ⟨fiveStore, by decide +kernel, by decide +kernel⟩, by decide, by decide, by decide⟩
/-- The answer of CALVE, and the record it leaves: a crevasse of length 2. -/
theorem test_calve_leaves_crevasse : (match execCalveAtEngine 9 (firnState (.calve (slotHandle 1) (slotHandle 2)) atItem) with
    | .next t => some (t.completions.map (·.value), (t.readRec fiveStore 1).toOption.map fun r => (r.kind, r.length, r.tail))
    | _ => none) = some ([0x1_0100], some (2, 2, true)) := by decide +kernel
theorem witness_EngineRecordSteps_splice : (∃ s0 r, TakesStep (firnState (.splice (slotHandle 0) (slotHandle 2)) atItem) s0 9 (.splice (slotHandle 0) (slotHandle 2)) r)
    ∧ (([(0, (⟨noLink, 1, 0, 5, 0, 0, false, false, 1, 9⟩ : Rec)), (1, item1), (2, item2)].drop 1).dropLast) = [(1, item1)] := by
  refine ⟨⟨_, { id := 9, ctx := 1, task := 0, core := 0, asker := .long 0 0 4, op := .splice (slotHandle 0) (slotHandle 2) }, by decide +kernel, rfl, rfl, by decide +kernel, by decide +kernel, by decide +kernel, ?_, rfl⟩, rfl⟩
  intro c h; cases h
theorem test_splice_leaves_splice : (match execSpliceAtEngine 9 (firnState (.splice (slotHandle 0) (slotHandle 2)) atItem) with
    | .next t => some ((t.readRec fiveStore 1).toOption.map fun r => (r.kind, r.length))
    | _ => none) = some (some (4, 1)) := by decide +kernel

/-- A play from item 1, armed, and one that has tokens to place on port 3 of core 0, bound in its context. -/
def aPlay (cur : Dword) (armed : Bool) (out : List Token) : Play :=
  { asker := .long 0 0 4, task := 0, n := 2, cur := cur, armed := armed, last := cur, out := out, emitting := !out.isEmpty }
def playState (c : Cursor) (p : Play) : State :=
  { firnState (.new 3) { c with play := some p } with cores := [(0, { regions := [(0, portRegion)] })] }
theorem witness_PlaySteps_meets : MeetsRecord (playState atItem (aPlay (slotHandle 1) true [])) { atItem with play := some (aPlay (slotHandle 1) true []) }
      (aPlay (slotHandle 1) true []) 3 fiveStore 1 (slotHandle 1) item1
    ∧ MeetsRecord (playState atItem (aPlay (slotHandle 1) false [])) { atItem with play := some (aPlay (slotHandle 1) false []) }
      (aPlay (slotHandle 1) false []) 3 fiveStore 2 (slotHandle 2) item2
    ∧ Carries atItem item1 ∧ ¬Carries atItem { item1 with kind := 1 } ∧ ¬TooEarly (playState atItem (aPlay (slotHandle 1) true [])) atItem (aPlay (slotHandle 1) true []) := by
  refine ⟨⟨by decide +kernel, ⟨fiveStore, by decide +kernel, by decide +kernel⟩, by decide +kernel, .inl ⟨rfl, by decide +kernel, rfl, by decide, by decide, by decide, ok_of (by decide +kernel)⟩⟩,
    ⟨by decide +kernel, ⟨fiveStore, by decide +kernel, by decide +kernel⟩, by decide +kernel, .inr ⟨item1, rfl, ⟨by decide +kernel, by decide +kernel, by decide +kernel, ok_of (by decide +kernel)⟩, ⟨by decide, by decide, by decide, ok_of (by decide +kernel)⟩, by decide +kernel, by decide, ?_⟩⟩, ?_, ?_, ?_⟩
  · rw [if_neg (by decide)]; exact ⟨rfl, rfl⟩
  · unfold Carries; decide +kernel
  · unfold Carries; decide +kernel
  · unfold TooEarly; decide +kernel
theorem witness_PlaySteps_pace : TooEarly (playState atItem (aPlay (slotHandle 1) true [])) { atItem with cfg := 0x1_0000_0000 } { aPlay (slotHandle 1) true [] with count := 1 } := by
  unfold TooEarly; decide +kernel
theorem witness_PlaySteps_targets : ((playState atItem (aPlay (slotHandle 1) true [])).core 0).portLink 1 (.input 3) = some (0, 0)
    ∧ ((playState atItem (aPlay (slotHandle 1) true [])).core 0).portLink 1 (.input 9) = none
    ∧ (∃ bs, (playState atItem (aPlay (slotHandle 1) true [])).engineRead 1 0x4040 64 = .ok bs)
    ∧ (∃ s1, (playState atItem (aPlay (slotHandle 1) true [])).agentWrite 1 0x8000 (List.replicate 64 7) = .ok s1)
    ∧ ((playState atItem (aPlay (slotHandle 1) true [])).agentWrite 1 0x0100_0000_0000_0000 [7]).toOption.isNone = true := by
  refine ⟨by decide +kernel, by decide +kernel, some_ok (by decide +kernel), some_ok (by decide +kernel), by decide +kernel⟩
theorem witness_PlaySteps_places : (aPlay (slotHandle 1) true [controlToken 1]).out = [controlToken 1]
    ∧ (playState { atItem with cfg := 0x8000, dest := 3 } (aPlay (slotHandle 1) true [controlToken 1])).feedable 0 3 0 0 (.play 2) = true := by decide +kernel

/-! ### The generation boundary, pre-emption, translation, the host (R289 to R305, R377 to R420) -/

/-- Doublewords of a table entry: position p of sequence 7, flags, KV list and its count, penalty list and its count. -/
def entryWords (p w1 w3 w4 w6 w7 : Nat) : List Dword :=
  [BitVec.ofNat 64 (p * 2 ^ 32 + 7), BitVec.ofNat 64 w1, episode5, BitVec.ofNat 64 w3, BitVec.ofNat 64 w4, 0, BitVec.ofNat 64 w6, BitVec.ofNat 64 w7]
/-- The running iteration 9 of strand 0: one entry; rows at port 4; slot 0 with this policy record. -/
def anIter (policy : List Dword) (x : SeqState) (sl : SampSlot) : Iter :=
  { sid := 0, tag := 1, ctx := 1, task := 0, desc := 0x2000, n := 1, rowPort := 4, startPort := 3, table := 0x3000, area := 0x3100, iteration := 9,
    policies := [policy], map := 8, phase := .rows, seqs := [x], slots := [sl] }
/-- An active entry before its first row. -/
def activeSeq : SeqState := { words := some (entryWords 5 (2 ^ 19) 0 0 0 0) }
def plainPolicy : List Dword := [2, 0, 0, 0, 0, 0, 0, 0]
/-- A row header of entry 0, row 0 of 1, with draft token 3; two logits, 1.0 and a NaN. -/
def aHeader : Token := { kind := .control, fmt := 7, lanes := [⟨nat64 0, true⟩, ⟨nat64 (1 * 16 + 0), true⟩, ⟨0x8000_0000_0000_0003, true⟩, ⟨0, true⟩] }
def someLogits : Token := { fmt := 12, last := true, lanes := [codeLane 0x3F80_0000, codeLane 0x7FC0_0000] }
def genRegion (head : Token) : Region :=
  { portRegion with links := [{ fmt := 3, slots := 2, binding := .input 3 }, { fmt := 3, slots := 2, binding := .output 4, queue := [[head]] }] }
def genState (it : Iter) (head : Token) : State :=
  { pagedState {} [(0x3000, 5 * 2 ^ 32 + 7), (0x3008, 2 ^ 19), (0x3100, 2 ^ 32 + 1), (0x3108, 9)] with
    actor := .part, cores := [(0, { regions := [(0, genRegion head)], iters := [it], cyc := 50 })] }
def rowIter : Iter := { anIter plainPolicy activeSeq {} with part := [aHeader] }

theorem witness_RowEffects_router : Iterates (genState rowIter someLogits) 0 rowIter ∧ rowIter.ended = false
    ∧ (genState rowIter someLogits).stopped 0 1 = false ∧ PortHas (genState rowIter someLogits) 0 1 4 0 1 someLogits
    ∧ HeaderIs aHeader 0 0 1 0x8000_0000_0000_0003 ∧ rowIter.part ++ [someLogits] = [aHeader, someLogits]
    ∧ ((entryDword rowIter 0 1).testBit 19 = true ∧ (entryDword rowIter 0 1).testBit 20 = false)
    ∧ PolicyOk rowIter 0 ∧ rowIter.map.toNat / 2 ^ (4 * aHeader.policy) % 16 = 8 ∧ (rowZ [someLogits]).length = 2
    ∧ ¬PolicyOk (anIter [] activeSeq {}) 0 := by
  refine ⟨⟨[], by decide +kernel⟩, rfl, by decide +kernel, ⟨by decide +kernel, by decide +kernel, by decide +kernel, ⟨genRegion someLogits, by decide +kernel, by decide +kernel⟩⟩,
    ⟨rfl, rfl, rfl, by decide, by decide, by decide, by decide, by decide +kernel⟩, rfl, by decide +kernel, ?_, by decide +kernel, by decide +kernel, ?_⟩
  · unfold PolicyOk; decide +kernel
  · unfold PolicyOk; decide +kernel
theorem witness_RowEffects_entry : (∃ ds, (genState rowIter someLogits).engineDwords 1 0x3000 8 = .ok ds)
    ∧ ((genState rowIter someLogits).engineDwords 1 0x0100_0000_0000_0000 8).toOption = none ∧ draftIn 0x8000_0000_0000_0003 = some 3
    ∧ rowZ [someLogits] = [some 0x3F80_0000, none] := by
  exact ⟨some_ok (by decide +kernel), by decide +kernel, by decide, by decide +kernel⟩

/-- A row in slot 0 with logits 1.0 and 2.0; policies: greedy, top-p 0.5 with min-p 0.25, a kernel at ports 3 and 4, masked. -/
def aRow : GenRow := { entry := 0, index := 0, count := 1, draft := some 3, pol := 0, z := [some 0x3F80_0000, some 0x4000_0000] }
def sampleIter (policy : List Dword) (w1 : Nat) : Iter :=
  anIter policy { activeSeq with words := some (entryWords 5 w1 0 0 0 0), rows := some 1, got := [⟨0, some 3, none⟩] } { queue := [aRow] }
def greedyPolicy : List Dword := [2 + 2 ^ 20, 0x3F80_0000, 0, 0, 0, 0, 0, 0]
def narrowPolicy : List Dword := [2, 0x3F00_0000_3F80_0000, 0x3E80_0000, 0, 0, 0, 0, 0]
def kernelPolicy : List Dword := [2, 0x3F80_0000_3F80_0000, 0, 0, 2 ^ 8 + 0x43, 0, 0, 0]
def maskPolicy : List Dword := [2 + 2 ^ 19, 0x3F80_0000_3F80_0000, 0, 0, 0, 0, 0, 0]
def sampled (o : Out) : Option (List (Option RowOutcome)) :=
  match o with
  | .next t => (t.core 0).iters.head?.map fun it => (it.seq 0).got.map (·.outcome)
  | _ => none
-- R293: greedy decoding draws the largest logit
theorem test_greedy_draw : sampled (execSampleRow 0 0 (genState (sampleIter greedyPolicy (2 ^ 19)) someLogits)) = some [some (.token 1)] := by decide +kernel
theorem witness_RowEffects_sample : ((sampleIter greedyPolicy (2 ^ 19)).slots.getD 0 {}).queue = [aRow]
    ∧ (policyWord (sampleIter greedyPolicy (2 ^ 19)) 0 0).testBit 20 = true ∧ (policyWord (sampleIter narrowPolicy (2 ^ 19)) 0 0).testBit 20 = false
    ∧ (val32 (policyWord (sampleIter narrowPolicy (2 ^ 19)) 0 1 / 2 ^ 32)).lt (val32 0x3F80_0000) = true
    ∧ (val32 (policyWord (sampleIter narrowPolicy (2 ^ 19)) 0 2 % 2 ^ 32)).isZero = false
    ∧ infToken [some 0x3F80_0000, some 0x4000_0000] = none ∧ (infToken [some 0x3F80_0000, some 0x7F80_0000]).isSome = true
    ∧ inTokens 0 [some 0x3F80_0000, some 0x4000_0000] ≠ [] ∧ inTokens 0 (topP (val32 0x3F00_0000) [some 0x3F80_0000, some 0x4000_0000]) ≠ [] := by decide +kernel
theorem witness_RowEffects_kernel_bound : (policyWord (sampleIter kernelPolicy (2 ^ 19)) 0 4).testBit 8 = true
    ∧ ((genState (sampleIter kernelPolicy (2 ^ 19)) someLogits).core 0).binds 1 (.input 3) = true
    ∧ ((genState (sampleIter kernelPolicy (2 ^ 19)) someLogits).core 0).binds 1 (.output 4) = true
    ∧ ((genState (sampleIter kernelPolicy (2 ^ 19)) someLogits).core 0).binds 1 (.output 9) = false := by decide +kernel
/-- Whether two masks of a row are the same. -/
def sameMask : Masked → Masked → Bool
  | .mask a, .mask b => decide (a = b)
  | .finished a, .finished b => decide (a = b)
  | .wait, .wait => true
  | _, _ => false
theorem mask_of {a b : Masked} (h : sameMask a b = true) : a = b := by
  cases a <;> cases b <;> simp_all [sameMask]
/-- Grammar context 0 of the image at 0x1000 masks the row; an entry that names another's context ends it; a second row waits. -/
def maskState (it : Iter) : State :=
  let s := { genState it someLogits with mem := tables grammarWords }
  s.setGen { s.gen with grams := [(0, aGram)] }
theorem witness_RowEffects_mask : (policyWord (sampleIter maskPolicy (2 ^ 19 + 2 ^ 16)) 0 0).testBit 19 = true
    ∧ (entryDword (sampleIter maskPolicy (2 ^ 19 + 2 ^ 16)) 0 1).testBit 16 = true
    ∧ (maskState (sampleIter maskPolicy (2 ^ 19 + 2 ^ 16))).specMask (sampleIter maskPolicy (2 ^ 19 + 2 ^ 16)) aRow = .mask 8
    ∧ (maskState (sampleIter maskPolicy (2 ^ 19 + 2 ^ 16 + 5))).specMask (sampleIter maskPolicy (2 ^ 19 + 2 ^ 16 + 5)) aRow = .finished (.void 5)
    ∧ (maskState (sampleIter maskPolicy (2 ^ 19 + 2 ^ 16))).specMask (sampleIter maskPolicy (2 ^ 19 + 2 ^ 16)) { aRow with index := 2 } = .wait := by
  exact ⟨by decide +kernel, by decide +kernel, mask_of (by decide +kernel), mask_of (by decide +kernel), mask_of (by decide +kernel)⟩
/-- Slot 0's kernel has the row and its budget; the port holds the header it returns. -/
def kernelIter (ends : Nat) (dropping : Bool) (back : List Token) : Iter :=
  { sampleIter kernelPolicy (2 ^ 19) with slots := [{ kernel := some { row := aRow, ends := some ends, back := back }, dropping := dropping }] }
theorem witness_RowEffects_return : PortHas (genState (kernelIter 60 false [aHeader]) someLogits) 0 1 (policyWord (kernelIter 60 false [aHeader]) 0 4 / 2 ^ 4 % 16) 0 1 someLogits
    ∧ HeaderIs aHeader aRow.entry aRow.index aRow.count 0x8000_0000_0000_0003 ∧ aRow.z.length ≤ (rowZ [someLogits]).length
    ∧ ((genState (kernelIter 60 false []) someLogits).core 0).cyc ≤ 60 ∧ 40 < ((genState (kernelIter 40 false []) someLogits).core 0).cyc
    ∧ 0 < (kernelIter 60 false []).slots.length ∧ (∀ l, ¬HeaderIs someLogits aRow.entry aRow.index aRow.count l) := by
  refine ⟨⟨by decide +kernel, by decide +kernel, by decide +kernel, ⟨genRegion someLogits, by decide +kernel, by decide +kernel⟩⟩,
    ⟨rfl, rfl, rfl, by decide, by decide, by decide, by decide, by decide +kernel⟩, by decide +kernel, by decide +kernel, by decide +kernel, by decide, ?_⟩
  intro l h
  exact absurd h.1 (by decide)
/-- Three rows of a sequence: drafts 4 and 6; tokens 4, 8, 2. -/
def threeRows : List RowEntry := [⟨0, some 4, some (.token 4)⟩, ⟨1, some 6, some (.token 8)⟩, ⟨2, none, some (.token 2)⟩]
def decidedSeq (rs : List RowEntry) : SeqState := { activeSeq with rows := some 3, got := rs }
-- R297: the first two are accepted, the second as the one that differs from its draft
theorem witness_RowEffects_acceptance : AcceptsTo (entryDword (anIter plainPolicy (decidedSeq threeRows) {}) 0 1 / 2 ^ 32 % 2 ^ 18) threeRows [4, 8] false
    ∧ threeRows.Pairwise (fun a b => a.index < b.index) ∧ (∀ r ∈ threeRows, r.outcome ≠ none) ∧ (3 : Nat) ≤ threeRows.length := by
  refine ⟨⟨by decide, by decide, fun i t h => ?_⟩, by decide, by decide, by decide⟩
  match i with
  | 0 =>
    obtain rfl : 4 = t := by simpa using h
    exact ⟨rfl, fun _ => ⟨by decide +kernel, rfl⟩, fun h => absurd h (by decide)⟩
  | 1 =>
    obtain rfl : 8 = t := by simpa using h
    exact ⟨rfl, fun h => absurd h (by decide), fun _ => ⟨by decide +kernel, fun _ => .inl (by decide)⟩⟩
  | i + 2 => simp at h
theorem witness_RowEffects_void : (⟨1, none, some (.void 5)⟩ : RowEntry) ∈ [⟨0, none, some (.token 4)⟩, ⟨1, none, some (.void 5)⟩]
    ∧ (∀ q ∈ ([⟨0, none, some (.token 4)⟩, ⟨1, none, some (.void 5)⟩] : List RowEntry), ∀ v, q.outcome = some (.void v) → q = ⟨1, none, some (.void 5)⟩ ∨ 1 < q.index) := by
  refine ⟨by decide, ?_⟩
  intro q hq v hv
  simp only [List.mem_cons, List.not_mem_nil, or_false] at hq
  rcases hq with rfl | rfl
  · cases hv
  · exact .inl rfl
def openIter : Iter := { anIter plainPolicy (decidedSeq threeRows) {} with ended := true }
/-- The record of an iteration whose one sequence is decided can be written. -/
theorem witness_RowEffects_record : ∃ t u, RecordEntries { openIter with seqs := [{ decidedSeq threeRows with decision := some ⟨false, false, 0, [4, 8]⟩ }] } 0 1 (genState openIter someLogits) t
    ∧ t.agentWrite 1 0x3100 (dwordBytes [nat64 (1 * 2 ^ 32 + 1), 9, 0, 0, 0, 0, 0, 0]) = .ok u := by
  have h : (((genState openIter someLogits).agentWrite 1 (0x3100 + 64) (dwordBytes (commitWords (nat64 (5 * 2 ^ 32 + 7)) (some ⟨false, false, 0, [4, 8]⟩)))).toOption.bind
    fun t => (t.agentWrite 1 0x3100 (dwordBytes [nat64 (1 * 2 ^ 32 + 1), 9, 0, 0, 0, 0, 0, 0])).toOption).isSome = true := by decide +kernel
  cases h1 : (genState openIter someLogits).agentWrite 1 (0x3100 + 64) (dwordBytes (commitWords (nat64 (5 * 2 ^ 32 + 7)) (some ⟨false, false, 0, [4, 8]⟩))) with
  | error e => rw [h1] at h; cases h
  | ok t =>
    cases h2 : t.agentWrite 1 0x3100 (dwordBytes [nat64 (1 * 2 ^ 32 + 1), 9, 0, 0, 0, 0, 0, 0]) with
    | error e => rw [h1] at h; change (t.agentWrite 1 0x3100 (dwordBytes [nat64 (1 * 2 ^ 32 + 1), 9, 0, 0, 0, 0, 0, 0])).toOption.isSome = true at h; rw [h2] at h; cases h
    | ok u => exact ⟨t, u, ⟨_, t, ok_of (by decide +kernel), h1, rfl⟩, h2⟩
theorem witness_RowEffects_end : (∀ x ∈ [decidedSeq threeRows], ∃ c, x.rows = some c ∧ c ≤ x.got.length) ∧ (anIter plainPolicy (decidedSeq threeRows) {}).ended = false := by
  refine ⟨fun x hx => ?_, rfl⟩
  obtain rfl : x = _ := by simpa using hx
  exact ⟨3, rfl, by decide⟩

/-- A decided iteration whose record at 0x3100 commits tokens 8 and 2 at position p; store 3 with episode 5, its next number 3. -/
def commitIter (w1 w3 w4 : Nat) (a : CommitAt) (p : Nat) : Iter :=
  { anIter plainPolicy { words := some (entryWords p w1 w3 w4 0 0) } {} with phase := .decided, commit := a }
def commitState (it : Iter) (p : Nat) (st : Store) : State :=
  let s := pagedState {} (recWords 0 noLink 1 0 1 false ++ recWords 1 0 2 1 0 false ++ recWords 2 1 noLink 2 0 true
    ++ [(0x4020, 2), (0x4028, 2 * 2 ^ 32 + 3), (0x3000, p * 2 ^ 32 + 7), (0x3008, 2 ^ 19), (0x3100, 2 ^ 32 + 1), (0x3108, 9),
        (0x3140, p * 2 ^ 32 + 7), (0x3148, 2), (0x3150, 2 * 2 ^ 32 + 8), (0x9000, 0xA000), (0x9008, 0xB000), (0x9010, 16), (0xA000, 0x77)])
  { s with actor := .part, cores := [(0, { iters := [it] })], firn := { s.firn with stores := [(3, st)] } }
/-- Its grammar context. -/
def stepState : State :=
  let s := { commitState (commitIter (2 ^ 16) 0 0 { effect := 1 } 0) 0 fiveStore with mem := tables grammarWords }
  s.setGen { s.gen with grams := [(0, aGram)] }
theorem witness_CommitAndScrubEffects_begins : Iterates (commitState (commitIter 0 0 0 {} 2) 2 fiveStore) 0 (commitIter 0 0 0 {} 2)
    ∧ (commitState (commitIter 0 0 0 {} 2) 2 fiveStore).stopped 0 1 = false
    ∧ (commitState (commitIter 0 0 0 {} 2) 2 fiveStore).engineDwords 1 0x3100 2 = .ok [2 ^ 32 + 1, 9] ∧ (2 ^ 32 + 1 : Dword).toNat % 2 ^ 8 = 1
    ∧ RecordHolds (commitState (commitIter 0 0 0 {} 2) 2 fiveStore) (commitIter 0 0 0 {} 2) 0 2 7 0 2 false false [8, 2] := by
  refine ⟨⟨[], by decide +kernel⟩, by decide +kernel, ok_of (by decide +kernel), by decide +kernel,
    [2 * 2 ^ 32 + 7, 2, 2 * 2 ^ 32 + 8, 0, 0, 0], ok_of (by decide +kernel), by omega, by omega, by omega, by omega, by decide +kernel, by decide +kernel, rfl, ?_⟩
  intro q hq
  match q, hq with
  | 0, _ => decide +kernel
  | 1, _ => decide +kernel
theorem witness_CommitAndScrubEffects_table : (commitState (commitIter 0 0 0 { token := 2 } 2) 2 fiveStore).engineDwords 1 0x3000 2 = .ok [2 * 2 ^ 32 + 7, 2 ^ 19]
    ∧ (∃ s1, (commitState (commitIter 0 0 0 { token := 2 } 2) 2 fiveStore).agentWrite 1 0x3000 (dwordBytes [nat64 (4 * 2 ^ 32 + 7), nat64 (2 ^ 19)]) = .ok s1)
    ∧ (∃ s1, (commitState (commitIter 0 0 0 { entry := 1 } 2) 2 fiveStore).agentWrite 1 0x3100 (dwordBytes [nat64 (1 * 2 ^ 32 + 2)]) = .ok s1) :=
  ⟨ok_of (by decide +kernel), some_ok (by decide +kernel), some_ok (by decide +kernel)⟩
theorem witness_CommitAndScrubEffects_copy : entryDword (commitIter 0 0x9000 1 {} 2) 0 4 % 2 ^ 16 = 1 ∧ entryDword (commitIter 0 0x9000 1 {} 2) 0 3 % 2 ^ 56 = 0x9000
    ∧ (commitState (commitIter 0 0x9000 1 {} 2) 2 fiveStore).engineDwords 1 (0x9000 + 32 * 0) 4 = .ok [0xA000, 0xB000, 16, 0]
    ∧ (∃ bs, (commitState (commitIter 0 0x9000 1 {} 2) 2 fiveStore).engineRead 1 0xA000 16 = .ok bs)
    ∧ (∃ s1, ({ commitState (commitIter 0 0x9000 1 {} 2) 2 fiveStore with fresh := 16 }).agentWrite 1 0xB000 (List.replicate 16 7) = .ok s1) :=
  ⟨by decide +kernel, by decide +kernel, ok_of (by decide +kernel), some_ok (by decide +kernel), some_ok (by decide +kernel)⟩
theorem witness_CommitAndScrubEffects_grammar : stepState.myGram 1 0 = .ok (0, aGram)
    ∧ aGram.position = BitVec.ofNat 32 0 ∧ (∃ g, stepState.gramStep aGram 3 = .ok g)
    ∧ aGram.position ≠ BitVec.ofNat 32 2 ∧ (entryDword (commitIter (2 ^ 16) 0 0 {} 0) 0 1).testBit 16 = true := by
  refine ⟨ok_of (by decide +kernel), by decide, some_ok (by decide +kernel), by decide, by decide +kernel⟩
theorem witness_CommitAndScrubEffects_append : (commitState (commitIter (2 ^ 17) 0 0 { effect := 2 } 2) 2 fiveStore).checkEpisode 1 episode5 = .ok (3, fiveStore, 5, 0)
    ∧ (∃ e, (commitState (commitIter (2 ^ 17) 0 0 { effect := 2 } 2) 2 fiveStore).readEp fiveStore 0 = .ok e ∧ e.next = 3)
    ∧ (∃ x, (commitState (commitIter (2 ^ 17) 0 0 { effect := 2 } 2) 2 fiveStore).epAppend 1 episode5 0 0 (some (leBytes 8 8 ++ leBytes 8 0)) = .ok x)
    ∧ (commitState (commitIter (2 ^ 17) 0 0 { effect := 2 } 2) 2 { fiveStore with capacity := 3 }).epAppend 1 episode5 0 0 (some (leBytes 8 8 ++ leBytes 8 0)) = .error (.refuse 0x80)
    ∧ (∃ t, StopsTable (commitState (commitIter (2 ^ 17) 0 0 { effect := 2 } 2) 2 fiveStore) (commitIter (2 ^ 17) 0 0 { effect := 2 } 2) 0 2 t 0 false) := by
  refine ⟨ok_of (by decide +kernel), ⟨⟨2, 2, 3, 0, 0⟩, ok_of (by decide +kernel), rfl⟩, some_ok (by decide +kernel), err_of (by decide +kernel), ?_⟩
  obtain ⟨t, ht⟩ : ∃ t, (commitState (commitIter (2 ^ 17) 0 0 { effect := 2 } 2) 2 fiveStore).agentWrite 1 0x3000
      (dwordBytes [nat64 ((2 + 0) % 2 ^ 32 * 2 ^ 32 + (BitVec.ofNat 64 (2 * 2 ^ 32 + 7)).toNat % 2 ^ 32),
        nat64 ((BitVec.ofNat 64 (2 ^ 19)).toNat - (BitVec.ofNat 64 (2 ^ 19)).toNat / 2 ^ 20 % 4 * 2 ^ 20 + 2 ^ 21 + 0)]) = .ok t :=
    some_ok (by decide +kernel)
  exact ⟨t, BitVec.ofNat 64 (2 * 2 ^ 32 + 7), BitVec.ofNat 64 (2 ^ 19), ok_of (by decide +kernel), by decide +kernel, ht⟩
theorem witness_CommitAndScrubEffects_hold : (commitState (commitIter (2 ^ 18) 0 0 { effect := 3 } 2) 2 fiveStore).gen.nextPosition 0 7 ≤ 2
    ∧ ({ hold := [], holdNext := [(0, 7, 9)] } : GenState).nextPosition 0 7 = 9
    ∧ (commitState (commitIter (2 ^ 18) 0 0 { effect := 3 } 2) 2 fiveStore).gen.hold.length < 65536
    ∧ 65536 ≤ (List.replicate 65536 (⟨0, 7, 1, 1, false⟩ : HoldEntry)).length := by
  refine ⟨by decide +kernel, by decide +kernel, by decide +kernel, Nat.le_of_eq List.length_replicate.symm⟩
theorem witness_CommitAndScrubEffects_release : (⟨0, 7, 5, 4, false⟩ : HoldEntry) ∈ (holdState 7 5).gen.hold
    ∧ (∀ x ∈ (holdState 7 5).gen.hold, x.domain = 0 → x.seq = 7 → x = ⟨0, 7, 5, 4, false⟩ ∨ 5 < x.position) := by decide +kernel
/-- Context 1 with a scrub list of one entry at 0x9800: 16 bytes of data at 0xA000, no scales, the checksum at 0xA100. -/
def scrubState (sum : Nat) : State :=
  let s := pagedState {} [(0x9800, 0xA000), (0x9808, 16), (0x9818, 0xA100), (0x9820, 2 ^ 63), (0xA000, 0x77), (0xA100, sum)]
  s.setCtx 1 { s.ctx 1 with scrubList := 0x9800, scrubCount := 1, scrubRing := { va := 0xC000, logSize := 4, counter := 0xC800 } }
theorem witness_CommitAndScrubEffects_scrub : ((scrubState 5).ctx 1).created = true ∧ ((scrubState 5).ctx 1).scrubCount = 1
    ∧ (scrubState 5).engineDwords 1 0x9800 8 = .ok [0xA000, 16, 0, 0xA100, 0x8000_0000_0000_0000, 0, 0, 0]
    ∧ (∃ b, (scrubState 5).engineRead 1 0xA000 16 = .ok b) ∧ (∃ b, (scrubState 5).engineRead 1 0 0 = .ok b) ∧ (∃ b, (scrubState 5).engineRead 1 0xA100 4 = .ok b)
    ∧ (∃ c, (scrubState 5).engineDword 1 0xC800 = .ok c) ∧ (∃ s1, (scrubState 5).engineWrite 1 0xC000 (List.replicate 32 1) = .ok s1) := by
  exact ⟨by decide +kernel, by decide +kernel, ok_of (by decide +kernel), some_ok (by decide +kernel), some_ok (by decide +kernel), some_ok (by decide +kernel),
    some_ok (by decide +kernel), some_ok (by decide +kernel)⟩

/-- AGLD in cell 0 within a round; a held fault until 10 µs. -/
def loadRegion (ag : AgState) : Region :=
  let r := agRegion ag [none, none, none]
  { r with cells := [(0, { elem := some (.agld { word 4 0 with c := 0xFF }), ag := ag })] }
def loadState (ag : AgState) : State :=
  { agState (loadRegion ag) with actor := .part, slice := { lines := [⟨128, false, none, 0, 0⟩] } }
theorem witness_StreamReplies_load : (loadRegion { round := some fourBytes }).mayFetch { round := some fourBytes } { word 4 0 with c := 0xFF } = true
    ∧ TokenAtHand (loadState { round := some fourBytes }) (loadRegion { round := some fourBytes }) fourBytes 0 4 (fun k => 0x4000 + k) := by
  refine ⟨by decide +kernel, by decide +kernel, by decide +kernel, fun k hk => ?_⟩
  match k, hk with
  | 0, _ => exact ⟨by decide +kernel, ok_of (by decide +kernel), by decide +kernel⟩
  | 1, _ => exact ⟨by decide +kernel, ok_of (by decide +kernel), by decide +kernel⟩
  | 2, _ => exact ⟨by decide +kernel, ok_of (by decide +kernel), by decide +kernel⟩
  | 3, _ => exact ⟨by decide +kernel, ok_of (by decide +kernel), by decide +kernel⟩
theorem witness_StreamReplies_retry : (loadState { round := some fourBytes, fault := some ⟨3, 0x4000, 10000⟩ }).tns < 10000
    ∧ 10000 ≤ { loadState { round := some fourBytes, fault := some ⟨3, 0x4000, 10000⟩ } with tns := 10000 }.tns ∧ 0 < fourBytes.perToken
    ∧ ({ loadState {} with ctxs := [] }).engineXlat 1 0x4000 .read = .error 3 := by
  exact ⟨by decide +kernel, by decide +kernel, by decide +kernel, err_of (by decide +kernel)⟩
def storeRegion : Region :=
  let ag : AgState := { round := some fourBytes, stores := [⟨[⟨0x4000, 0x4000, 1, 0, 8, 0x11⟩], 0, false⟩] }
  { agRegion ag [] with cells := [(0, { elem := some (.agst { word 4 0 with b := 0xFF, c := 0xFF }), ag := ag })] }
theorem witness_StreamReplies_store : storeRegion.blocks ⟨[⟨0x4000, 0x4000, 1, 0, 8, 0x11⟩], 0, false⟩ = false
    ∧ storeRegion.squashed ⟨[⟨0x4000, 0x4000, 1, 0, 8, 0x11⟩], 0, false⟩ = false ∧ (loadState {}).resident (0x4000 / 128) = true
    ∧ (agState storeRegion).resident (0x4000 / 128) = false ∧ (agState storeRegion).filling (0x4000 / 128) = false
    ∧ (agState storeRegion).evictingLine (0x4000 / 128) = false ∧ (agState storeRegion).mem.wf = true := by decide +kernel
def feedState (k : FeedFor) (it : Iter) : State :=
  let s := genState it someLogits
  s.modCore 0 fun c => { c with feeds := [⟨2, 3, 1, 0, k, [aHeader, someLogits]⟩] }
theorem witness_StreamReplies_feed : (feedState .start rowIter).feedable 0 3 0 0 (.feed 2) = true ∧ ((feedState .start rowIter).core 0).portLink 1 (.input 3) = some (0, 0)
    ∧ (feedState .start rowIter).stopped 0 1 = false
    ∧ Iterates ((feedState (.kernel 0) (kernelIter 60 false [])).feed 0 3 0 0 (.feed 2) aHeader) 0 (kernelIter 60 false []) := by
  refine ⟨by decide +kernel, by decide +kernel, by decide +kernel, ⟨[], by decide +kernel⟩⟩

/-- Context 1's root strand 0 on core 0, with a record of kind r where one is given; a pre-emption where one is given. -/
def preemptState (st : Strand) (rs : Tbl Record) (p : Option Preemption) (out : List Nat) : State :=
  { strandState {} with actor := .part, strands := [(0, st)], records := rs, cores := [(0, { preemption := p, out := out, regions := [(0, portRegion)] })] }
theorem witness_PreemptionEffects_preempt : OnCore (preemptState (worker 0 0 0 0) [] none []) 0 1
    ∧ SystemStrand (preemptState (worker 0 0 0 0) [(0, { waiting with sid := 0, kind := .join })] none []) 0 1 0 ∧ 4 ≤ (worker 0 0 0 0).tvec.toNat % 2 ^ 56
    ∧ waiting.sys = false ∧ (∀ k, ¬SystemStrand { preemptState (worker 0 0 0 0) [] none [] with strands := [] } 0 1 k) := by
  refine ⟨.inl ⟨(0, worker 0 0 0 0), by decide +kernel, by decide, by decide +kernel⟩, ⟨⟨(0, worker 0 0 0 0), by decide +kernel, rfl, by decide +kernel⟩, ?_⟩, by decide +kernel, rfl, ?_⟩
  · intro x hx _
    exact Nat.zero_le _
  · rintro k ⟨⟨x, hx, _⟩, _⟩
    cases hx
def aPreemption : Preemption := { ctx := 1, deadline := 0 }
theorem witness_PreemptionEffects_deadline : ResidentsAre (preemptState { worker 0 0 0 0 with place := .resident 0 } [] (some aPreemption) []) 0 1 [0]
    ∧ ResidentsAre (preemptState (worker 0 0 0 0) [] (some aPreemption) []) 0 1 [] ∧ aPreemption.yielded = false ∧ aPreemption.deadline ≤ 0
    ∧ (preemptState { worker 0 0 0 0 with place := .resident 0 } [] (some aPreemption) []).slotFor 0 1 .forced = some .onChip := by
  unfold ResidentsAre; decide +kernel
theorem witness_PreemptionEffects_freeze : Freezes { aPreemption with yielded := true } portRegion
    ∧ ¬Freezes { aPreemption with yielded := true, passing := [0] } { portRegion with status := .idle } ∧ ({ aPreemption with yielded := true }).freezeAt ≤ 0 := by
  unfold Freezes; decide +kernel
theorem witness_PreemptionEffects_switch : (∀ x ∈ [(0, { portRegion with status := .idle })], ¬(x.2.ctx = 1 ∧ x.2.status = .running))
    ∧ ({ preemptState (worker 0 0 0 0) [] none [] with records := [] } : State).spillUsed 1 ≤ ((preemptState (worker 0 0 0 0) [] none []).ctx 1).spillRecords
    ∧ ((preemptState (worker 0 0 0 0) [(0, { waiting with sid := 0 })] none []).ctx 1).spillRecords
      < ({ preemptState (worker 0 0 0 0) [] none [] with records := [(0, { waiting with sid := 0, place := .spill })] } : State).spillUsed 1
    ∧ ((preemptState (worker 0 0 0 0) [] (some aPreemption) []).core 0).cb = [] := by
  refine ⟨?_, by decide +kernel, by decide +kernel, by decide +kernel⟩
  intro x hx
  obtain rfl : x = _ := by simpa using hx
  decide
theorem witness_PreemptionEffects_resume : ((preemptState (worker 0 0 0 0) [(0, { waiting with sid := 0, kind := .preempted })] none [1]).core 0).out = [1]
    ∧ ((preemptState (worker 0 0 0 0) [] (some aPreemption) []).core 0).preemption = some aPreemption ∧ (([(0, waiting)] : Tbl Record).map fun x => x.1).Nodup := by decide +kernel
def aFrozen : Frozen := { ctx := 1, regions := [portRegion], toRestore := [0], w := [(3, 9)] }
theorem witness_PreemptionEffects_restore : ({ frozen := [aFrozen] } : CoreState).bufCtx ≠ some aFrozen.ctx ∧ ({ frozen := [aFrozen] } : CoreState).frozen = [aFrozen] ∧ 0 ∈ aFrozen.toRestore
    ∧ aFrozen.regions = [portRegion] ∧ portRegion.number = 0 := by decide +kernel
theorem witness_PreemptionEffects_destroy : ((preemptState (worker 0 0 0 0) [] none []).ctx 1).created = true ∧ ((preemptState (worker 0 0 0 0) [] none []).ctx 1).dead = false
    ∧ ((preemptState (worker 0 0 0 0) [] none []).ctx 2).created = false ∧ (schedState.sched.slots.get? 0).map (fun x => (x.ctx, x.state)) = some (1, .idle) := by decide +kernel

/-- The walk of VA 0x1234 in context 1 ends in the 64 GiB leaf; in context 2, which has no table, in a page fault. -/
theorem witness_TranslationEffects_walk : WalkEnds (pagedState {} []) 0x1234 4 ((pagedState {} []).ctx 1).root.toNat (.ok (36, 0x1F))
    ∧ WalkEnds (pagedState {} []) 0x1234 4 ((pagedState {} []).ctx 2).root.toNat (.error 0x03)
    ∧ isMain 0 = true ∧ frameFits (pagedState {} []).host.mpart 0 (2 ^ 36) false = true := by
  refine ⟨?_, ?_, by decide +kernel, by decide +kernel⟩
  · unfold WalkEnds
    rw [if_neg (by decide +kernel), if_neg (by decide +kernel), if_neg (by decide +kernel), if_neg (by decide +kernel)]
    unfold WalkEnds
    rw [if_neg (by decide +kernel), if_neg (by decide +kernel), if_neg (by decide +kernel), if_pos (by decide +kernel)]
    rfl
  · unfold WalkEnds
    rw [if_neg (by decide +kernel), if_pos (by decide +kernel)]
-- R383: the table indices of the manual's example
theorem test_walk_indices : (List.range 4).map (fun l => 0x0000_1234_5678_9ABC / 2 ^ (10 * (4 - l) + 6) % 2 ^ 10) = [0, 0x123, 0x115, 0x278] := by decide
def aWalk (started again : Bool) : Walk := { id := 2, die := 0, ctx := 1, page := 0, started := started, again := again, waiters := [.strand 0 5 7 0x40 .read] }
def walkState (w : Walk) : State :=
  let s := { moraineState with mem := (pagedState {} []).mem }
  { (s.setCtx 1 { s.ctx 1 with root := 0x8000_0000 }) with trans := { walks := [w] } }
theorem witness_TranslationEffects_done : aWalk true false ∈ (walkState (aWalk true false)).trans.walks ∧ (∃ r, (walkState (aWalk true false)).walkVa 1 0 = r)
    ∧ (walkState (aWalk true false)).awaits 0 5 7 = true ∧ Maps fetchLeaf 1 0 ∧ Dropped 0 0 1 fetchLeaf ∧ ¬Dropped 0 0 2 fetchLeaf := by
  refine ⟨by decide +kernel, ⟨_, rfl⟩, by decide +kernel, ?_, ?_, ?_⟩
  · unfold Maps; decide +kernel
  · unfold Dropped Maps; decide +kernel
  · unfold Dropped Maps; decide +kernel
/-- The leaf that a finished walk leaves in the strand's core. -/
theorem test_walk_done_caches : (match execWalkDone 2 (walkState (aWalk true false)) with
    | .next t => some ((t.core 0).tlb.map (·.bits), t.trans.walks)
    | _ => none) = some ([36], []) := by decide +kernel
theorem witness_TranslationEffects_shootdown : (walkState (aWalk true true)).trans.shootdown = none
    ∧ (∃ w ∈ (walkState (aWalk true true)).trans.walks, w.again = true ∧ w.ctx = 1) ∧ (walkState (aWalk false false)).trans.walks = [aWalk false false] := by
  exact ⟨by decide +kernel, ⟨_, List.mem_singleton.2 rfl, rfl, rfl⟩, rfl⟩

/-- Link port 2 is up and expects sequence 5. -/
def linkState : State :=
  let s := strandState {}
  { s with host := { s.host with links := [(2, { enabled := true, up := true, expect := 5, oldest := 3, replays := 8 })], bar4Base := 0x1000 } }
def aFlit (seq ack : BitVec 16) (kind : BitVec 4) (payload : BitVec 1952) : Flit :=
  let f : Flit := { seq := seq, ack := ack, vc := 1, kind := kind, payload := payload, crc := 0 }
  { f with crc := crc32c (flitBytes f) }
-- R414's check value
theorem test_crc32c : crc32c ([0x31, 0x32, 0x33, 0x34, 0x35, 0x36, 0x37, 0x38, 0x39].map (BitVec.ofNat 8)) = 0xE306_9283 := by decide +kernel
theorem flit_good (f : Flit) (c : BitVec 32) : flitBytes { f with crc := c } = flitBytes f := rfl
theorem flit_bad (f : Flit) (h : f.crc = crc32c (flitBytes f)) : ¬({ f with crc := f.crc + 1 } : Flit).crc = crc32c (flitBytes { f with crc := f.crc + 1 }) := by
  rw [flit_good]
  show ¬f.crc + 1 = _
  rw [← h]
  intro e
  have e := congrArg BitVec.toNat e
  have l := f.crc.isLt
  rw [BitVec.toNat_add, show (1 : BitVec 32).toNat = 1 from rfl] at e
  omega
theorem witness_HostAndBringUpEffects_link : (linkState.host.links.getD 2 {}).up = true ∧ (linkState.host.links.getD 3 {}).up = false
    ∧ (aFlit 5 3 1 9).crc = crc32c (flitBytes (aFlit 5 3 1 9))
    ∧ ¬({ aFlit 5 3 1 9 with crc := (aFlit 5 3 1 9).crc + 1 } : Flit).crc = crc32c (flitBytes { aFlit 5 3 1 9 with crc := (aFlit 5 3 1 9).crc + 1 })
    ∧ BitVec.ofNat 16 (aFlit 5 3 3 3).payload.toNat = (linkState.host.links.getD 2 {}).oldest := by
  refine ⟨by decide +kernel, by decide +kernel, ?_, ?_, by decide +kernel⟩
  · unfold aFlit; rw [flit_good]
  · exact flit_bad _ (by unfold aFlit; rw [flit_good])
theorem witness_HostAndBringUpEffects_memory : linkState.mem.wf = true ∧ linkState.rimes = [] ∧ 0x40 + linkState.host.bar4Base.toNat + 2 ≤ 2 ^ 30 * 1536
    ∧ linkState.poisoned 0x1040 2 = false ∧ (∀ l, 0x1040 / 128 ≤ l → l ≤ (0x1040 + 2) / 128 → linkState.evictingLine l = false) := by
  refine ⟨by decide +kernel, rfl, by decide +kernel, by decide +kernel, fun l h1 h2 => ?_⟩
  obtain rfl : l = 0x20 := by omega
  decide +kernel
theorem witness_HostAndBringUpEffects_registers : State.reset.host.mpartSet = false ∧ (∀ x ∈ State.reset.ctxs, x.2.created = false) := by decide
/-- An image of 1,024 bytes at 0x1000 is staged. -/
def stagedState : State := { State.reset with host := { State.reset.host with boot := .verifying, fwAddr := 0x1000, fwLen := 1024, nonce := some 7 } }
/-- Whether an image's keys are those of the ROM depends on the ROM's digest, which the model leaves open: one of the two holds. -/
theorem witness_HostAndBringUpEffects_firmware : stagedState.host.boot = .verifying ∧ stagedState.host.fwAddr.toNat % 4096 = 0
    ∧ 896 ≤ stagedState.host.fwLen.toNat ∧ stagedState.host.fwAddr.toNat + stagedState.host.fwLen.toNat ≤ 2 ^ 30 * 1536
    ∧ stagedState.poisoned 0x1000 1024 = false ∧ (0x1000 : Nat) + 896 > 0 ∧ 2 ^ 30 * 1536 < (0x180_0000_0000 : Dword).toNat + 896
    ∧ (sha256 ((stagedState.mem.bytes 0x1000 640).take 512) = Config.romKeyDigest ∨ sha256 ((stagedState.mem.bytes 0x1000 640).take 512) ≠ Config.romKeyDigest)
    ∧ stagedState.host.nonce = some 7 ∧ State.reset.host.nonce = none := by
  refine ⟨rfl, by decide, by decide, by decide, by decide +kernel, by decide, by decide, Classical.em _, rfl, rfl⟩

/-! ### Every program word and step (R24 to R45, R416) -/

theorem witness_DecodeOfEncode_strand : WellFormed (.addi 5 0 10) = true ∧ ∃ bs, encode (.addi 5 0 10) = .ok (.strand, bs) := by
  exact ⟨by decide, _, rfl⟩
theorem witness_DecodeOfEncode_element : WellFormed (.vadd ⟨2, false, false, 0, 0, 1, 0xFF, 2, 0xFF, 0, 0⟩) = true
    ∧ ∃ bs, encode (.vadd ⟨2, false, false, 0, 0, 1, 0xFF, 2, 0xFF, 0, 0⟩) = .ok (.element, bs) := ⟨by decide, _, rfl⟩
theorem witness_DecodeOfEncode_command : WellFormed (.lds (cmd 3 false 0 4 0x4000)) = true ∧ ∃ bs, encode (.lds (cmd 3 false 0 4 0x4000)) = .ok (.command, bs) :=
  ⟨by decide, _, rfl⟩
theorem witness_EncodeOfDecode : (decodeStrand 0x0400_000A).toOption.isSome = true ∧ (decodeElement 0x0120_0001_FF02_FF00 0).toOption.isSome = true
    ∧ (decodeCommand (((encodeCommand (.lds (cmd 3 false 0 4 0x4000))).getD 0))).toOption.isSome = true := by decide +kernel
theorem witness_HeldUntilVerified : HeldInReset { State.reset with agenda := [.event .firmwareVerifyDone] }
    ∧ ∃ t, step { State.reset with agenda := [.event .firmwareVerifyDone] } = .next t := by
  refine ⟨by unfold HeldInReset; decide, ?_⟩
  have h : (match step { State.reset with agenda := [.event .firmwareVerifyDone] } with
    | .next _ => true
    | _ => false) = true := by decide +kernel
  split at h
  · next t ht => exact ⟨t, ht⟩
  · cases h
/-- Strand 0's line stands in its slice, and its word is `ADDI g5, g0, 10`. -/
def fetchState : State :=
  { State.reset.withFetchWord 32 0x04A0_000A with
    slice := { lines := [⟨0x1_0000 / 128, false, none, 0, 0⟩] }
    strands := [(0, { ctx := 1, pc := 0x1_0000, tvec := 0x2000, place := .resident 0 })] }
/-- A fetch state: the strand's turn, its PC translated; the physical address of its word. -/
def fetchesAt (s : State) (pa : Nat) : Prop :=
  let s0 := { turnBegun s [] with actor := .strand 0 }
  s.agenda = [.strand 0] ∧ s.host.powered = true ∧ s.host.boot = .running
    ∧ ∃ st, s0.strands.get? 0 = some st ∧ s0.mayRun st = true ∧ st.noticed = none ∧ st.handles ∧ s0.xlat st st.pc .exec = .hit pa
theorem fetches_of {s : State} {pa : Nat} (h : (decide (s.agenda = [.strand 0]) && s.host.powered && decide (s.host.boot = .running)
    && (match ({ turnBegun s [] with actor := .strand 0 }).strands.get? 0 with
        | some st => ({ turnBegun s [] with actor := .strand 0 }).mayRun st && decide (st.noticed = none)
            && decide (st.sys = false ∧ st.scout = false ∧ 4 ≤ st.tvec.toNat % 2 ^ 56)
            && decide (({ turnBegun s [] with actor := .strand 0 }).xlat st st.pc .exec = .hit pa)
        | none => false)) = true) : fetchesAt s pa := by
  unfold fetchesAt
  cases hs : ({ turnBegun s [] with actor := .strand 0 } : State).strands.get? 0 with
  | none => rw [hs] at h; simp at h
  | some st =>
    rw [hs] at h
    simp only [Bool.and_eq_true, decide_eq_true_eq] at h
    exact ⟨h.1.1.1, h.1.1.2, h.1.2, st, hs, h.2.1.1.1, h.2.1.1.2, h.2.1.2, h.2.2⟩
theorem witness_StepRunsDecoded_strand : fetchesAt fetchState 0x1_0000 ∧ isMain 0x1_0000 = true
    ∧ icHolds (({ turnBegun fetchState [] with actor := .strand 0 }).core 0).icache 0x1_0000 = false
    ∧ ({ turnBegun fetchState [] with actor := .strand 0 }).resident 512 = true
    ∧ ({ turnBegun fetchState [] with actor := .strand 0 }).linePoisoned 512 = false
    ∧ decodeStrand (BitVec.ofNat 32 (({ turnBegun fetchState [] with actor := .strand 0 }).mem.readN 0x1_0000 4)) = .ok (.addi 5 0 10) :=
  ⟨fetches_of (by decide +kernel), by decide +kernel, by decide +kernel, by decide +kernel, by decide +kernel, ok_of (by decide +kernel)⟩
/-- The same with the line in the instruction cache, its word there `NOP`; a repetition runs. -/
def cachedState : State :=
  { fetchState.modCore 0 fun c => { c with icache := [⟨512, 0xF800_8000⟩] } with
    strands := fetchState.strands.map fun x => (x.1, { x.2 with loop := { x.2.loop with rcnt := 3 } }) }
theorem witness_StepRunsDecoded_cached : fetchesAt cachedState 0x1_0000 ∧ isMain 0x1_0000 = true
    ∧ icHolds (({ turnBegun cachedState [] with actor := .strand 0 }).core 0).icache 0x1_0000 = true
    ∧ (decodeStrand (BitVec.ofNat 32 (lineGet 0xF800_8000 0 4))).toOption = some .nop ∧ repeatable 0xF800_8000 .nop = true
    ∧ repeatable 0xF800_6000 .eret = false :=
  ⟨fetches_of (by decide +kernel), by decide +kernel, by decide +kernel, by decide +kernel, by decide +kernel, by decide +kernel⟩
/-- The same with the PC mapped to the host window. -/
def hostWindowState : State :=
  { fetchState.modCore 0 fun c => { c with tlb := [{ ctx := 1, bits := 36, page := 0, pte := dw (hostBase + 0x1F) }] } with agenda := [.strand 0] }
theorem witness_StepRunsDecoded_window : fetchesAt hostWindowState (hostBase + 0x1_0000) ∧ isMain (hostBase + 0x1_0000) = false :=
  ⟨fetches_of (by decide +kernel), by decide +kernel⟩
-- the step of that word
theorem test_step_runs_addi : (match step fetchState with
    | .next t => some ((t.strand 0).g 5, (t.strand 0).pc)
    | _ => none) = some (10, 0x1_0004) := by decide +kernel
theorem witness_StepRunsDecoded_unassigned : (decodeStrand 0).toOption = none ∧ fetchesAt fetchState 0x1_0000 := ⟨by decide, fetches_of (by decide +kernel)⟩
/-- A state with the word placed, its agent's turn next. -/
def placedState (nbits w : Nat) : State := State.reset.withFetchWord nbits w
theorem witness_StepRunsDecoded_unit : (placedState 64 0x0120_0001_FF02_FF00).agenda = [.unit 0 0 0 false]
    ∧ (placedState 64 0x0120_0001_FF02_FF00).host.powered = true ∧ (placedState 64 0x0120_0001_FF02_FF00).host.boot = .running
    ∧ ({ turnBegun (placedState 64 0x0120_0001_FF02_FF00) [] with actor := .unit 0 0 0 false }).unitInstr ⟨0, 0, 0, false⟩
        = some (.vadd ⟨2, false, false, 0, 0, 1, 0xFF, 2, 0xFF, 0, 0⟩) := by decide +kernel
theorem witness_StepRunsDecoded_command : (placedState 128 0x01000382000000050000000000001000).agenda = [.command 0]
    ∧ (placedState 128 0x01000382000000050000000000001000).host.powered = true ∧ (placedState 128 0x01000382000000050000000000001000).host.boot = .running
    ∧ (match (turnBegun (placedState 128 0x01000382000000050000000000001000) []).cmds.find? (fun x => decide (x.uid = 0)) with
        | some c => decide (c.stage = .waiting) && (turnBegun (placedState 128 0x01000382000000050000000000001000) []).mayStart c && c.src.isNone
            && !((turnBegun (placedState 128 0x01000382000000050000000000001000) []).barc c.stream).skipping && (decodeCommand c.bits).toOption.isSome
        | none => false) = true := by decide +kernel
theorem witness_StepRunsDecoded_event : Instr.isWord (.samplingRound 0 0) = false ∧ Instr.isWord (.vadd (word 4 0)) = true := by decide

/-! ### Ill-formed terms: one for each check of WellFormed, which refuses it; beside each the same term within the limits -/

/-- A term that the check refuses, and one that it passes. -/
def refusesFirst (bad good : Instr) : Bool := !WellFormed bad && WellFormed good

-- strand words (R31, R36, R325, R349)
theorem smoke_loop_length : refusesFirst (.loop 1 0) (.loop 1 1) = true := by decide
theorem smoke_rep_of_g0 : refusesFirst (.rep 0) (.rep 1) = true := by decide
theorem smoke_rounding_field : refusesFirst (.fadd 1 2 3 5 0) (.fadd 1 2 3 7 0) = true ∧ refusesFirst (.fsqrt 1 2 6 0) (.fsqrt 1 2 4 0) = true
    ∧ refusesFirst (.fcvtToWu 1 2 5 0) (.fcvtToWu 1 2 0 0) = true := by decide
theorem smoke_csr_number : refusesFirst (.csrr 1 0x00E) (.csrr 1 0x00D) = true ∧ refusesFirst (.csrw 1 2 0x041) (.csrw 1 2 0x040) = true := by decide
-- the part's numbers (R14, R316, R360, R414)
theorem smoke_kick_slot : refusesFirst (.kick 131072 0) (.kick 131071 0) = true ∧ refusesFirst (.replayStart 131072) (.replayStart 131071) = true
    ∧ refusesFirst (.kickSlotBind 131072 ⟨0, 0, none, false⟩) (.kickSlotBind 131071 ⟨0, 0, none, false⟩) = true := by decide
theorem smoke_link_port : refusesFirst (.linkPortEnable 16) (.linkPortEnable 15) = true
    ∧ refusesFirst (.flitReceive 16 ⟨0, 0, 0, 0, 0, 0⟩) (.flitReceive 15 ⟨0, 0, 0, 0, 0, 0⟩) = true := by decide
theorem smoke_core_and_strand : refusesFirst (.relaunch 96) (.relaunch 95) = true ∧ refusesFirst (.commit 96) (.commit 95) = true
    ∧ refusesFirst (.completionAccept 96 0) (.completionAccept 95 65535) = true ∧ refusesFirst (.strandPark 0 65536) (.strandPark 0 65535) = true := by decide

/-- An element word: two inputs on links 0 and 1, an output on link 2. -/
def ew : EWord := ⟨2, false, false, 0, 0, 1, 0xFF, 2, 0xFF, 0, 0⟩
/-- One input. -/
def ew1 : EWord := { ew with b := 0xFF }
/-- One input and the constant. -/
def ewk : EWord := { ew with k := true, b := 0xFF }
-- R41: formats, links, constants, flags
theorem smoke_format : refusesFirst (.vadd { ew with fmt := 8 }) (.vadd ew) = true ∧ refusesFirst (.fvadd { ew with fmt := 2 }) (.fvadd { ew with fmt := 12 }) = true := by decide
theorem smoke_link_number : refusesFirst (.vadd { ew with a := 0x40 }) (.vadd { ew with a := 0x3F }) = true ∧ refusesFirst (.vadd { ew with o0 := 0x40 }) (.vadd { ew with o0 := 0xFF }) = true := by decide
theorem smoke_link_required : refusesFirst (.vadd { ew with a := 0xFF }) (.vadd ew) = true ∧ refusesFirst (.vadd { ew with b := 0xFF }) (.vadd ewk) = true := by decide
theorem smoke_link_unused : refusesFirst (.vadd { ew with c := 3 }) (.vadd ew) = true ∧ refusesFirst (.vadd { ew with o1 := 3 }) (.vadd ew) = true := by decide
theorem smoke_constant : refusesFirst (.vnot { ew1 with k := true }) (.vnot ew1) = true ∧ refusesFirst (.vslice { ewk with k := false }) (.vslice ewk) = true
    ∧ refusesFirst (.vadd { ew with konst := 1 }) (.vadd { ewk with konst := 1 }) = true := by decide
theorem smoke_saturation : refusesFirst (.vadd { ew with sat := true }) (.vmul { ew with sat := true }) = true := by decide
theorem smoke_rounding_code : refusesFirst (.vadd { ew with rnd := 1 }) (.fvadd { ew with fmt := 12, rnd := 3 }) = true := by decide
-- limits of the entries (R251, R253, R254, R258, R264 to R270, R276 to R286, R153)
theorem smoke_aux_zero : refusesFirst (.vadd { ew with aux := 1 }) (.vadd ew) = true ∧ refusesFirst (.smxu { ew with fmt := 12, aux := 1 }) (.smxu { ew with fmt := 12 }) = true := by decide
theorem smoke_aux_compare : refusesFirst (.vcmp { ew with aux := 6 }) (.vcmp { ew with aux := 5 }) = true := by decide
theorem smoke_aux_vval : refusesFirst (.vval { ew with aux := 3 }) (.vval { ew with aux := 2 }) = true ∧ refusesFirst (.vval ew) (.vval ew1) = true := by decide
theorem smoke_aux_vscan : refusesFirst (.vscan { ew1 with aux := 3 }) (.vscan { ew1 with aux := 6 }) = true ∧ refusesFirst (.vscan { ew1 with aux := 8 }) (.vscan { ew1 with c := 1 }) = true
    ∧ refusesFirst (.vscan { ew1 with aux := 1, sat := true }) (.vscan { ew1 with sat := true }) = true := by decide
theorem smoke_segments : refusesFirst (.fvdot { ew with fmt := 12, aux := 2 }) (.fvdot { ew with fmt := 12, aux := 7 }) = true
    ∧ refusesFirst (.fvdot { ew with fmt := 12, aux := 8 }) (.fvdot { ew with fmt := 12 }) = true ∧ refusesFirst (.vred { ew1 with aux := 0x30 }) (.vred { ew1 with aux := 0x21 }) = true := by decide
theorem smoke_vbcast_index : refusesFirst (.vbcast { ew with aux := 1 }) (.vbcast { ew1 with aux := 1 }) = true := by decide
theorem smoke_vslice_range : refusesFirst (.vslice { ewk with konst := 0x0080_0001 }) (.vslice { ewk with konst := 0x007F_0001 }) = true := by decide
theorem smoke_cturn_block : refusesFirst (.cturn { ew1 with aux := 65 }) (.cturn { ew1 with aux := 64 }) = true ∧ refusesFirst (.cturn { ew1 with aux := 1 }) (.cturn { ew1 with aux := 2 }) = true := by decide
theorem smoke_vconst_step : refusesFirst (.vconst { ewk with fmt := 12, aux := 1 }) (.vconst { ewk with fmt := 12 }) = true := by decide
theorem smoke_conversion_aux : refusesFirst (.cvt { ew1 with aux := 2 }) (.cvt { ew1 with aux := 1 }) = true ∧ refusesFirst (.cvt { ew1 with aux := 0x80, rnd := 1 }) (.cvt { ew1 with rnd := 1 }) = true
    ∧ refusesFirst (.scale { ewk with konst := 0x1_0000_0000 }) (.scale { ewk with konst := 0xFFFF_FFFF }) = true := by decide
theorem smoke_router : refusesFirst (.steer { ew with fmt := 0, o0 := 0xFF }) (.steer { ew with fmt := 0 }) = true ∧ refusesFirst (.sink { ew1 with fmt := 0 }) (.sink { ew1 with fmt := 0, o0 := 0xFF }) = true
    ∧ refusesFirst (.merge { ew with fmt := 1, c := 3 }) (.merge { ew with fmt := 0, c := 3 }) = true ∧ refusesFirst (.amerge { ew1 with fmt := 0, a := 0xFF, b := 1, c := 3, aux := 2 }) (.amerge { ew1 with fmt := 0, a := 0xFF, b := 1, c := 3, aux := 1 }) = true := by decide
theorem smoke_matrix : refusesFirst (.mrow { ew1 with fmt := 0, aux := 12 }) (.mrow { ew1 with fmt := 0, aux := 11 }) = true ∧ refusesFirst (.mrow { ew1 with fmt := 0, aux := 4 }) (.mrow { ew1 with fmt := 0, aux := 4, o0 := 0xFF }) = true
    ∧ refusesFirst (.mldb { ew with fmt := 0, o0 := 0xFF, aux := 4 }) (.mldb { ew with fmt := 0, o0 := 0xFF, aux := 3 }) = true ∧ refusesFirst (.mdrn { ew1 with aux := 0x20 }) (.mdrn { ew1 with aux := 0x13 }) = true
    ∧ refusesFirst (.mclr { ew1 with aux := 4 }) (.mclr { ew1 with aux := 3 }) = true := by decide
theorem smoke_attention : refusesFirst (.smxi { ew1 with fmt := 12, aux := 65 }) (.smxi { ew1 with fmt := 12, aux := 64 }) = true
    ∧ refusesFirst (.pred { ew1 with fmt := 4, c := 1, k := true, konst := 1 }) (.pred { ew1 with fmt := 4, c := 1, k := true, konst := 0x0001_0000_0000_0001 }) = true
    ∧ refusesFirst (.pred { ew1 with fmt := 4, c := 1, k := true, konst := 0x0001_0000_0000_01FF }) (.pred { ew1 with fmt := 4, c := 1, k := true, konst := 0x0001_0000_0000_00FF }) = true
    ∧ refusesFirst (.red { ew1 with fmt := 12, aux := 3 }) (.red { ew1 with fmt := 12, aux := 0x7E }) = true := by decide
theorem smoke_state_elements : refusesFirst (.stld { ew1 with aux := 1 }) (.stld { ew1 with aux := 2 }) = true ∧ refusesFirst (.stst { ew with aux := 2 }) (.stst { ew with aux := 1 }) = true := by decide
theorem smoke_address_generators : refusesFirst (.agld { ew1 with aux := 16 }) (.agld { ew1 with aux := 15 }) = true ∧ refusesFirst (.agst { ew with aux := 16 }) (.agst { ew with aux := 15 }) = true
    ∧ refusesFirst (.agga { ew1 with aux := 0x10 }) (.agga { ew with aux := 0x10 }) = true ∧ refusesFirst (.agga { ew with aux := 0x20 }) (.agga { ew1 with aux := 0x0F }) = true
    ∧ refusesFirst (.aguf { ew1 with aux := 32 }) (.aguf { ew1 with aux := 31 }) = true ∧ refusesFirst (.agep { ew1 with k := true, aux := 16 }) (.agep { ew1 with k := true, aux := 15 }) = true := by decide

-- stream commands (R42 to R45)
theorem smoke_command_destinations : refusesFirst (.lds (cmd 16 false 0 1 0)) (.lds (cmd 15 false 0 1 0)) = true ∧ refusesFirst (.cpy (cmd 1 false 0 0 0)) (.cpy (cmd 0 false 0 0 0)) = true
    ∧ refusesFirst (.colAllReduce (cmd 0x600 false 0 1 0)) (.colAllReduce (cmd 0x5FF false 0 1 0)) = true ∧ refusesFirst (.drn (cmd 0x640 false 0 0 0)) (.drn (cmd 0x63F false 0 0 0)) = true
    ∧ refusesFirst (.hand (cmd 0x5FF false 0 0 0)) (.hand (cmd 0x600 false 0 0 0)) = true := by decide
theorem smoke_command_bits : refusesFirst (.gth (cmd 3 true 0 1 0)) (.gth (cmd 3 false 0 1 0)) = true ∧ refusesFirst (.lds { cmd 3 false 0 1 0 with cks := true }) (.cpy { cmd 0 false 0 0 0 with cks := true }) = true := by decide
theorem smoke_command_flags : refusesFirst (.lds (cmd 3 false 4 1 0)) (.lds (cmd 3 false 3 1 0)) = true ∧ refusesFirst (.sts (cmd 3 false 1 1 0)) (.sts (cmd 3 false 2 1 0)) = true
    ∧ refusesFirst (.colAllGather (cmd 0x200 false 4 1 0)) (.colAllGather (cmd 0x200 false 5 1 0)) = true ∧ refusesFirst (.swsSwapOut (cmd 0 false 0 1 0)) (.swsSwapOut (cmd 0 false 1 1 0)) = true
    ∧ refusesFirst (.barc (cmd 0 false 1 0 0)) (.barc (cmd 0 false 0 0 0)) = true := by decide
theorem smoke_command_operands : refusesFirst (.lds (cmd 3 true 0 16 0)) (.lds (cmd 3 true 0 15 0)) = true ∧ refusesFirst (.unf (cmd 3 false 0 16 0)) (.unf (cmd 3 false 0 15 0)) = true
    ∧ refusesFirst (.cfg (cmd 0 false 0 1 0)) (.cfg (cmd 0 false 0 0 8)) = true ∧ refusesFirst (.ptch (cmd 3 false 0 256 0)) (.ptch (cmd 3 false 0 255 0)) = true
    ∧ refusesFirst (.hand (cmd 0x600 false 0 0 8)) (.hand (cmd 0x600 false 0 1 0)) = true := by decide

end Sys2Proof.Tests
end

section
/-! SUPPORT. Integer register and immediate instructions (R335, R336, R338): each operation of the model as the number the spec gives
it, reduced to 64 bits, and from these the statements on register arithmetic and on the immediate forms. -/

namespace Sys2Proof.Machine

/-! ### Numbers reduced to 64 bits (R9) -/

@[simp] theorem nat64_toNat (x : Dword) : nat64 x.toNat = x := (BitVec.ofNat_toNat 64 x).trans (BitVec.setWidth_eq x)

@[simp] theorem int64_toInt (x : Dword) : int64 x.toInt = x := BitVec.ofInt_toInt

@[simp] theorem int64_natCast (n : Nat) : int64 n = nat64 n := BitVec.ofInt_natCast 64 n

theorem nat64_add (m n : Nat) : nat64 (m + n) = nat64 m + nat64 n := BitVec.ofNat_add m n

theorem nat64_mul (m n : Nat) : nat64 (m * n) = nat64 m * nat64 n := BitVec.ofNat_mul m n

theorem int64_add (m n : Int) : int64 (m + n) = int64 m + int64 n := BitVec.ofInt_add m n

theorem int64_neg (n : Int) : int64 (-n) = -int64 n := BitVec.ofInt_neg

theorem int64_sub (m n : Int) : int64 (m - n) = int64 m - int64 n := by
  rw [Int.sub_eq_add_neg, int64_add, int64_neg, BitVec.sub_eq_add_neg]

theorem int64_mul (m n : Int) : int64 (m * n) = int64 m * int64 n := BitVec.ofInt_mul m n

/-- A number whose residue is the signed value of a doubleword is that doubleword. -/
theorem int64_eq_of_bmod {x : Dword} {n : Int} (h : x.toInt = n.bmod (2 ^ 64)) : x = int64 n :=
  BitVec.eq_of_toInt_eq (h.trans (BitVec.toInt_ofInt n).symm)

/-! ### Sums, products and comparisons (R335) -/

theorem add_eq_nat64 (x y : Dword) : x + y = nat64 (x.toNat + y.toNat) := by simp [nat64_add]

theorem sub_eq_int64 (x y : Dword) : x - y = int64 (x.toNat - y.toNat) := by simp [int64_sub]

theorem mul_eq_nat64 (x y : Dword) : x * y = nat64 (x.toNat * y.toNat) := by simp [nat64_mul]

theorem ite_slt_eq_min (x y : Dword) : (if x.slt y then x else y) = int64 (min x.toInt y.toInt) := by
  simp only [min_def_lt, apply_ite int64, int64_toInt, BitVec.slt_iff_toInt_lt]

theorem ite_slt_eq_max (x y : Dword) : (if x.slt y then y else x) = int64 (max x.toInt y.toInt) := by
  simp only [max_def_lt, apply_ite int64, int64_toInt, BitVec.slt_iff_toInt_lt]

theorem ite_ult_eq_min (x y : Dword) : (if x.ult y then x else y) = nat64 (min x.toNat y.toNat) := by
  simp only [min_def_lt, apply_ite nat64, nat64_toNat, BitVec.ult_iff_toNat_lt]

theorem ite_ult_eq_max (x y : Dword) : (if x.ult y then y else x) = nat64 (max x.toNat y.toNat) := by
  simp only [max_def_lt, apply_ite nat64, nat64_toNat, BitVec.ult_iff_toNat_lt]

theorem flag_slt (x y : Dword) : flag (x.slt y) = truth (x.toInt < y.toInt) := by
  simp only [flag, truth, BitVec.slt_iff_toInt_lt]

theorem flag_ult (x y : Dword) : flag (x.ult y) = truth (x.toNat < y.toNat) := by
  simp only [flag, truth, BitVec.ult_iff_toNat_lt]

/-! ### Shifts (R335) -/

theorem shiftLeft_eq_nat64 (x : Dword) (n : Nat) : x <<< n = nat64 (x.toNat * 2 ^ n) := by
  apply BitVec.eq_of_toNat_eq
  rw [BitVec.toNat_shiftLeft, Nat.shiftLeft_eq, nat64, BitVec.toNat_ofNat]

theorem ushiftRight_eq_nat64 (x : Dword) (n : Nat) : x >>> n = nat64 (x.toNat / 2 ^ n) := by
  rw [← Nat.shiftRight_eq_div_pow, ← BitVec.toNat_ushiftRight, nat64_toNat]

theorem sshiftRight_eq_int64 (x : Dword) (n : Nat) : x.sshiftRight n = int64 (x.toInt / 2 ^ n) := by
  have h := Int.shiftRight_eq_div_pow x.toInt n
  rw [← BitVec.toInt_sshiftRight, Nat.cast_pow] at h
  exact (int64_toInt _).symm.trans (congrArg int64 h)

/-! ### Quotients and remainders (R336) -/

@[simp] theorem divS_zero (x : Dword) : divS x 0 = int64 (-1) := rfl

@[simp] theorem divU_zero (x : Dword) : divU x 0 = int64 (-1) := rfl

@[simp] theorem remS_zero (x : Dword) : remS x 0 = x := rfl

@[simp] theorem remU_zero (x : Dword) : remU x 0 = x := rfl

section
variable {x y : Dword}

/-- The quotient is reduced to 64 bits, so the rule also covers −2^63 divided by −1. -/
theorem divS_of_ne_zero (h : y ≠ 0) : divS x y = int64 (x.toInt.tdiv y.toInt) := by
  rw [divS, if_neg h]
  exact int64_eq_of_bmod (BitVec.toInt_sdiv x y)

theorem remS_of_ne_zero (h : y ≠ 0) : remS x y = int64 (x.toInt.tmod y.toInt) := by
  rw [remS, if_neg h, ← BitVec.toInt_srem, int64_toInt]

theorem divU_of_ne_zero (h : y ≠ 0) : divU x y = nat64 (x.toNat / y.toNat) := by
  rw [divU, if_neg h, ← BitVec.toNat_udiv, nat64_toNat]

theorem remU_of_ne_zero (h : y ≠ 0) : remU x y = nat64 (x.toNat % y.toNat) := by
  rw [remU, if_neg h, ← BitVec.toNat_umod, nat64_toNat]

theorem ne_zero_of_toInt_eq_neg_one (hy : y.toInt = -1) : y ≠ 0 := by
  rintro rfl
  exact absurd hy (by decide)

/-- The quotient 2^63 and the dividend −2^63 are the same residue. -/
theorem divS_eq_dividend_of_wraps (hx : x.toInt = -2 ^ 63) (hy : y.toInt = -1) : divS x y = x := by
  calc divS x y = int64 (x.toInt.tdiv y.toInt) := divS_of_ne_zero (ne_zero_of_toInt_eq_neg_one hy)
    _ = int64 (-2 ^ 63) := by rw [hx, hy]; decide
    _ = x := by rw [← hx, int64_toInt]

theorem remS_neg_one_eq_zero (hy : y.toInt = -1) : remS x y = 0 := by
  rw [remS_of_ne_zero (ne_zero_of_toInt_eq_neg_one hy), hy, Int.tmod_neg, Int.tmod_one]
  rfl

end

/-! ### Immediates (R25, R338) -/

theorem simm_toInt (imm : BitVec 16) : (simm imm).toInt = imm.toInt := BitVec.toInt_signExtend_of_le (by decide)

theorem simm_eq_int64 (imm : BitVec 16) : simm imm = int64 imm.toInt := by rw [← simm_toInt, int64_toInt]

theorem add_simm_eq_int64 (x : Dword) (imm : BitVec 16) : x + simm imm = int64 (x.toInt + imm.toInt) := by
  rw [int64_add, int64_toInt, simm_eq_int64]

theorem flag_slt_simm (x : Dword) (imm : BitVec 16) : flag (x.slt (simm imm)) = truth (x.toInt < imm.toInt) := by
  rw [flag_slt, simm_toInt]

theorem flag_ult_simm (x : Dword) (imm : BitVec 16) :
    flag (x.ult (simm imm)) = truth (x.toNat < (int64 imm.toInt).toNat) := by
  rw [flag_ult, simm_eq_int64]

theorem offset16_eq_int64 (off : BitVec 16) : offset16 off = int64 (4 * off.toInt) := by
  rw [Int.mul_comm, int64_mul, ← simm_eq_int64]
  rfl

theorem add_offset16_eq_int64 (x : Dword) (off : BitVec 16) : x + offset16 off = int64 (x.toInt + 4 * off.toInt) := by
  rw [int64_add, int64_toInt, offset16_eq_int64]

theorem zimm_toNat (imm : BitVec 16) : (zimm imm).toNat = imm.toNat := BitVec.toNat_setWidth_of_le (by decide)

@[simp] theorem zimm_getLsbD (imm : BitVec 16) (j : Nat) : (zimm imm).getLsbD j = imm.getLsbD j := by
  rw [← BitVec.testBit_toNat, zimm_toNat, BitVec.testBit_toNat]

/-- The immediate fills the 16 bits that the shift left empty. -/
theorem shiftLeft_or_zimm (x : Dword) (imm : BitVec 16) : x <<< 16 ||| zimm imm = nat64 (x.toNat * 2 ^ 16 + imm.toNat) := by
  have disjoint : x <<< 16 &&& zimm imm = 0#64 := by
    refine BitVec.eq_of_getLsbD_eq fun j _ => ?_
    by_cases hj : j < 16
    · simp [hj]
    · simp [BitVec.getLsbD_of_ge imm j (Nat.not_lt.mp hj)]
  rw [← BitVec.add_eq_or_of_and_eq_zero _ _ disjoint, shiftLeft_eq_nat64, nat64_add, ← zimm_toNat, nat64_toNat]

/-! ### The statements -/

/-- An instruction that completes with a value has computed it: `State.result_completes` for an arm of exec. -/
theorem computed_of_exec {i : Instr} {s : State} {d : BitVec 5} {w v : Dword} (h : exec i s = .next (s.result d w))
    (hv : w = v) : Computed i s d v :=
  ⟨_, h, hv ▸ State.result_completes s d w⟩

theorem sums_products_comparisons_computed : registerArithmeticResults := fun _ _ _ _ =>
  ⟨computed_of_exec rfl (add_eq_nat64 _ _), computed_of_exec rfl (sub_eq_int64 _ _), computed_of_exec rfl (mul_eq_nat64 _ _),
    computed_of_exec rfl rfl, computed_of_exec rfl rfl,
    computed_of_exec rfl (ite_slt_eq_min _ _), computed_of_exec rfl (ite_slt_eq_max _ _),
    computed_of_exec rfl (ite_ult_eq_min _ _), computed_of_exec rfl (ite_ult_eq_max _ _),
    computed_of_exec rfl (flag_slt _ _), computed_of_exec rfl (flag_ult _ _)⟩

/-- The cases of R336: a divisor of 0, the quotient that wraps, and the rest. -/
theorem quotients_remainders_computed : divisionResults := by
  intro s d a b x y zero wraps
  have div {v} (hv : divS x y = v) : Computed (.div d a b) s d v := computed_of_exec rfl hv
  have divu {v} (hv : divU x y = v) : Computed (.divu d a b) s d v := computed_of_exec rfl hv
  have rem {v} (hv : remS x y = v) : Computed (.rem d a b) s d v := computed_of_exec rfl hv
  have remu {v} (hv : remU x y = v) : Computed (.remu d a b) s d v := computed_of_exec rfl hv
  refine ⟨fun (hz : y = 0) => ?_, fun ⟨hx, hy⟩ => ?_, fun hz _ => ?_, fun hz => ?_⟩
  · exact ⟨div (hz ▸ divS_zero x), divu (hz ▸ divU_zero x), rem (hz ▸ remS_zero x), remu (hz ▸ remU_zero x)⟩
  · exact ⟨div (divS_eq_dividend_of_wraps hx hy), rem (remS_neg_one_eq_zero hy)⟩
  · exact ⟨div (divS_of_ne_zero hz), rem (remS_of_ne_zero hz)⟩
  · exact ⟨divu (divU_of_ne_zero hz), remu (remU_of_ne_zero hz)⟩

end Sys2Proof.Machine

namespace Sys2Proof.Proofs

open Sys2Proof.Machine

/-- Settles O1: R335 and R336, each operation of the model equal to the number the rule gives. -/
theorem registerArithmeticResults : Obligations.RegisterArithmeticResults :=
  ⟨sums_products_comparisons_computed, quotients_remainders_computed⟩

/-- Settles O4: R338. The three bitwise forms state their result bit by bit, the others as a number. -/
theorem immediateResults : Obligations.ImmediateResults := by
  intro s d a imm n x
  refine ⟨?addi, ⟨x &&& zimm imm, ?andi, ?andiBits⟩, ⟨x ||| zimm imm, ?ori, ?oriBits⟩, ⟨x ^^^ zimm imm, ?xori, ?xoriBits⟩,
    ?shli, ?shri, ?srai, ?slti, ?sltiu, ?lih, ?addpc⟩
  case addi => exact computed_of_exec rfl (add_simm_eq_int64 x imm)
  case andi | ori | xori => exact computed_of_exec rfl rfl
  case andiBits | oriBits | xoriBits => intro j; simp
  case shli => exact computed_of_exec rfl (shiftLeft_eq_nat64 x n.toNat)
  case shri => exact computed_of_exec rfl (ushiftRight_eq_nat64 x n.toNat)
  case srai => exact computed_of_exec rfl (sshiftRight_eq_int64 x n.toNat)
  case slti => exact computed_of_exec rfl (flag_slt_simm x imm)
  case sltiu => exact computed_of_exec rfl (flag_ult_simm x imm)
  case lih => exact computed_of_exec rfl (shiftLeft_or_zimm x imm)
  case addpc => exact computed_of_exec rfl (add_offset16_eq_int64 s.me.pc imm)

end Sys2Proof.Proofs
end
